-- ==== Sys2Proof/Word.lean ====
section
/-! DEFINITION. The word types of the Ulbeg 412 and their plainest arithmetic: bytes, 16-bit and 32-bit
fields (Table 8-2, Table 11-2), and saturation (R1 "Arithmetic"). -/

namespace Sys2Proof

/-- A byte of a frame, a tag message or the flash array. -/
abbrev Byte := BitVec 8
/-- A two-byte field: night number, mass, fall time, bin count, a weigh sample, the encoder count. -/
abbrev W16 := BitVec 16
/-- A four-byte field: serial, account, night clock, sequence number, audit mark. -/
abbrev W32 := BitVec 32

/-- R1: a saturating value stops at the bound of its range. -/
def saturate (bound n : Nat) : Nat := min bound n

end Sys2Proof
end

