-- ==== Sys2Proof/Syntax.lean ====
section
/-! DEFINITION. The commands of the block: one constructor for each row of spec/opcode_table.json, in the
table's order. The table gives no operand fields; an operand here is what the rule of the row says
arrives from outside the part at that event (logs 12, 13, 22 and 30). -/

namespace Sys2Proof

/-- The two encoder lines as sampled (R67). -/
structure EncPair where
  ena : Bool
  enb : Bool
  deriving DecidableEq, Repr

/-- What the part reads from its lines as it leaves reset: the straps (R167), the first encoder sample
(R67) and the level that the landing beam line first holds (R79). -/
structure StartLines where
  /-- ADR3..ADR0 (R167) -/
  adr : BitVec 4
  /-- SHF1..SHF0: the own shaft (R167) -/
  shf : Fin 4
  /-- SRV: service enable (R167) -/
  srv : Bool
  /-- the first sample of ENA and ENB (R67) -/
  enc : EncPair
  /-- LND reads active (beam broken) through its first 2 ms (R79) -/
  beamBroken : Bool
  deriving DecidableEq, Repr

/-- A frame as its bytes pass on the link (R91): the length byte is the number of payload bytes. -/
structure Frame where
  kind : Byte
  source : Byte
  dest : Byte
  payload : List Byte
  check : Byte
  deriving DecidableEq, Repr

/-- The levels of the two bits of an answer slot, true for high (R96). -/
structure SlotLevels where
  a : Bool
  b : Bool
  deriving DecidableEq, Repr

/-- The six lamps of Table 10-1. -/
inductive Lamp where
  | ready | wait | close | accepted | returned | service
  deriving DecidableEq, Repr

/-- The commands (opcode_table.json). -/
inductive Instr where
  /-- START (R177): the part leaves reset with these levels on its lines. -/
  | start (lines : StartLines)
  /-- SCAN_COMPLETE (R178) -/
  | scanComplete
  /-- RST_LOW (R176) -/
  | rstLow
  /-- RST_HIGH (R176) -/
  | rstHigh
  /-- SUPPLY_WARN (R174) -/
  | supplyWarn
  /-- SUPPLY_CUT (R175) -/
  | supplyCut
  /-- POWER_LOSS (R173) -/
  | powerLoss
  /-- SUPPLY_RISE (R173) -/
  | supplyRise
  /-- SUPPLY_DIP (R173) -/
  | supplyDip
  /-- SUPPLY_RECOVERY_EXPIRY (R173) -/
  | supplyRecoveryExpiry
  /-- HATCH_OPENING (R4) -/
  | hatchOpening
  /-- HATCH_CLOSING (R12) -/
  | hatchClosing
  /-- WEIGH_BYTE_RECEIVED (R30): the byte, whether its stop bit was low, and whether it came more than
  1 ms after the end of a held first byte. -/
  | weighByteReceived (byte : Byte) (framingError late : Bool)
  /-- SAMPLE_GAP_EXPIRY (R31) -/
  | sampleGapExpiry
  /-- WEIGH_RECOVERY_EXPIRY (R32) -/
  | weighRecoveryExpiry
  /-- SETTLE_TIMER_EXPIRY (R34) -/
  | settleTimerExpiry
  /-- TARE_INTERVAL_EXPIRY (R39) -/
  | tareIntervalExpiry
  /-- TAG_BYTE_RECEIVED (R48): the byte and whether its stop bit was low (R47). -/
  | tagByteReceived (byte : Byte) (framingError : Bool)
  /-- BYTE_GAP_EXPIRY (R49) -/
  | byteGapExpiry
  /-- TAG_WINDOW_EXPIRY (R51) -/
  | tagWindowExpiry
  /-- ENCODER_STEP (R67): the sample of ENA and ENB. -/
  | encoderStep (sample : EncPair)
  /-- INVALID_TRANSITION (R68): the sample differs from the reference in both lines. -/
  | invalidTransition
  /-- HOME_SWITCH_ACTIVE (R70) -/
  | homeSwitchActive
  /-- HOME_SWITCH_INACTIVE (R70) -/
  | homeSwitchInactive
  /-- DEAD_TIME_EXPIRY (R72) -/
  | deadTimeExpiry
  /-- LANDING_EVENT (R81) -/
  | landingEvent
  /-- BEAM_CLEAR (R79) -/
  | beamClear
  /-- HOME_LIMIT_EXPIRY (R7) -/
  | homeLimitExpiry
  /-- TURN_LIMIT_EXPIRY (R20) -/
  | turnLimitExpiry
  /-- FALL_WINDOW_EXPIRY (R21) -/
  | fallWindowExpiry
  /-- LANDING_SETTLE_EXPIRY (R22) -/
  | landingSettleExpiry
  /-- CLAIM_WAIT_EXPIRY (R19) -/
  | claimWaitExpiry
  /-- RETRY_INTERVAL_EXPIRY (R17) -/
  | retryIntervalExpiry
  /-- ACCEPTED_LAMP_EXPIRY (R23) -/
  | acceptedLampExpiry
  /-- READY_DIMMING_EXPIRY (R184) -/
  | readyDimmingExpiry
  /-- ROW_TIME_EXPIRY (R181) -/
  | rowTimeExpiry
  /-- FLASH_HALF_EXPIRY (R182): the half of this lamp ends. -/
  | flashHalfExpiry (lamp : Lamp)
  /-- SPACING_TIMER_EXPIRY (R117) -/
  | spacingTimerExpiry
  /-- LAPSE (R113): the hold age of this shaft's view reaches the hold limit. -/
  | lapse (shaft : Fin 4)
  /-- SYNC_TIMER_EXPIRY (R138) -/
  | syncTimerExpiry
  /-- LINK_FREE (R89) -/
  | linkFree
  /-- START_MARK (R89) -/
  | startMark
  /-- HOLD_THE_CLOCK (R103): the bytes of the frame in reception so far, from the kind byte to the one after which
  the station holds: the destination byte or one of the rest. -/
  | holdTheClock (kind source dest : Byte) (rest : List Byte)
  /-- CHECK_BYTE (R99): the bits of the frame on the link that have come since the last command that brought some
  (R87: each the level of LDA at a rising edge of LCK, true for high), for the judgement the last bit of the
  check byte the last of them. -/
  | checkByte (bits : List Bool)
  /-- END_MARK (R101): the slot levels as every OTHER participant leaves them, absent for an end mark
  that comes before both slot bits have been taken (R100). -/
  | endMark (slot : Option SlotLevels)
  /-- OVERLONG_FRAME (R100) -/
  | overlongFrame
  /-- FRAME_TIMEOUT (R100) -/
  | frameTimeout
  /-- LOSS_OF_CONTENTION (R92): the next bit of the own frame, sent as 1, reads 0. -/
  | lossOfContention
  /-- STALL (R93) -/
  | stall
  /-- ABANDONMENT (R94) -/
  | abandonment
  /-- COMPLETED (R107): the slot levels the transmitter reads. -/
  | completed (slot : SlotLevels)
  /-- JAM_TAKEN (R129) -/
  | jamTaken
  /-- LANDED_TAKEN (R130) -/
  | landedTaken
  /-- RELEASE_TAKEN (R128) -/
  | releaseTaken
  /-- SYNC_TAKEN (R141): the whole milliseconds from the frame's start mark to its taking (R140). -/
  | syncTaken (elapsed : W32)
  /-- CLOSE_TAKEN (R60) -/
  | closeTaken
  /-- CLEAR_SHAFT (R133) -/
  | clearShaft
  /-- CLEAR_BIN (R134) -/
  | clearBin
  /-- CLEAR_STATION (R25) -/
  | clearStation
  /-- HOLD (R28) -/
  | hold
  /-- AUDIT_MARK (R161) -/
  | auditMark
  /-- READ_JOURNAL (R163) -/
  | readJournal
  /-- READ_STATE (R172) -/
  | readState
  /-- CONFIG_WRITE (R171) -/
  | configWrite
  /-- PROGRAM_COMPLETION (R155) -/
  | programCompletion
  /-- ERASE_COMPLETION (R157) -/
  | eraseCompletion
  /-- INFO_COMPLETION (R158) -/
  | infoCompletion
  /-- MILLISECOND_END (R136) -/
  | millisecondEnd
  /-- SETTLE_TIME_RESTART (R89) -/
  | settleTimeRestart
  deriving DecidableEq, Repr

end Sys2Proof
end

