-- ==== Sys2Proof/Config.lean ====
section
/-! DEFINITION. The free values: what the spec leaves to the timing of the lines or of a reset. None has
a body, so nothing can be proved of a particular value of one; a claim holds whatever they are. Each is
read at the number of the draw (State.draws), so that every reading is a fresh value. -/

namespace Sys2Proof

/-- R90: whether LDA already reads low when the station in FREE comes to start a frame ("Which of two
close starts finds LDA already low is decided by the timing of the lines"). Log 7. -/
opaque Config.ldaAlreadyLow : Nat → Bool

/-- R159: how many bytes an operation cut off by reset had programmed. The reader caps it at the
operation's length. Log 8. -/
opaque Config.bytesProgrammed : Nat → Nat

/-- R159: how a byte of the flash array may read after an erase cut off by reset: the value for the
draw and the address. Log 9 and log 10. -/
opaque Config.partlyErasedByte : Nat → Nat → Byte

/-- R159, R171: whether the erase at the head of an information-page operation cut off by reset had
come to its end. Log 10. -/
opaque Config.infoEraseEnded : Nat → Bool

/-- R19 and R27 both give a return reason when POWER is raised while a CLAIM in transmission is only
awaited after the claim wait limit; which of the two applies is not said. Log 11. -/
opaque Config.powerOverridesTimeout : Nat → Bool

end Sys2Proof
end

