-- ==== Sys2Proof/Machine/State.lean ====
section
/-! DEFINITION. The state of the part, block by block (00_scope.md Table 0-1), as plain data, and the state
after the power-on reset. INVENTORY.md lists every field with its rule and its reset value. -/

namespace Sys2Proof.Machine

/-- A timer of the part: stopped, or running for the length in ms that it was started with. The time it
has run is not held: its expiry is a command (log 3). -/
abbrev Timer := Option Nat

/-- One value for each shaft 0..3, or for each bin 0..3 (R111). -/
structure Four (α : Type) where
  x0 : α
  x1 : α
  x2 : α
  x3 : α
  deriving DecidableEq, Repr

/-- An output line of the part: released (high-impedance), or driven low or high (Table 10-3). -/
inductive OutLine where
  | released | low | high
  deriving DecidableEq, Repr

/-! ## Supply monitor (R173) and the course of a start (R176 to R178) -/

/-- R173: the supply level. -/
inductive SupplyLevel where
  | normal | warn | cut
  deriving DecidableEq, Repr

/-- R173: the state of the supply monitor. -/
structure Supply where
  level : SupplyLevel
  /-- the 50 ms recovery timer -/
  recovery : Timer
  powerLoss : Bool
  cutSinceStart : Bool
  deriving DecidableEq, Repr

/-- Where the part stands between reset and service: held in reset (R175, R176), stopped after step 1
on an address that is not 1..8 (R167), in the journal scan (R178 step 2), or past step 6. -/
inductive PartPhase where
  | inReset | badAddress | scanning | service
  deriving DecidableEq, Repr

/-- R177: the kind of a start. -/
inductive StartKind where
  | powerOn | resetPin | supplyCut
  deriving DecidableEq, Repr

/-- R167: the straps as read at the most recent start. -/
structure Straps where
  adr : BitVec 4
  shf : Fin 4
  srv : Bool
  deriving DecidableEq, Repr

/-- Table 9-1: a bag type band, both bounds in g. -/
structure Band where
  min : Nat
  max : Nat
  deriving DecidableEq, Repr

/-- Table 9-1: the configuration loaded at the most recent start, in the table's order and units. -/
structure Cfg where
  linkRate : Nat
  syncPeriod : Nat
  holdLimit : Nat
  /-- claim wait limit, in seconds -/
  claimWait : Nat
  retryInterval : Nat
  fallWindow : Nat
  turnLimit : Nat
  homeLimit : Nat
  dropTarget : Nat
  reverseSlack : Nat
  scaleK : Nat
  stability : Nat
  settleTime : Nat
  emptyThreshold : Nat
  absoluteMax : Nat
  zeroTrack : Nat
  tagWindow : Nat
  binCountLimit : Nat
  /-- bin mass limit, in kg -/
  binMassLimit : Nat
  eraseTime : Nat
  tareReference : Nat
  /-- the bands of bag types 0..7 -/
  bands : List Band
  deriving DecidableEq, Repr

/-! ## Chute sequencer (R3) -/

/-- Table 0-3: the sequencer states. -/
inductive SeqState where
  | start | idle | opened | check | claim | turn | fall | home | present | held | fault
  deriving DecidableEq, Repr

/-- Table 0-4: the hold reasons, in the table's order. -/
inductive HoldReason where
  | binFull | jam | journalFull | journalBusy | power | audit | zero | weigh | unconfigured | addressClash
  deriving DecidableEq, Repr

/-- R10: the hold reason set, one indication for each reason of Table 0-4. -/
structure HoldSet where
  binFull : Bool
  jam : Bool
  journalFull : Bool
  journalBusy : Bool
  power : Bool
  audit : Bool
  zero : Bool
  weigh : Bool
  unconfigured : Bool
  addressClash : Bool
  deriving DecidableEq, Repr

/-- Table 1-4: the exception flags. -/
structure ExcFlags where
  massBand : Bool
  unstable : Bool
  /-- SEAL -/
  sealBroken : Bool
  unchecked : Bool
  clockFree : Bool
  nightPartial : Bool
  multiLanding : Bool
  notLanded : Bool
  deriving DecidableEq, Repr

/-- Table 1-3: the return reasons. -/
inductive ReturnReason where
  | weighFault | outOfService | overweight | noTag | multiTag | tagType | duplicate | claimTimeout
  deriving DecidableEq, Repr

/-- Table 1-5: the fault reasons. -/
inductive FaultReason where
  | rotorStuck | homeLimit | reverse | hatchForced | encoder | zeroDrift
  deriving DecidableEq, Repr

/-- Table 1-1: the pending bag record; a field without a value holds the table's absent value. -/
structure PendingBag where
  serial : W32
  account : W32
  bagType : Byte
  mass : W16
  fall : W16
  flags : ExcFlags
  reason : Option ReturnReason
  deriving DecidableEq, Repr

/-- R4: the filtered hatch state. -/
inductive Hatch where
  | closed | opened
  deriving DecidableEq, Repr

/-- R12, R35: how a weighing ended: with a sample gap, or with a mass in g and its indications. -/
inductive WeighOutcome where
  | gap
  | weighed (mass : Nat) (overRange unstable : Bool)
  deriving DecidableEq, Repr

/-- R19, R27: why the outcome of a CLAIM in transmission is only awaited. -/
inductive AwaitCause where
  | timeout | power
  deriving DecidableEq, Repr

/-- R3: the state of the chute sequencer. -/
structure Sequencer where
  state : SeqState
  holds : HoldSet
  bag : PendingBag
  claimWait : Timer
  accepted : Timer
  retry : Timer
  homeLimit : Timer
  turnLimit : Timer
  fallWindow : Timer
  landingSettle : Timer
  weighSeen : Bool
  hatch : Hatch
  /-- LKS (R5, R185) -/
  lock : OutLine
  /-- the weighing result handed over in this CHECK (R12) -/
  weighed : Option WeighOutcome
  /-- the tag window of this CHECK has ended (R12) -/
  tagEnded : Bool
  /-- PRESENT waits for the deferred RETURN to be staged (R15, R152) -/
  returnWait : Bool
  /-- the claim has been abandoned but for a CLAIM in transmission (R19, R27) -/
  awaiting : Option AwaitCause
  deriving DecidableEq, Repr

/-! ## Weigh channel (R29) -/

/-- Table 2-1: what the current window is for. -/
inductive WeighActivity where
  | idle | settle | weighing | tare
  deriving DecidableEq, Repr

/-- Table 2-1 without WEIGH and ZERO, which stand in the hold reason set (log 32), and the settle timer
of R34. -/
structure Weigh where
  heldByte : Option Byte
  window : List W16
  t16 : Nat
  /-- running (`some 20`) or expired -/
  gap : Timer
  recovery : Timer
  snapPending : Bool
  goodRun : Nat
  badRun : Nat
  tareInterval : Timer
  settle : Timer
  activity : WeighActivity
  windowNumber : Nat
  deriving DecidableEq, Repr

/-! ## Tag input (R46) -/

/-- Table 3-1: the first read of a window. -/
structure FirstRead where
  account : W32
  bagType : Byte
  sealValue : Byte
  deriving DecidableEq, Repr

/-- Table 3-1: the assembler phase. -/
inductive TagPhase where
  | hunt | collect
  deriving DecidableEq, Repr

/-- Table 3-1: the state of the tag input. -/
structure TagInput where
  phase : TagPhase
  buffer : List Byte
  byteGap : Timer
  windowOpen : Bool
  windowTimer : Timer
  readSet : List W32
  firstRead : Option FirstRead
  deriving DecidableEq, Repr

/-! ## Night list (R55, R58) -/

/-- R55, R58: the night list, oldest entry first, the night number and close since start. -/
structure NightList where
  entries : List W32
  night : W16
  closeSinceStart : Bool
  deriving DecidableEq, Repr

/-! ## Rotor counter (R66) and landing input (R78) -/

/-- Table 4-2: the modes. -/
inductive RotorMode where
  | stopped | forward | watch | reverse
  deriving DecidableEq, Repr

/-- A direction of the motor (R72). -/
inductive Dir where
  | fwd | rev
  deriving DecidableEq, Repr

/-- Table 4-2, with the motor lines of R71; the drop target and the slack stand in the loaded
configuration. -/
structure Rotor where
  mode : RotorMode
  count : W16
  underflow : Bool
  encRef : EncPair
  maxReached : Int
  dropTime : Option W32
  /-- the home switch filter reads ACTIVE -/
  homeActive : Bool
  lastDir : Option Dir
  /-- running, or `none` for elapsed -/
  deadTime : Timer
  mrun : OutLine
  mdir : OutLine
  deriving DecidableEq, Repr

/-- Table 4-4: the state of the landing input. -/
structure Landing where
  /-- the beam filter reads ACTIVE -/
  beamActive : Bool
  taking : Bool
  capture : Option W32
  buffer : Option W32
  count : Nat
  deriving DecidableEq, Repr

/-! ## Link controller (R85) -/

/-- Table 5-1: the link phases. -/
inductive LinkPhase where
  | off | settling | free | transmitting | receiving
  deriving DecidableEq, Repr

/-- R126: the reasons of a RELEASE that the part sends. -/
inductive ReleaseReason where
  | duplicate | fault
  deriving DecidableEq, Repr

/-- The frames the part sends (Table 5-2, Table 11-2). -/
inductive TxFrame where
  | jam (shaft : Fin 4)
  | landed (shaft : Fin 4) (serial : W32) (mass : W16) (count : W16) (binMass : W32)
  | release (shaft : Fin 4) (reason : ReleaseReason)
  | claim (shaft : Fin 4) (serial : W32)
  | sync (clock : W32) (night : W16) (synced : Bool)
  | journal (dest : Byte) (record : List Byte)
  | stateReport (dest : Byte) (payload : List Byte)
  deriving DecidableEq, Repr

/-- R85: an entry of the transmit queue. -/
structure TxEntry where
  content : TxFrame
  attempts : Nat
  age : Nat
  deriving DecidableEq, Repr

/-- The frames the part takes into its receive queue (Table 5-2), with the fields their owners use. -/
inductive RxMsg where
  | jam (shaft : Byte)
  | landed (shaft : Byte) (serial : W32) (mass count : W16) (binMass : W32)
  | release (shaft : BitVec 4)
  | sync (clock : W32) (night : W16) (flag : Byte)
  | close (night : W16)
  | clear (target index : Byte)
  | hold (arg : Byte)
  | auditMark (mark : W32)
  | readJournal (source : Byte) (from_ : W32) (count : Byte)
  | readState (source : Byte)
  | configWrite (offset : Byte) (data : List Byte)
  deriving DecidableEq, Repr

/-- A frame judged at its check byte (R99): what the station does with it at its end mark. -/
structure Judged where
  frame : Frame
  /-- the CRC-8 comparison succeeded -/
  crcGood : Bool
  /-- a CLAIM handed to the shaft coordinator with a good comparison: its shaft byte (R98) -/
  claimShaft : Option Byte
  /-- the frame is taken: what enters the receive queue (R101) -/
  take : Option RxMsg
  /-- this station drives bit A low -/
  driveA : Bool
  /-- this station drives bit B low -/
  driveB : Bool
  deriving DecidableEq, Repr

/-- The frame in reception (Table 5-1): absent, the bits received so far before its check byte, judged, or
followed only until a mark or a timeout ends it (R99, R100). In TRANSMITTING it is the own frame, with the bits
that the station has read of it as it sent them (R92). The bits come with the commands (log 13). -/
inductive Reception where
  | absent
  | bits (received : List Bool)
  | judged (j : Judged)
  | followed
  deriving DecidableEq, Repr

/-- Table 5-1: the state of the link controller. -/
structure Link where
  phase : LinkPhase
  settleTime : Nat
  reception : Reception
  queue : List TxEntry
  /-- the age of the entry in transmission -/
  inTx : Option Nat
  nextAge : Nat
  rx : List RxMsg
  /-- the station holds LCK low (R103) -/
  holding : Bool
  dropCount : Nat
  deriving DecidableEq, Repr

/-! ## Shaft coordinator (R111) -/

/-- R111: a shaft view. -/
inductive View where
  | free
  | held (holder : BitVec 4)
  | jammed
  deriving DecidableEq, Repr

/-- R131: a bin tally: bags, and mass in g. -/
structure Tally where
  count : Nat
  mass : Nat
  deriving DecidableEq, Repr

/-- Table 6-2: the claim phases. -/
inductive ClaimPhase where
  | idle | deferred | spacing | queued | sending
  deriving DecidableEq, Repr

/-- Table 6-1: the state of the shaft coordinator. -/
structure Shafts where
  views : Four View
  holdAge : Four Timer
  tallies : Four Tally
  phase : ClaimPhase
  claimSerial : Option W32
  spacing : Timer
  /-- the sequencer has given up the CLAIM that is SENDING (R121) -/
  givenUp : Bool
  /-- the CLAIM has lost contention, and its withdraw conditions are still to be judged after the frame that
  won (R118; log 18) -/
  lost : Bool
  deriving DecidableEq, Repr

/-! ## Night clock (R135) -/

/-- Table 7-1: the state of the night clock. -/
structure NightClock where
  clock : W32
  /-- the clock flag is SYNCED -/
  synced : Bool
  syncTimer : Timer
  deriving DecidableEq, Repr

/-! ## Journal controller (R146) -/

/-- Table 8-3: the record kinds. -/
inductive RecordKind where
  | start | deposit | returned | unclaimed | jam | clear | close | fault | power | audit | hold
  deriving DecidableEq, Repr

/-- A record as it is asked for, before its stamp (R147). -/
structure RecordReq where
  kind : RecordKind
  detail : Byte
  flags : ExcFlags
  shaft : Byte
  serial : W32
  account : W32
  bagType : Byte
  mass : W16
  fall : W16
  binCount : W16
  deriving DecidableEq, Repr

/-- A stamped record, or the contents of a valid slot (Table 8-2 without its CRC-16); the kind is the code
of Table 8-3. -/
structure Record where
  seq : W32
  night : W16
  clock : W32
  station : Byte
  kind : Byte
  detail : Byte
  flags : Byte
  shaft : Byte
  serial : W32
  account : W32
  bagType : Byte
  mass : W16
  fall : W16
  binCount : W16
  deriving DecidableEq, Repr

/-- R163: a READ_JOURNAL request. -/
structure ReadReq where
  source : Byte
  from_ : W32
  count : Byte
  deriving DecidableEq, Repr

/-- R154: the operation the flash array is performing, with the page of an erase and the write of an
information-page operation. -/
inductive FlashState where
  | idle
  | program
  | erase (page : Nat)
  | info (offset : Byte) (data : List Byte)
  deriving DecidableEq, Repr

/-- Table 8-1: the state of the journal controller. -/
structure Journal where
  seqCounter : W32
  newest : W32
  writePtr : Nat
  auditMark : W32
  staging : List Record
  deferred : Option RecordReq
  startHold : List RecordReq
  pendingRead : Option ReadReq
  array : FlashState
  deriving DecidableEq, Repr

/-! ## Lamp scanner (R181) -/

/-- R182: the lamp modes. -/
inductive LampMode where
  | off | full | dim | flash
  deriving DecidableEq, Repr

/-- One value for each lamp of Table 10-1. -/
structure PerLamp (α : Type) where
  ready : α
  wait : α
  close : α
  accepted : α
  returned : α
  service : α
  deriving DecidableEq, Repr

/-- The row lines LR0 and LR1 (R181). -/
inductive LampRow where
  | lr0 | lr1
  deriving DecidableEq, Repr

/-- How a column line is driven through a row time (R182). -/
inductive ColDrive where
  | released | off | full | quarter
  deriving DecidableEq, Repr

/-- The three column lines of Table 10-1. -/
structure Columns where
  lc0 : ColDrive
  lc1 : ColDrive
  lc2 : ColDrive
  deriving DecidableEq, Repr

/-- R181: the state of the lamp scanner. -/
structure Lamps where
  modes : PerLamp LampMode
  /-- the FULL half of a flashing lamp is in force -/
  fullHalf : PerLamp Bool
  halfTimer : PerLamp Timer
  readyTimer : Timer
  /-- the active row, `none` while both are released -/
  row : Option LampRow
  rowTimer : Timer
  columns : Columns
  deriving DecidableEq, Repr

/-! ## The part -/

/-- The whole part. -/
structure State where
  supply : Supply
  /-- the RST pin reads low (R176) -/
  rstLow : Bool
  phase : PartPhase
  startKind : StartKind
  straps : Straps
  cfg : Cfg
  csq : Sequencer
  wch : Weigh
  tgi : TagInput
  nls : NightList
  rct : Rotor
  ldi : Landing
  lkc : Link
  shc : Shafts
  nck : NightClock
  jnc : Journal
  lms : Lamps
  /-- the flash array, in the canonical form of `flashWf` -/
  flash : List Host.Cell
  /-- the MODEL's own: how many free values have been read (log 36) -/
  draws : Nat
  /-- the commands that wait, first in first out -/
  pending : List Instr
  deriving DecidableEq, Repr

/-- The block has no fault that stops it: a mechanical fault is the sequencer state FAULT (R24), and a
lost or damaged input is a hold reason (R10). No constructor: nobody raises one. -/
inductive Fault where
  deriving DecidableEq, Repr

/-- The reasons a command has no meaning. -/
inductive Refusal where
  /-- The command has no meaning in this model yet; raised by an arm of `exec` only. Safe. -/
  | notModelled (mnemonic : String)
  deriving DecidableEq, Repr

/-- The part as its supply first rises from nothing (R173: the level is CUT and the power-loss indication
set), held in reset (R175) with its outputs released. The flash array reads blank (log 5). The spec gives the
blocks' values after a start only, and START sets them again; the values shown here are the model's choice
(log 6): those of the "after every start" tables, but for the hold reasons (none raised, ZERO among them, which a
start raises), the lamp scanner (R181: every lamp dark, the state lost; shown are every mode OFF, no half, the READY
dimming timer stopped), and where the table takes a line's level, an encoder reference of 00 and an INACTIVE beam
filter. -/
def State.reset : State where
  supply := { level := .cut, recovery := none, powerLoss := true, cutSinceStart := false }
  rstLow := false
  phase := .inReset
  startKind := .powerOn
  straps := { adr := 0, shf := 0, srv := false }
  cfg :=
    { linkRate := 1, syncPeriod := 1000, holdLimit := 8000, claimWait := 30, retryInterval := 200,
      fallWindow := 1500, turnLimit := 3000, homeLimit := 3000, dropTarget := 400, reverseSlack := 8,
      scaleK := 16384, stability := 12, settleTime := 300, emptyThreshold := 20, absoluteMax := 6000,
      zeroTrack := 160, tagWindow := 1500, binCountLimit := 400, binMassLimit := 250, eraseTime := 5,
      tareReference := 0, bands := List.replicate 8 { min := 0, max := 9999 } }
  csq :=
    { state := .start
      holds := { binFull := false, jam := false, journalFull := false, journalBusy := false,
                 power := false, audit := false, zero := false, weigh := false,
                 unconfigured := false, addressClash := false }
      bag := { serial := 0, account := 0, bagType := 0xFF, mass := 0xFFFF, fall := 0xFFFF,
               flags := { massBand := false, unstable := false, sealBroken := false, unchecked := false,
                          clockFree := false, nightPartial := false, multiLanding := false,
                          notLanded := false },
               reason := none }
      claimWait := none, accepted := none, retry := none, homeLimit := none, turnLimit := none
      fallWindow := none, landingSettle := none, weighSeen := false, hatch := .closed
      lock := .released, weighed := none, tagEnded := false, returnWait := false, awaiting := none }
  wch :=
    { heldByte := none, window := [], t16 := 0, gap := none, recovery := none, snapPending := true,
      goodRun := 0, badRun := 0, tareInterval := none, settle := none, activity := .idle,
      windowNumber := 1 }
  tgi :=
    { phase := .hunt, buffer := [], byteGap := none, windowOpen := false, windowTimer := none,
      readSet := [], firstRead := none }
  nls := { entries := [], night := 0, closeSinceStart := false }
  rct :=
    { mode := .stopped, count := 0, underflow := false, encRef := { ena := false, enb := false },
      maxReached := 0, dropTime := none, homeActive := false, lastDir := none, deadTime := none,
      mrun := .released, mdir := .released }
  ldi := { beamActive := false, taking := false, capture := none, buffer := none, count := 0 }
  lkc :=
    { phase := .off, settleTime := 0, reception := .absent, queue := [], inTx := none, nextAge := 0,
      rx := [], holding := false, dropCount := 0 }
  shc :=
    { views := { x0 := .free, x1 := .free, x2 := .free, x3 := .free }
      holdAge := { x0 := none, x1 := none, x2 := none, x3 := none }
      tallies := { x0 := { count := 0, mass := 0 }, x1 := { count := 0, mass := 0 },
                   x2 := { count := 0, mass := 0 }, x3 := { count := 0, mass := 0 } }
      phase := .idle, claimSerial := none, spacing := none, givenUp := false, lost := false }
  nck := { clock := 0, synced := false, syncTimer := none }
  jnc :=
    { seqCounter := 0, newest := 0, writePtr := 0, auditMark := 0, staging := [], deferred := none,
      startHold := [], pendingRead := none, array := .idle }
  lms :=
    { modes := { ready := .off, wait := .off, close := .off, accepted := .off, returned := .off,
                 service := .off }
      fullHalf := { ready := false, wait := false, close := false, accepted := false,
                    returned := false, service := false }
      halfTimer := { ready := none, wait := none, close := none, accepted := none, returned := none,
                     service := none }
      readyTimer := none, row := none, rowTimer := none
      columns := { lc0 := .released, lc1 := .released, lc2 := .released } }
  flash := []
  draws := 0
  pending := []

end Sys2Proof.Machine
end

