-- ==== Sys2Proof/Machine/Flags.lean ====
section
/-! DEFINITION. The hold reason set (R10), the exception flags (Table 1-4, Table 11-4) and the codes of
states, reasons and kinds (Tables 0-3, 1-3, 1-5, 8-3). -/

namespace Sys2Proof.Machine

/-! ## The hold reason set -/

/-- The empty set (R3). -/
def HoldSet.empty : HoldSet :=
  { binFull := false, jam := false, journalFull := false, journalBusy := false, power := false,
    audit := false, zero := false, weigh := false, unconfigured := false, addressClash := false }

/-- Whether a reason is raised. -/
def HoldSet.has (h : HoldSet) : HoldReason → Bool
  | .binFull => h.binFull
  | .jam => h.jam
  | .journalFull => h.journalFull
  | .journalBusy => h.journalBusy
  | .power => h.power
  | .audit => h.audit
  | .zero => h.zero
  | .weigh => h.weigh
  | .unconfigured => h.unconfigured
  | .addressClash => h.addressClash

/-- The set with a reason raised (`v = true`) or cleared (R10). -/
def HoldSet.put (h : HoldSet) (r : HoldReason) (v : Bool) : HoldSet :=
  match r with
  | .binFull => { h with binFull := v }
  | .jam => { h with jam := v }
  | .journalFull => { h with journalFull := v }
  | .journalBusy => { h with journalBusy := v }
  | .power => { h with power := v }
  | .audit => { h with audit := v }
  | .zero => { h with zero := v }
  | .weigh => { h with weigh := v }
  | .unconfigured => { h with unconfigured := v }
  | .addressClash => { h with addressClash := v }

/-- No reason is raised. -/
def HoldSet.isEmpty (h : HoldSet) : Bool :=
  !(h.binFull || h.jam || h.journalFull || h.journalBusy || h.power || h.audit || h.zero || h.weigh ||
    h.unconfigured || h.addressClash)

/-- A bit field from its bits, the least significant first. -/
def bitsOf (w : Nat) : List Bool → BitVec w
  | [] => 0
  | b :: bs => (bitsOf w bs <<< 1) ||| (if b then 1 else 0)

/-- Table 11-5, offset 1..2: bit n for the reason in row n of Table 0-4. -/
def HoldSet.toBits (h : HoldSet) : W16 :=
  bitsOf 16 [h.binFull, h.jam, h.journalFull, h.journalBusy, h.power, h.audit, h.zero, h.weigh,
    h.unconfigured, h.addressClash]

/-! ## The exception flags -/

/-- The empty set of exception flags. -/
def ExcFlags.empty : ExcFlags :=
  { massBand := false, unstable := false, sealBroken := false, unchecked := false,
    clockFree := false, nightPartial := false, multiLanding := false, notLanded := false }

/-- Table 11-4: the flags byte of a DEPOSIT record. -/
def ExcFlags.toByte (f : ExcFlags) : Byte :=
  bitsOf 8 [f.massBand, f.unstable, f.sealBroken, f.unchecked, f.clockFree, f.nightPartial,
    f.multiLanding, f.notLanded]

/-- Table 11-4: NOT_LANDED in a stored flags byte. -/
def flagsNotLanded (b : Byte) : Bool := b.getLsbD 7

/-! ## Codes -/

/-- Table 0-3: the state codes of the STATE payload. -/
def SeqState.code : SeqState → Byte
  | .start => 0
  | .idle => 1
  | .opened => 2
  | .check => 3
  | .claim => 4
  | .turn => 5
  | .fall => 6
  | .home => 7
  | .present => 8
  | .held => 9
  | .fault => 10

/-- R5: the locked states, in which the hatch is expected to stay shut. -/
def SeqState.locked : SeqState → Bool
  | .check | .claim | .turn | .fall | .home | .held => true
  | .start | .idle | .opened | .present | .fault => false

/-- Table 1-3: the return reason codes. -/
def ReturnReason.code : ReturnReason → Byte
  | .weighFault => 1
  | .outOfService => 2
  | .overweight => 3
  | .noTag => 4
  | .multiTag => 5
  | .tagType => 6
  | .duplicate => 7
  | .claimTimeout => 8

/-- Table 1-5: the fault reason codes. -/
def FaultReason.code : FaultReason → Byte
  | .rotorStuck => 1
  | .homeLimit => 2
  | .reverse => 3
  | .hatchForced => 4
  | .encoder => 5
  | .zeroDrift => 6

/-- Table 8-3: the START detail codes. -/
def StartKind.code : StartKind → Byte
  | .powerOn => 1
  | .resetPin => 2
  | .supplyCut => 3

/-- Table 8-3: the record kind codes. -/
def RecordKind.code : RecordKind → Byte
  | .start => 1
  | .deposit => 2
  | .returned => 3
  | .unclaimed => 4
  | .jam => 5
  | .clear => 6
  | .close => 7
  | .fault => 8
  | .power => 9
  | .audit => 10
  | .hold => 11

/-- R148: DEPOSIT and RETURN are the bag kinds, every other kind is a general kind. -/
def RecordKind.isBag : RecordKind → Bool
  | .deposit | .returned => true
  | _ => false

/-- Table 11-2: the RELEASE reason codes. -/
def ReleaseReason.code : ReleaseReason → Byte
  | .duplicate => 1
  | .fault => 2

/-- The pending bag record with every field at its absent value (Table 1-1). -/
def PendingBag.absent : PendingBag :=
  { serial := 0, account := 0, bagType := 0xFF, mass := 0xFFFF, fall := 0xFFFF,
    flags := ExcFlags.empty, reason := none }

end Sys2Proof.Machine
end

