-- ==== Sys2Proof/Machine/Operands.lean ====
section
/-! DEFINITION. The formats of Chapter 11: byte order, check codes (R2), link frames (Table 11-2), journal
records (Table 11-3), the tag message, the configuration record (Table 9-1) and view codes. -/

namespace Sys2Proof.Machine

/-! ## Bytes (R1: most significant byte first) -/

/-- The two bytes of a 16-bit field, most significant first. -/
def be16 (w : W16) : List Byte := [w.extractLsb' 8 8, w.extractLsb' 0 8]

/-- The four bytes of a 32-bit field, most significant first. -/
def be32 (w : W32) : List Byte :=
  [w.extractLsb' 24 8, w.extractLsb' 16 8, w.extractLsb' 8 8, w.extractLsb' 0 8]

/-- Byte i of a list, FFh past its end. -/
def byteAt (bs : List Byte) (i : Nat) : Byte := bs.getD i 0xFF

/-- The 16-bit field at offset i. -/
def wordAt16 (bs : List Byte) (i : Nat) : W16 := byteAt bs i ++ byteAt bs (i + 1)

/-- The 32-bit field at offset i. -/
def wordAt32 (bs : List Byte) (i : Nat) : W32 := wordAt16 bs i ++ wordAt16 bs (i + 2)

/-! ## Bits (R87) -/

/-- R87: the bits of a byte as they go out, most significant bit first, true for 1. -/
def byteBits (b : Byte) : List Bool :=
  [b.getLsbD 7, b.getLsbD 6, b.getLsbD 5, b.getLsbD 4, b.getLsbD 3, b.getLsbD 2, b.getLsbD 1, b.getLsbD 0]

/-- R87: the bits of bytes sent one after another. -/
def bytesBits (bs : List Byte) : List Bool := bs.flatMap byteBits

/-- R87: the bytes that bits make up, each from its most significant bit; bits short of a byte are left out. -/
def bitsBytes : List Bool → List Byte
  | b7 :: b6 :: b5 :: b4 :: b3 :: b2 :: b1 :: b0 :: rest =>
    bitsOf 8 [b0, b1, b2, b3, b4, b5, b6, b7] :: bitsBytes rest
  | _ => []

/-- R87: how a transmitter sets LDA for a bit while LCK is low: it drives the line for 0 and releases it
for 1. -/
def ldaFor (bit : Bool) : OutLine := if bit then .released else .low

/-! ## Check codes (R2) -/

/-- One bit of CRC-16: polynomial 1021h, no reflection. -/
def crc16Shift (c : W16) : W16 := if c.msb then (c <<< 1) ^^^ 0x1021 else c <<< 1

/-- Eight bits of CRC-16 over one byte, its most significant bit first. -/
def crc16Byte (c : W16) (b : Byte) : W16 :=
  crc16Shift (crc16Shift (crc16Shift (crc16Shift (crc16Shift (crc16Shift (crc16Shift (crc16Shift
    (c ^^^ (b.setWidth 16 <<< 8)))))))))

/-- R2: CRC-16, initial value FFFFh, no final inversion. -/
def crc16 (bs : List Byte) : W16 := bs.foldl crc16Byte 0xFFFF

/-- One bit of CRC-8: polynomial 07h, no reflection. -/
def crc8Shift (c : Byte) : Byte := if c.msb then (c <<< 1) ^^^ 0x07 else c <<< 1

/-- Eight bits of CRC-8 over one byte, its most significant bit first. -/
def crc8Byte (c : Byte) (b : Byte) : Byte :=
  crc8Shift (crc8Shift (crc8Shift (crc8Shift (crc8Shift (crc8Shift (crc8Shift (crc8Shift
    (c ^^^ b))))))))

/-- R2: CRC-8, initial value 00h, no final inversion. -/
def crc8 (bs : List Byte) : Byte := bs.foldl crc8Byte 0

/-! ## Link frames (R91, Table 5-2, Table 11-2) -/

/-- The bytes the check byte covers (R91, Table 11-1). -/
def Frame.checkedBytes (f : Frame) : List Byte :=
  f.kind :: f.source :: f.dest :: BitVec.ofNat 8 f.payload.length :: f.payload

/-- R91: the bytes of a frame between its start mark and its answer slot. -/
def Frame.wire (f : Frame) : List Byte := Frame.checkedBytes f ++ [f.check]

/-- R87, R91: the bits of a frame between its start mark and its answer slot. -/
def Frame.bits (f : Frame) : List Bool := bytesBits (Frame.wire f)

/-- R87, R91, R96: what the transmitter of a frame does with LDA, period by period: the start mark, the bits,
the two slot bits, which it leaves released, and the end mark. -/
def Frame.line (f : Frame) : List OutLine :=
  [.low] ++ (Frame.bits f).map ldaFor ++ [.released, .released] ++ [.low, .released]

/-- R91, R99: the frame that bits read since the start mark make up, once the last bit of its check byte has
come. -/
def frameOf (bits : List Bool) : Option Frame :=
  match bitsBytes bits with
  | kind :: source :: dest :: length :: rest =>
    if bits.length = 8 * (length.toNat + 5) then
      some { kind := kind, source := source, dest := dest, payload := rest.take length.toNat
             check := byteAt rest length.toNat }
    else none
  | _ => none

/-- R99: the length byte has come, and it reads above 32. -/
def lengthAbove32 (bits : List Bool) : Bool :=
  match bitsBytes bits with
  | _ :: _ :: _ :: length :: _ => decide (32 < length.toNat)
  | _ => false

/-- R92: the transmitter of the bits sent has lost contention with the last bit it has read: it sent 1 there
and reads 0, and read every bit before as it sent it. -/
def lostContention : List Bool → List Bool → Bool
  | true :: _, [false] => true
  | s :: sent, r :: read => s == r && lostContention sent read
  | _, _ => false

/-- R97, R186: the CRC-8 over the bytes as read equals the check byte. -/
def Frame.crcGood (f : Frame) : Bool := crc8 (Frame.checkedBytes f) == f.check

/-- Table 5-2: the kind codes of the frames the part sends. -/
def TxFrame.kindCode : TxFrame → Byte
  | .jam _ => 0x10
  | .landed .. => 0x14
  | .release .. => 0x18
  | .claim .. => 0x20
  | .sync .. => 0x30
  | .journal .. => 0x60
  | .stateReport .. => 0x64

/-- A CLAIM, of which the transmit queue holds at most one (R104). -/
def TxFrame.isClaim : TxFrame → Bool
  | .claim .. => true
  | _ => false

/-- A SYNC, of which the night clock queues no second (R138). -/
def TxFrame.isSync : TxFrame → Bool
  | .sync .. => true
  | _ => false

/-- A shaft as a byte. -/
def shaftByte (s : Fin 4) : Byte := BitVec.ofNat 8 s.val

/-- Table 11-2: the payload of a frame the part sends. -/
def TxFrame.payload : TxFrame → List Byte
  | .jam s => [shaftByte s]
  | .landed s serial mass count binMass => shaftByte s :: (be32 serial ++ be16 mass ++ be16 count ++ be32 binMass)
  | .release s r => [(r.code <<< 4) ||| shaftByte s]
  | .claim s serial => shaftByte s :: be32 serial
  | .sync clock night synced => be32 clock ++ be16 night ++ [if synced then 1 else 0]
  | .journal _ record => record
  | .stateReport _ payload => payload

/-- Table 5-2: destination 0 for an all-stations frame, else the participant addressed. -/
def TxFrame.dest : TxFrame → Byte
  | .journal d _ => d
  | .stateReport d _ => d
  | _ => 0

/-- R91, R186: the frame as its bytes go out, the check byte computed over the bytes sent. -/
def TxFrame.toFrame (own : Byte) (t : TxFrame) : Frame :=
  let f : Frame := { kind := t.kindCode, source := own, dest := t.dest, payload := t.payload, check := 0 }
  { f with check := crc8 (Frame.checkedBytes f) }

/-- R99 rows 2, 4 and 5, as far as kind, source and destination go: the kind is one the station takes
under this addressing (Table 5-2). A CLAIM to all stations is handled elsewhere (R98). -/
def kindTaken (kind : Byte) (toAll : Bool) : Bool :=
  if toAll then
    kind == 0x10 || kind == 0x14 || kind == 0x18 || kind == 0x30 || kind == 0x38 || kind == 0x3C
  else
    kind == 0x48 || kind == 0x4C || kind == 0x50 || kind == 0x54 || kind == 0x58

/-- R186: the payload lengths that the kind's layout permits (Table 11-2). -/
def lengthPermitted (kind : Byte) (n : Nat) : Bool :=
  if kind == 0x10 then n == 1
  else if kind == 0x14 then n == 13
  else if kind == 0x18 then n == 1
  else if kind == 0x20 then n == 5
  else if kind == 0x30 then n == 7
  else if kind == 0x38 then n == 2
  else if kind == 0x3C then n == 2
  else if kind == 0x48 then n == 1
  else if kind == 0x4C then n == 4
  else if kind == 0x50 then n == 5
  else if kind == 0x54 then n == 0
  else if kind == 0x58 then 2 ≤ n && n ≤ 25
  else if kind == 0x60 then n == 0 || n == 32
  else if kind == 0x64 then n == 32
  else false

/-- Table 11-2: the fields of a frame the station takes, once its kind and length are permitted. -/
def rxMsgOf (f : Frame) : Option RxMsg :=
  let p := f.payload
  if f.kind == 0x10 then some (.jam (byteAt p 0))
  else if f.kind == 0x14 then
    some (.landed (byteAt p 0) (wordAt32 p 1) (wordAt16 p 5) (wordAt16 p 7) (wordAt32 p 9))
  else if f.kind == 0x18 then some (.release ((byteAt p 0).extractLsb' 0 4))
  else if f.kind == 0x30 then some (.sync (wordAt32 p 0) (wordAt16 p 4) (byteAt p 6))
  else if f.kind == 0x38 then some (.close (wordAt16 p 0))
  else if f.kind == 0x3C then some (.clear (byteAt p 0) (byteAt p 1))
  else if f.kind == 0x48 then some (.hold (byteAt p 0))
  else if f.kind == 0x4C then some (.auditMark (wordAt32 p 0))
  else if f.kind == 0x50 then some (.readJournal f.source (wordAt32 p 0) (byteAt p 4))
  else if f.kind == 0x54 then some (.readState f.source)
  else if f.kind == 0x58 then some (.configWrite (byteAt p 0) (p.drop 1))
  else none

/-- R97: a source of 1..15. -/
def sourceValid (source : Byte) : Bool := 1 ≤ source.toNat && source.toNat ≤ 15

/-! ## Journal records (Table 8-2, Table 11-3) -/

/-- A record request with every field the kind does not use at its absent value (R147). -/
def RecordReq.blank (kind : RecordKind) (ownShaft : Fin 4) : RecordReq :=
  { kind := kind, detail := 0, flags := ExcFlags.empty, shaft := shaftByte ownShaft, serial := 0,
    account := 0, bagType := 0xFF, mass := 0xFFFF, fall := 0xFFFF, binCount := 0 }

/-- Table 11-3: offsets 0..29 of a record. -/
def Record.body (r : Record) : List Byte :=
  be32 r.seq ++ be16 r.night ++ be32 r.clock ++ [r.station, r.kind, r.detail, r.flags, r.shaft] ++
    be32 r.serial ++ be32 r.account ++ [r.bagType] ++ be16 r.mass ++ be16 r.fall ++ be16 r.binCount

/-- R188: the 32 bytes of a record, the CRC-16 over offsets 0..29 last. -/
def Record.toBytes (r : Record) : List Byte := Record.body r ++ be16 (crc16 (Record.body r))

/-- Table 11-3: the fields of a slot's bytes. -/
def Record.ofBytes (bs : List Byte) : Record :=
  { seq := wordAt32 bs 0, night := wordAt16 bs 4, clock := wordAt32 bs 6, station := byteAt bs 10,
    kind := byteAt bs 11, detail := byteAt bs 12, flags := byteAt bs 13, shaft := byteAt bs 14,
    serial := wordAt32 bs 15, account := wordAt32 bs 19, bagType := byteAt bs 23,
    mass := wordAt16 bs 24, fall := wordAt16 bs 26, binCount := wordAt16 bs 28 }

/-- R145: every byte reads FFh. -/
def blankBytes (bs : List Byte) : Bool := bs.all (· == 0xFF)

/-- R145: not blank, and the CRC-16 over the first 30 bytes equals the last two. -/
def validBytes (bs : List Byte) : Bool := !blankBytes bs && crc16 (bs.take 30) == wordAt16 bs 30

/-- R145: not blank, and the CRC-16 fails. -/
def voidBytes (bs : List Byte) : Bool := !blankBytes bs && !validBytes bs

/-! ## The tag message (R50, 11.3) -/

/-- R50: the twelve bytes after the start byte are a valid message: the CRC-16 over the ten content bytes
is right and the serial is neither 0 nor FFFFFFFFh. -/
def tagValid (buf : List Byte) : Bool :=
  crc16 (buf.take 10) == wordAt16 buf 10 && wordAt32 buf 0 != 0 && wordAt32 buf 0 != 0xFFFFFFFF

/-- The account, type and seal of a message. -/
def tagRead (buf : List Byte) : FirstRead :=
  { account := wordAt32 buf 4, bagType := byteAt buf 8, sealValue := byteAt buf 9 }

/-! ## The configuration record (R168, R169, Table 9-1, 11.4) -/

/-- R169: below its range a value loads as the lower bound, above it as the upper bound. -/
def clampTo (lo hi n : Nat) : Nat := max lo (min hi n)

/-- Table 9-1: the defaults. -/
def Cfg.default : Cfg :=
  { linkRate := 1, syncPeriod := 1000, holdLimit := 8000, claimWait := 30, retryInterval := 200,
    fallWindow := 1500, turnLimit := 3000, homeLimit := 3000, dropTarget := 400, reverseSlack := 8,
    scaleK := 16384, stability := 12, settleTime := 300, emptyThreshold := 20, absoluteMax := 6000,
    zeroTrack := 160, tagWindow := 1500, binCountLimit := 400, binMassLimit := 250, eraseTime := 5,
    tareReference := 0, bands := List.replicate 8 { min := 0, max := 9999 } }

/-- The field at offset i of the record, as an unsigned number. -/
def num8 (bs : List Byte) (i : Nat) : Nat := (byteAt bs i).toNat
/-- The two-byte field at offset i of the record, as an unsigned number. -/
def num16 (bs : List Byte) (i : Nat) : Nat := (wordAt16 bs i).toNat
/-- The four-byte field at offset i of the record, as an unsigned number. -/
def num32 (bs : List Byte) (i : Nat) : Nat := (wordAt32 bs i).toNat

/-- 11.4: the band of bag type t, each bound clamped to 0..9999. -/
def bandAt (bs : List Byte) (t : Nat) : Band :=
  { min := clampTo 0 9999 (num16 bs (40 + 4 * t)), max := clampTo 0 9999 (num16 bs (42 + 4 * t)) }

/-- R169: the fields of a good record, each clamped to its range. -/
def Cfg.ofRecord (bs : List Byte) : Cfg :=
  { linkRate := clampTo 0 2 (num8 bs 0)
    syncPeriod := clampTo 250 10000 (num16 bs 1)
    holdLimit := clampTo 2000 30000 (num16 bs 3)
    claimWait := clampTo 5 120 (num8 bs 5)
    retryInterval := clampTo 50 2000 (num16 bs 6)
    fallWindow := clampTo 200 5000 (num16 bs 8)
    turnLimit := clampTo 500 10000 (num16 bs 10)
    homeLimit := clampTo 500 10000 (num16 bs 12)
    dropTarget := clampTo 100 4000 (num16 bs 14)
    reverseSlack := clampTo 2 100 (num8 bs 16)
    scaleK := clampTo 1 65535 (num16 bs 17)
    stability := clampTo 1 1000 (num16 bs 19)
    settleTime := clampTo 50 2000 (num16 bs 21)
    emptyThreshold := clampTo 1 500 (num16 bs 23)
    absoluteMax := clampTo 500 9999 (num16 bs 25)
    zeroTrack := clampTo 16 4096 (num16 bs 27)
    tagWindow := clampTo 200 5000 (num16 bs 29)
    binCountLimit := clampTo 1 2000 (num16 bs 31)
    binMassLimit := clampTo 1 2000 (num16 bs 33)
    eraseTime := clampTo 2 10 (num8 bs 35)
    tareReference := clampTo 0 1048560 (num32 bs 36)
    bands := [bandAt bs 0, bandAt bs 1, bandAt bs 2, bandAt bs 3, bandAt bs 4, bandAt bs 5,
      bandAt bs 6, bandAt bs 7] }

/-- R168: a record that is neither blank nor bad. -/
def configGood (bs : List Byte) : Bool :=
  !blankBytes bs && crc16 (bs.take 72) == wordAt16 bs 72

/-- R14: a band with min greater than max acts as the band min..min. -/
def Band.contains (b : Band) (mass : Nat) : Bool :=
  b.min ≤ mass && mass ≤ (if b.max < b.min then b.min else b.max)

/-! ## View codes (R111) -/

/-- R111: 0 for FREE, the holder's address for HELD, FFh for JAMMED. -/
def View.code : View → Byte
  | .free => 0
  | .held h => h.setWidth 8
  | .jammed => 0xFF

end Sys2Proof.Machine
end

