-- ==== Sys2Proof/Machine/Ops.lean ====
section
/-! DEFINITION. The shared operations over the state's stores: the flash array, the four-fold and per-lamp
tables, the hold reason set, the lamps, and the entry into a sequencer state with its lock and lamps. -/

namespace Sys2Proof.Machine

/-! ## Tables -/

/-- The value of shaft or bin i. -/
def Four.get {α : Type} (f : Four α) (i : Fin 4) : α :=
  match i with
  | 0 => f.x0
  | 1 => f.x1
  | 2 => f.x2
  | 3 => f.x3

/-- The table with the value of shaft or bin i replaced. -/
def Four.set {α : Type} (f : Four α) (i : Fin 4) (v : α) : Four α :=
  match i with
  | 0 => { f with x0 := v }
  | 1 => { f with x1 := v }
  | 2 => { f with x2 := v }
  | 3 => { f with x3 := v }

/-- The same value for each shaft or bin. -/
def Four.all {α : Type} (v : α) : Four α := { x0 := v, x1 := v, x2 := v, x3 := v }

/-- The value of a lamp. -/
def PerLamp.get {α : Type} (p : PerLamp α) : Lamp → α
  | .ready => p.ready
  | .wait => p.wait
  | .close => p.close
  | .accepted => p.accepted
  | .returned => p.returned
  | .service => p.service

/-- The table with the value of a lamp replaced. -/
def PerLamp.set {α : Type} (p : PerLamp α) (l : Lamp) (v : α) : PerLamp α :=
  match l with
  | .ready => { p with ready := v }
  | .wait => { p with wait := v }
  | .close => { p with close := v }
  | .accepted => { p with accepted := v }
  | .returned => { p with returned := v }
  | .service => { p with service := v }

/-- The table that a function of the lamp gives. -/
def PerLamp.ofFn {α : Type} (f : Lamp → α) : PerLamp α :=
  { ready := f .ready, wait := f .wait, close := f .close, accepted := f .accepted,
    returned := f .returned, service := f .service }

/-! ## The flash array (R145) -/

/-- R145: what an unlisted (erased) byte of the array reads as. -/
def erasedByte : Byte := 0xFF

/-- The first address of the information page, after the 16 journal pages (R145, Table 9-1). -/
def infoBase : Nat := 16384

/-- The size of the array: 16 journal pages and the information page, 1024 bytes each. -/
def flashSize : Nat := 17408

/-- The canonical form from an address on: addresses strictly rising and inside the array, no entry equal
to what an unlisted address reads as. -/
def flashWfFrom (lo : Nat) : List Host.Cell → Bool
  | [] => true
  | (k, v) :: rest => lo ≤ k && k < flashSize && v != erasedByte && flashWfFrom (k + 1) rest

/-- The canonical form of the flash array. -/
def flashWf (m : List Host.Cell) : Bool := flashWfFrom 0 m

/-- The byte at an address. -/
def flashRead (m : List Host.Cell) (a : Nat) : Byte :=
  match m with
  | [] => erasedByte
  | (k, v) :: rest => if k = a then v else flashRead rest a

/-- The array with the byte at an address set; an erased byte is not listed. -/
def flashSet (m : List Host.Cell) (a : Nat) (b : Byte) : List Host.Cell :=
  match m with
  | [] => if b = erasedByte then [] else [(a, b)]
  | (k, v) :: rest =>
    if a < k then (if b = erasedByte then (k, v) :: rest else (a, b) :: (k, v) :: rest)
    else if a = k then (if b = erasedByte then rest else (a, b) :: rest)
    else (k, v) :: flashSet rest a b

/-- R145, R171: programming a byte can only change bits from 1 to 0. -/
def flashProgram (m : List Host.Cell) (a : Nat) (b : Byte) : List Host.Cell :=
  flashSet m a (flashRead m a &&& b)

/-- R155, R171: bytes programmed one after another from an address on. -/
def flashProgramBytes (m : List Host.Cell) (a : Nat) (bs : List Byte) : List Host.Cell :=
  match bs with
  | [] => m
  | b :: rest => flashProgramBytes (flashProgram m a b) (a + 1) rest

/-- R145: an erase sets every byte of a 1024-byte page to FFh; the page is named by its first address. -/
def flashErase (m : List Host.Cell) (base : Nat) : List Host.Cell :=
  m.filter (fun c => c.1 < base || base + 1024 ≤ c.1)

/-- Bytes set one after another from an address on, whatever they held (used for a cut-off erase only). -/
def flashSetBytes (m : List Host.Cell) (a : Nat) (bs : List Byte) : List Host.Cell :=
  match bs with
  | [] => m
  | b :: rest => flashSetBytes (flashSet m a b) (a + 1) rest

/-- The n bytes from an address on. -/
def flashBytes (m : List Host.Cell) (a n : Nat) : List Byte := (List.range n).map (fun i => flashRead m (a + i))

/-- R145: the 32 bytes of a slot. -/
def slotBytes (m : List Host.Cell) (slot : Nat) : List Byte := flashBytes m (32 * slot) 32

/-- R145: a blank slot. -/
def slotBlank (m : List Host.Cell) (slot : Nat) : Bool := blankBytes (slotBytes m slot)

/-- R145: a slot that holds a valid record. -/
def slotValid (m : List Host.Cell) (slot : Nat) : Bool := validBytes (slotBytes m slot)

/-- R145: a page is blank if all 32 of its slots are. -/
def pageBlank (m : List Host.Cell) (page : Nat) : Bool :=
  (List.range 32).all (fun i => slotBlank m (32 * page + i))

/-- R145: the record a slot holds, if it is valid. -/
def slotRecord (m : List Host.Cell) (slot : Nat) : Option Record :=
  if slotValid m slot then some (Record.ofBytes (slotBytes m slot)) else none

/-- The valid records of the slots listed, each with its slot. -/
def recordsIn (m : List Host.Cell) (slots : List Nat) : List (Nat × Record) :=
  slots.filterMap (fun n => (slotRecord m n).map (fun r => (n, r)))

/-- R145: the valid records of a page. -/
def pageRecords (m : List Host.Cell) (page : Nat) : List (Nat × Record) :=
  recordsIn m ((List.range 32).map (fun i => 32 * page + i))

/-- R178 step 2: the valid records of the journal's 512 slots. -/
def journalRecords (m : List Host.Cell) : List (Nat × Record) := recordsIn m (List.range 512)

/-! ## Free values -/

/-- The state with one more free value read (log 36). -/
def State.draw (s : State) : State := { s with draws := s.draws + 1 }

/-! ## Addresses and configured lengths -/

/-- The own address as a byte (R91, R167). -/
def State.ownByte (s : State) : Byte := s.straps.adr.setWidth 8

/-- R167: an address of 1..8. -/
def addressValid (adr : BitVec 4) : Bool := 1 ≤ adr.toNat && adr.toNat ≤ 8

/-- R86: the bit time in µs that the link rate code sets. -/
def bitTimeMicros (linkRate : Nat) : Nat :=
  if linkRate = 0 then 40 else if linkRate = 1 then 20 else 10

/-- R91: the length in µs of a frame of n payload bytes if nobody stretches its clock: 8n + 43.5 bit
times. -/
def frameMicros (linkRate n : Nat) : Nat := (16 * n + 87) * bitTimeMicros linkRate / 2

/-- R137: the length of the sync timer for the clock flag and the own address. -/
def syncLength (s : State) : Nat :=
  (if s.nck.synced then s.cfg.syncPeriod else 3 * s.cfg.syncPeriod) + (s.straps.adr.toNat - 1) * 20

/-- R155, R157, R158, R171: how long the array's operation takes, in µs; `none` while it is IDLE. -/
def arrayMicros (s : State) : Option Nat :=
  match s.jnc.array with
  | .idle => none
  | .program => some 800
  | .erase _ => some (1000 * s.cfg.eraseTime)
  | .info offset data =>
    some ((if offset.toNat = 0 then 1000 * s.cfg.eraseTime else 0) + 25 * min data.length (74 - offset.toNat))

/-! ## The hold reason set (R10) -/

/-- A hold reason raised. WEIGH seen becomes yes when WEIGH is raised in CHECK (R3). -/
def raiseHold (r : HoldReason) (s : State) : State :=
  { s with csq := { s.csq with
      holds := s.csq.holds.put r true
      weighSeen := s.csq.weighSeen || (r == .weigh && s.csq.state == .check) } }

/-- A hold reason cleared. -/
def clearHold (r : HoldReason) (s : State) : State :=
  { s with csq := { s.csq with holds := s.csq.holds.put r false } }

/-- A hold reason that its owner judges by a condition: raised where it holds, cleared where not. -/
def judgeHold (r : HoldReason) (v : Bool) (s : State) : State :=
  { s with csq := { s.csq with holds := s.csq.holds.put r v } }

/-! ## Lamps (R182 to R184) -/

/-- Table 10-2: the mode of each lamp, from the sequencer state, the accepted-lamp timer, and in IDLE the
READY dimming timer. -/
def lampMode (s : State) : Lamp → LampMode
  | .ready => if s.csq.state = .idle then (if s.lms.readyTimer = none then .dim else .full) else .off
  | .wait =>
    match s.csq.state with
    | .start => if s.phase = .badAddress then .off else .flash
    | .check | .claim | .turn | .fall | .home => .full
    | _ => .off
  | .close => if s.csq.state = .opened then .full else .off
  | .accepted => if s.csq.accepted = none then .off else .full
  | .returned => if s.csq.state = .present then .flash else .off
  | .service =>
    match s.csq.state with
    | .start => if s.phase = .badAddress then .flash else .off
    | .held => .full
    | .fault => .flash
    | _ => .off

/-- R182, R183: the modes follow the state; a lamp whose mode becomes FLASH begins a fresh FULL half of
500 ms, one that stays in FLASH keeps its half. -/
def refreshLamps (s : State) : State :=
  { s with lms := { s.lms with
      modes := PerLamp.ofFn (lampMode s)
      fullHalf := PerLamp.ofFn (fun l =>
        if lampMode s l = .flash then
          (if s.lms.modes.get l = .flash then s.lms.fullHalf.get l else true)
        else false)
      halfTimer := PerLamp.ofFn (fun l =>
        if lampMode s l = .flash then
          (if s.lms.modes.get l = .flash then s.lms.halfTimer.get l else some 500)
        else none) } }

/-- R182: how a lamp's column line is driven in a row time that starts now. -/
def lampDrive (lms : Lamps) (l : Lamp) : ColDrive :=
  match lms.modes.get l with
  | .off => .off
  | .full => .full
  | .dim => .quarter
  | .flash => if lms.fullHalf.get l then .full else .off

/-- R181, Table 10-1: the column lines at the start of a row time. -/
def rowColumns (lms : Lamps) : LampRow → Columns
  | .lr0 => { lc0 := lampDrive lms .ready, lc1 := lampDrive lms .wait, lc2 := lampDrive lms .close }
  | .lr1 => { lc0 := lampDrive lms .accepted, lc1 := lampDrive lms .returned, lc2 := lampDrive lms .service }

/-! ## Entering a sequencer state -/

/-- R5, R167, R185: the lock line in a sequencer state: active in IDLE and PRESENT; released while the
part stands on a bad address or in reset. -/
def lockLine (phase : PartPhase) (st : SeqState) : OutLine :=
  if phase = .inReset ∨ phase = .badAddress then .released
  else if st = .idle ∨ st = .present then .high
  else .low

/-- The change of the sequencer state with what is part of it: the lock line (R5), the READY dimming
timer, which starts at each entry to IDLE and stops when IDLE is left (R184), and the lamps (R183). -/
def enterState (st : SeqState) (s : State) : State :=
  refreshLamps
    { s with
      csq := { s.csq with state := st, lock := lockLine s.phase st }
      lms := { s.lms with readyTimer := if st = .idle then some 300000 else none } }

end Sys2Proof.Machine
end

