-- ==== Sys2Proof/Machine/Queue.lean ====
section
/-! DEFINITION. The transmit and receive queues of the link controller (R90, R101 to R107): queuing with
replacement, the start of a frame, withdrawal, and what becomes of a CLAIM that leaves the queue. -/

namespace Sys2Proof.Machine

/-! ## Transmit order (R104) -/

/-- R104: a comes before b in transmit order: kind code ascending, then age. -/
def TxEntry.before (a b : TxEntry) : Bool :=
  a.content.kindCode.toNat < b.content.kindCode.toNat ||
    (a.content.kindCode == b.content.kindCode && a.age < b.age)

/-- R104: the first entry in transmit order. -/
def txHead : List TxEntry → Option TxEntry
  | [] => none
  | e :: rest =>
    match txHead rest with
    | none => some e
    | some h => if h.before e then some h else some e

/-- R105: the youngest entry among those with the highest kind code: the last in transmit order. -/
def txLast : List TxEntry → Option TxEntry
  | [] => none
  | e :: rest =>
    match txLast rest with
    | none => some e
    | some h => if e.before h then some h else some e

/-- R105: the candidate for replacement; the entry in transmission is not considered. -/
def txCandidate (l : Link) : Option TxEntry :=
  txLast (l.queue.filter (fun e => some e.age != l.inTx))

/-- The entry in transmission. -/
def Link.current (l : Link) : Option TxEntry :=
  match l.inTx with
  | none => none
  | some a => l.queue.find? (fun e => e.age == a)

/-- A CLAIM stands in the transmit queue, in transmission or not. -/
def Link.hasClaim (l : Link) : Bool := l.queue.any (fun e => e.content.isClaim)

/-- A SYNC stands in the transmit queue, in transmission or not (R138). -/
def Link.hasSync (l : Link) : Bool := l.queue.any (fun e => e.content.isSync)

/-- A CLAIM of this station is being transmitted (R19). -/
def Link.claimInTx (l : Link) : Bool :=
  match l.current with
  | some e => e.content.isClaim
  | none => false

/-- R1: the drop count rises by 1, stopping at 255. -/
def Link.dropped (l : Link) : Link := { l with dropCount := saturate 255 (l.dropCount + 1) }

/-- The queue without the entry of an age. -/
def Link.without (l : Link) (age : Nat) : Link :=
  { l with queue := l.queue.filter (fun e => e.age != age) }

/-- A new entry at the end of the queue in the order of queuing, with no stall attempt. -/
def Link.push (l : Link) (c : TxFrame) : Link :=
  { l with queue := l.queue ++ [{ content := c, attempts := 0, age := l.nextAge }],
           nextAge := l.nextAge + 1 }

/-! ## A CLAIM that is gone (R107, R118, R121) -/

/-- The coordinator returns to NONE: the claim serial becomes absent. -/
def claimIdle (s : State) : State :=
  { s with shc := { s.shc with
      phase := .idle, claimSerial := none, spacing := none, givenUp := false, lost := false } }

/-- R17: a busy refusal taken in CLAIM starts the claim retry interval. -/
def startRetry (s : State) : State :=
  { s with csq := { s.csq with retry := some s.cfg.retryInterval } }

/-- R118: a CLAIM that was not in transmission left the queue, or was refused at queuing: the coordinator
returns to NONE, and a sequencer that still seeks the claim takes a busy refusal (R17). -/
def claimRefusedAtQueue (s : State) : State :=
  let s' := claimIdle s
  if s.csq.state = .claim ∧ s.shc.givenUp = false then startRetry s' else s'

/-! ## The start of a frame (R90) -/

/-- R139: a SYNC takes the clock of the moment at each start mark, and the night and the flag of the moment before it:
at the start mark itself, which is the model's choice (log 42, DESIGN CHOICE). The content of every other frame was
fixed when it was queued. -/
def loadedContent (s : State) : TxFrame → TxFrame
  | .sync _ _ _ => .sync s.nck.clock s.nls.night s.nck.synced
  | c => c

/-- The queue with the content of one entry brought up to date. -/
def loadEntry (s : State) (age : Nat) : List TxEntry :=
  s.lkc.queue.map (fun e => if e.age = age then { e with content := loadedContent s e.content } else e)

/-- R90: LDA already low: another start mark has come first, and the station receives that frame. -/
def yieldStart (s : State) : State :=
  { s with lkc := { s.lkc with phase := .receiving, settleTime := 0, reception := .bits [] } }

/-- R90, R92, R118: the station makes its start mark for an entry, of which it has read no bit yet; a CLAIM is then
SENDING. -/
def sendStart (e : TxEntry) (s : State) : State :=
  { s with
    lkc := { s.lkc with
      phase := .transmitting, settleTime := 0, reception := .bits [], inTx := some e.age
      queue := loadEntry s e.age }
    shc := if e.content.isClaim then { s.shc with phase := .sending } else s.shc }

/-- R90: the head entry of the transmit queue is started, unless LDA already reads low (a free value). -/
def startFrame (s : State) : State :=
  match txHead s.lkc.queue with
  | none => s
  | some e => if Config.ldaAlreadyLow s.draws then yieldStart s.draw else sendStart e s.draw

/-- R89: in FREE an entry in the queue is started at once. -/
def startIfFree (s : State) : State :=
  if s.lkc.phase = .free then startFrame s else s

/-! ## Queuing (R104, R105) -/

/-- R104, R105: a frame joins a queue that has a place. -/
def joinQueue (c : TxFrame) (s : State) : State :=
  startIfFree { s with lkc := s.lkc.push c }

/-- R105: a frame is not queued; a CLAIM so refused is a busy refusal. -/
def refuseQueue (c : TxFrame) (s : State) : State :=
  if c.isClaim then claimRefusedAtQueue s else s

/-- R105: a frame takes the place of a less urgent entry, which is reported as replaced. -/
def replaceEntry (c : TxFrame) (e : TxEntry) (s : State) : State :=
  let s1 := { s with lkc := s.lkc.without e.age }
  joinQueue c (if e.content.isClaim then claimRefusedAtQueue s1 else s1)

/-- R104, R105: a block queues a frame. A second CLAIM is discarded at queuing; a full queue of 8 loses
its least urgent frame or refuses the new one, and the drop count rises. -/
def queueFrame (c : TxFrame) (s : State) : State :=
  if c.isClaim && s.lkc.hasClaim then refuseQueue c s
  else if s.lkc.queue.length < 8 then joinQueue c s
  else
    let s1 := { s with lkc := s.lkc.dropped }
    match txCandidate s.lkc with
    | none => refuseQueue c s1
    | some e =>
      if c.kindCode.toNat < e.content.kindCode.toNat then replaceEntry c e s1 else refuseQueue c s1

/-- R138, R142: the night clock queues a SYNC unless one of this station is already in the queue. R139 fills its night
and its flag now and its clock field at each start mark only; that the clock field holds the clock of the queuing until
the first of them is the model's choice (log 42, DESIGN CHOICE). -/
def queueSync (s : State) : State :=
  if s.lkc.hasSync then s else queueFrame (.sync s.nck.clock s.nls.night s.nck.synced) s

/-! ## Withdrawal (R106) -/

/-- The queued CLAIM that is not in transmission. -/
def Link.queuedClaim (l : Link) : Option TxEntry :=
  l.queue.find? (fun e => e.content.isClaim && some e.age != l.inTx)

/-- R106: the queued CLAIM is removed if it is not in transmission; the drop count is not raised. -/
def withdrawClaim (s : State) : State :=
  match s.lkc.queuedClaim with
  | none => s
  | some e => { s with lkc := s.lkc.without e.age }

/-! ## The receive queue (R101 to R103) -/

/-- R102, R103: the head entry leaves the queue when its owner takes it, and a station that holds LCK
releases it. -/
def takeRx (s : State) : State :=
  { s with lkc := { s.lkc with rx := s.lkc.rx.tail, holding := false } }

end Sys2Proof.Machine
end

