-- ==== Sys2Proof/Machine/Journal.lean ====
section
/-! DEFINITION. The journal controller's shared operations: stamping and staging (R149 to R153), the giving
of the flash array (R154 to R158), free slots (R160), readout (R164). -/

namespace Sys2Proof.Machine

/-! ## Geometry (R145, R146) -/

/-- R146: the current page holds the slot before the write pointer. -/
def currentPage (wp : Nat) : Nat := ((wp + 511) % 512) / 32

/-- R146: the page ahead is the page after the current page. -/
def pageAhead (wp : Nat) : Nat := (currentPage wp + 1) % 16

/-- R145: the slot after a slot. -/
def nextSlot (wp : Nat) : Nat := (wp + 1) % 512

/-! ## Free slots (R160) -/

/-- R160: the blank slots at or after the write pointer within the current page; none while the pointer
lies at place 0 of a page. -/
def freeInPage (m : List Host.Cell) (wp : Nat) : Nat :=
  if wp % 32 = 0 then 0
  else ((List.range (32 - wp % 32)).filter (fun i => slotBlank m (wp + i))).length

/-- R160: the free slots. -/
def freeSlots (m : List Host.Cell) (wp : Nat) : Nat :=
  freeInPage m wp + (if pageBlank m (pageAhead wp) then 32 else 0)

/-- The greatest value of the sequence counter (R149). -/
def seqMax : W32 := 0xFFFFFFFF

/-- R149, R160: JOURNAL_FULL while fewer than 8 slots are free, or the sequence counter stands at its
greatest value. -/
def judgeFull (s : State) : State :=
  judgeHold .journalFull (decide (freeSlots s.flash s.jnc.writePtr < 8) || s.jnc.seqCounter == seqMax) s

/-- R153: JOURNAL_BUSY at 4 or more staged records, clear at 3 or fewer. -/
def judgeBusy (s : State) : State :=
  judgeHold .journalBusy (decide (4 ≤ s.jnc.staging.length)) s

/-! ## Retained records and readout (R145, R164) -/

/-- R145: the page being erased, whose records are not retained. -/
def erasingPage (s : State) : Option Nat :=
  match s.jnc.array with
  | .erase p => some p
  | _ => none

/-- R145: the retained valid records, each with its slot. -/
def retainedRecords (s : State) : List (Nat × Record) :=
  (journalRecords s.flash).filter (fun r => some (r.1 / 32) != erasingPage s)

/-- A record inserted into a list that ascends by sequence. -/
def insertBySeq (r : Nat × Record) : List (Nat × Record) → List (Nat × Record)
  | [] => [r]
  | q :: rest => if r.2.seq.toNat ≤ q.2.seq.toNat then r :: q :: rest else q :: insertBySeq r rest

/-- The records in ascending sequence order. -/
def sortBySeq : List (Nat × Record) → List (Nat × Record)
  | [] => []
  | r :: rest => insertBySeq r (sortBySeq rest)

/-- R164 step 1: a count of 0 is taken as 1, a count above 8 as 8. -/
def readCount (count : Byte) : Nat := min 8 (max 1 count.toNat)

/-- R164 steps 1 to 3: the records that serve a request: the lowest sequences from the requested one on.
(A request below the oldest retained record is taken as the oldest by the same selection: step 2.) -/
def selectRecords (s : State) (req : ReadReq) : List (Nat × Record) :=
  ((sortBySeq (retainedRecords s)).filter (fun r => req.from_.toNat ≤ r.2.seq.toNat)).take (readCount req.count)

/-- R164: one JOURNAL frame for each record with the 32 bytes as stored, or one of length 0. -/
def serveRead (req : ReadReq) (s : State) : State :=
  match selectRecords s req with
  | [] => queueFrame (.journal req.source []) s
  | rs => rs.foldl (fun t r => queueFrame (.journal req.source (slotBytes s.flash r.1)) t) s

/-! ## The flash array given (R154) -/

/-- R157: the page ahead holds a valid record above the audit mark. -/
def pageProtected (m : List Host.Cell) (page : Nat) (mark : W32) : Bool :=
  (pageRecords m page).any (fun r => mark.toNat < r.2.seq.toNat)

/-- R157: an erase of the page ahead is permitted: neither blank nor protected, supply NORMAL. -/
def eraseWanted (s : State) : Bool :=
  let p := pageAhead s.jnc.writePtr
  !pageBlank s.flash p && !pageProtected s.flash p s.jnc.auditMark && s.supply.level == .normal

/-- R156: non-blank slots at places 1..31 are skipped, to the next blank slot or to place 0 of the next
page; at most 31 skips. -/
def skipSlots (m : List Host.Cell) : Nat → Nat → Nat
  | 0, wp => wp
  | fuel + 1, wp =>
    if wp % 32 = 0 then wp
    else if slotBlank m wp then wp
    else skipSlots m fuel (nextSlot wp)

/-- R156: the write pointer offers a slot: at place 0 of a page only if the whole page is blank. -/
def slotOffered (m : List Host.Cell) (wp : Nat) : Bool :=
  if wp % 32 = 0 then pageBlank m (wp / 32) else slotBlank m wp

/-- R156: the oldest staged record begins its programming where a slot is offered. -/
def startProgram (s : State) : State :=
  let wp := skipSlots s.flash 32 s.jnc.writePtr
  let s1 := judgeFull { s with jnc := { s.jnc with writePtr := wp } }
  if slotOffered s.flash wp then { s1 with jnc := { s1.jnc with array := .program } } else s1

/-- R154: the array is given to the first that waits after a pending read: a permitted erase of the page
ahead, a CONFIG_WRITE at the head of the receive queue (R171), the oldest staged record. -/
def giveOperation (s : State) : State :=
  if eraseWanted s then { s with jnc := { s.jnc with array := .erase (pageAhead s.jnc.writePtr) } }
  else
    match s.lkc.rx.head? with
    | some (.configWrite offset data) =>
      let s1 := takeRx s
      { s1 with jnc := { s1.jnc with array := .info offset data } }
    | _ => if s.jnc.staging = [] then s else startProgram s

/-- R154: a READ_JOURNAL in the pending read slot is served at once. -/
def servePending (s : State) : State :=
  match s.jnc.pendingRead with
  | none => s
  | some req => serveRead req { s with jnc := { s.jnc with pendingRead := none } }

/-- R154: the array, while IDLE and in service, is given to what waits. -/
def giveArray (s : State) : State :=
  if s.phase = .service ∧ s.jnc.array = .idle then giveOperation (servePending s) else s

/-! ## Stamping and staging (R149 to R152) -/

/-- R149: the flags of a record at its staging: a DEPOSIT adds CLOCK_FREE and NIGHT_PARTIAL. -/
def stampFlags (s : State) (req : RecordReq) : ExcFlags :=
  if req.kind = .deposit then
    { req.flags with clockFree := !s.nck.synced, nightPartial := !s.nls.closeSinceStart }
  else ExcFlags.empty

/-- R149: the record as stamped at this moment. -/
def stamped (s : State) (req : RecordReq) : Record :=
  { seq := s.jnc.seqCounter + 1, night := s.nls.night, clock := s.nck.clock, station := s.ownByte
    kind := req.kind.code, detail := req.detail, flags := (stampFlags s req).toByte, shaft := req.shaft
    serial := req.serial, account := req.account, bagType := req.bagType, mass := req.mass
    fall := req.fall, binCount := req.binCount }

/-- R149: a record enters the staging queue and takes its sequence number. -/
def pushRecord (req : RecordReq) (s : State) : State :=
  { s with jnc := { s.jnc with
      staging := s.jnc.staging ++ [stamped s req], seqCounter := s.jnc.seqCounter + 1 } }

/-- R149, R153, R154: what follows a staging: both journal holds are judged, and an idle array is given. -/
def afterStaging (s : State) : State := giveArray (judgeFull (judgeBusy s))

/-- R149, R150: a record is staged, unless the sequence counter stands at its greatest value. -/
def stageNow (req : RecordReq) (s : State) : State :=
  if s.jnc.seqCounter = seqMax then s else afterStaging (pushRecord req s)

/-- R151: the newest staged record, whose programming has not begun. -/
def newestStaged (j : Journal) : Option Record :=
  if j.array = .program ∧ j.staging.length = 1 then none else j.staging.getLast?

/-- R151: an UNCLAIMED record asked for is coalesced into the newest staged record. It is offered for this before
R149 judges the sequence counter, so that at the greatest sequence, too, the repeat count rises instead of the record
being discarded: the model's choice (log 40). -/
def coalesces (s : State) (req : RecordReq) : Bool :=
  req.kind == .unclaimed &&
    match newestStaged s.jnc with
    | some r => r.kind == RecordKind.unclaimed.code && r.shaft == req.shaft
    | none => false

/-- R151: the repeat count rises by 1 and stops at 255. -/
def bumpRepeat (r : Record) : Record :=
  { r with detail := if r.detail = 0xFF then 0xFF else r.detail + 1 }

/-- The last record of a list changed. -/
def bumpLast : List Record → List Record
  | [] => []
  | [r] => [bumpRepeat r]
  | r :: q :: rest => r :: bumpLast (q :: rest)

/-- R180: a record asked for before step 4 of the start-up sequence is held unstamped, or discarded for
want of one of the 6 places. -/
def holdForStart (req : RecordReq) (s : State) : State :=
  if s.jnc.startHold.length < 6 then
    { s with jnc := { s.jnc with startHold := s.jnc.startHold ++ [req] } }
  else s

/-- R150: a record of a general kind: coalesced, staged into one of the seven general places, or
discarded for want of a place. -/
def askGeneral (req : RecordReq) (s : State) : State :=
  if s.phase ≠ .service then holdForStart req s
  else if coalesces s req then { s with jnc := { s.jnc with staging := bumpLast s.jnc.staging } }
  else if s.jnc.staging.length < 7 then stageNow req s
  else s

/-- R149, R150: a bag record asked for now is not held as the deferred request: there is a place, or no
further record can be stamped. -/
def bagPlace (s : State) : Bool := decide (s.jnc.staging.length < 8) || s.jnc.seqCounter == seqMax

/-- R150, R152: a record of a bag kind: staged if the queue holds fewer than 8 records, else held as the
deferred request. -/
def askBag (req : RecordReq) (s : State) : State :=
  if bagPlace s then stageNow req s
  else { s with jnc := { s.jnc with deferred := some req } }

/-- R59, R62, R149: a CLOSE record can be staged: a general place is open and a sequence number left. -/
def closePlace (s : State) : Bool :=
  decide (s.jnc.staging.length < 7) && s.jnc.seqCounter != seqMax

end Sys2Proof.Machine
end

