-- ==== Sys2Proof/Machine/Shaft.lean ====
section
/-! DEFINITION. The shaft coordinator's shared operations: views and hold ages (R111 to R114), bin tallies
(R131, R132), the claimer's side (R115 to R121), the judgement of other stations' claims (R122), the
night list's additions and searches (R56, R57), JAM and the record requests of the coordinator. -/

namespace Sys2Proof.Machine

/-! ## Views (R111, R114) -/

/-- The view of the own shaft. -/
def ownView (s : State) : View := s.shc.views.get s.straps.shf

/-- R111: self-held, with the own address as holder. -/
def selfHeld (s : State) : Bool := ownView s == .held s.straps.adr

/-- R111: HELD by another station. -/
def heldByOther (s : State) (v : View) : Bool :=
  match v with
  | .held h => h != s.straps.adr
  | _ => false

/-- A view and its hold age set. -/
def setView (i : Fin 4) (v : View) (age : Timer) (s : State) : State :=
  { s with shc := { s.shc with views := s.shc.views.set i v, holdAge := s.shc.holdAge.set i age } }

/-! ## Bin tallies (R131, R132) -/

/-- The greatest bin count and bin mass (R131). -/
def countMax : Nat := 65535
/-- The greatest bin mass (R131). -/
def massMax : Nat := 4294967295

/-- R132: full at the configured count limit or the configured mass limit times 1000 g. -/
def tallyFull (cfg : Cfg) (t : Tally) : Bool :=
  cfg.binCountLimit ≤ t.count || cfg.binMassLimit * 1000 ≤ t.mass

/-- The tally of the own bin. -/
def ownTally (s : State) : Tally := s.shc.tallies.get s.straps.shf

/-- R132: the own bin is full. -/
def ownFull (s : State) : Bool := tallyFull s.cfg (ownTally s)

/-- A tally set. -/
def setTally (i : Fin 4) (t : Tally) (s : State) : State :=
  { s with shc := { s.shc with tallies := s.shc.tallies.set i t } }

/-- R131: one bag more; both sums saturate. -/
def addBag (t : Tally) (mass : Nat) : Tally :=
  { count := saturate countMax (t.count + 1), mass := saturate massMax (t.mass + mass) }

/-- R131: the max-merge of a LANDED; a bag mass above 9999 is taken as 9999. -/
def maxMerge (t : Tally) (mass carriedCount carriedMass : Nat) : Tally :=
  let a := addBag t (min 9999 mass)
  { count := max a.count carriedCount, mass := max a.mass carriedMass }

/-- R132: BIN_FULL is raised when the own tally is full after a change; only a CLEAR clears it. -/
def raiseIfFull (s : State) : State := if ownFull s then raiseHold .binFull s else s

/-! ## The night list (R56, R57) -/

/-- R56: an addition: not for 0 or FFFFFFFFh, not for a serial already present, not to a list of 256. -/
def addSerial (entries : List W32) (serial : W32) : List W32 :=
  if serial = 0 ∨ serial = 0xFFFFFFFF then entries
  else if entries.contains serial then entries
  else if 256 ≤ entries.length then entries
  else entries ++ [serial]

/-- R56: the night list is given a serial. -/
def giveSerial (serial : W32) (s : State) : State :=
  { s with nls := { s.nls with entries := addSerial s.nls.entries serial } }

/-- R57: a search of the night list. -/
def inNightList (s : State) (serial : W32) : Bool := s.nls.entries.contains serial

/-! ## The claimer's side (R115 to R117, R121) -/

/-- R115, R117: a CLAIM may be queued: the own view is FREE and the own bin not full. -/
def claimClear (s : State) : Bool := ownView s == .free && !ownFull s

/-- R116: the withdraw conditions as they stand: the own view HELD by another or JAMMED, or the bin full. -/
def claimBlocked (s : State) : Bool :=
  heldByOther s (ownView s) || ownView s == .jammed || ownFull s

/-- R116: a withdraw condition that did not stand before now does: the own view has become HELD by another or
JAMMED, or the bin full. -/
def becameBlocked (before s : State) : Bool :=
  (heldByOther s (ownView s) && !heldByOther before (ownView before)) ||
    (ownView s == .jammed && ownView before != .jammed) || (ownFull s && !ownFull before)

/-- The claim phase set; no judgement is owed to a loss (R118). -/
def setClaimPhase (p : ClaimPhase) (spacing : Timer) (s : State) : State :=
  { s with shc := { s.shc with phase := p, spacing := spacing, lost := false } }

/-- R116: the queued CLAIM is withdrawn, and the coordinator enters DEFERRED. -/
def deferClaim (s : State) : State := setClaimPhase .deferred none (withdrawClaim s)

/-- R116, R117: the coordinator's own claim after a change of the views or the tallies: a queued one is
withdrawn by what the change brought, a deferred or spaced one goes by what now stands. -/
def watchClaim (before s : State) : State :=
  match s.shc.phase with
  | .queued => if becameBlocked before s then deferClaim s else s
  | .deferred => if claimClear s then setClaimPhase .spacing (some s.cfg.retryInterval) s else s
  | .spacing => if claimClear s then s else setClaimPhase .deferred none s
  | .idle | .sending => s

/-- R116, R118: the withdraw conditions judged as things stand, for a CLAIM that is back in the queue. -/
def judgeBack (s : State) : State :=
  if claimBlocked s then deferClaim s else setClaimPhase .queued none s

/-- R118: a CLAIM that had lost contention is judged, after the frame that won. -/
def judgeLost (s : State) : State :=
  if s.shc.phase = .queued ∧ s.shc.lost then judgeBack s else s

/-- R115, R117: CLAIM for the own shaft and the claim serial is queued and the phase becomes QUEUED (or
SENDING, if the frame starts at once). -/
def queueClaim (serial : W32) (s : State) : State :=
  queueFrame (.claim s.straps.shf serial)
    { s with shc := { s.shc with phase := .queued, claimSerial := some serial, spacing := none } }

/-- R115: a claim request from the sequencer, taken in phase NONE; a request that finds an earlier CLAIM
still SENDING is answered as a CLAIM discarded at queuing, with a busy refusal (R104, R118; log 18). -/
def requestClaim (serial : W32) (s : State) : State :=
  if s.shc.phase ≠ .idle then startRetry s
  else if claimClear s then queueClaim serial s
  else { s with shc := { s.shc with phase := .deferred, claimSerial := some serial, spacing := none } }

/-- R121: the sequencer gives the claim up; a CLAIM that is SENDING goes on to its outcome. -/
def giveUpClaim (s : State) : State :=
  match s.shc.phase with
  | .idle => s
  | .deferred | .spacing => claimIdle s
  | .queued => claimIdle (withdrawClaim s)
  | .sending => { s with shc := { s.shc with givenUp := true } }

/-! ## Frames the holder sends (R124 to R126) -/

/-- R126: RELEASE for the own shaft is queued and its view is FREE at that moment. -/
def releaseShaft (r : ReleaseReason) (s : State) : State :=
  queueFrame (.release s.straps.shf r) (setView s.straps.shf .free none s)

/-- R125, R129: JAM is raised and its record asked for, if it was clear. -/
def raiseJam (s : State) : State :=
  if s.csq.holds.jam then s
  else askGeneral (RecordReq.blank .jam s.straps.shf) (raiseHold .jam s)

/-! ## The judgement of a CLAIM that passes (R122) -/

/-- A byte that names a shaft or bin 0..3. -/
def shaftOf (b : Byte) : Option (Fin 4) :=
  if h : b.toNat < 4 then some ⟨b.toNat, h⟩ else none

/-- R122: the view of the named shaft objects to a claimer: self-held, HELD by a station other than the
claimer, or JAMMED. -/
def viewObjects (v : View) (claimer : Byte) : Bool :=
  match v with
  | .free => false
  | .held h => h.setWidth 8 != claimer
  | .jammed => true

/-- R122: the busy objection to a CLAIM whose CRC-8 comparison succeeded. -/
def claimBusy (s : State) (shaft source : Byte) : Bool :=
  match shaftOf shaft with
  | none => true
  | some i =>
    source == s.ownByte || viewObjects (s.shc.views.get i) source || tallyFull s.cfg (s.shc.tallies.get i)

end Sys2Proof.Machine
end

