-- ==== Sys2Proof/Machine/Rotor.lean ====
section
/-! DEFINITION. The rotor counter's shared operations: the position (R66), counting (R67, R69), the motor
lines (R71, R72), stopping (R77), the turn and home requests (R73, R76). -/

namespace Sys2Proof.Machine

/-- R66: the position: the count, less 65,536 while underflow is set. -/
def Rotor.position (r : Rotor) : Int :=
  if r.underflow then (r.count.toNat : Int) - 65536 else (r.count.toNat : Int)

/-- R67: the state after a line state in the forward cycle 00, 10, 11, 01. -/
def encNext (p : EncPair) : EncPair := { ena := !p.enb, enb := p.ena }

/-- A sample that differs from a line state in both lines (R68). -/
def encOpposite (p : EncPair) : EncPair := { ena := !p.ena, enb := !p.enb }

/-- R67, R69: a forward step: the count rises by 1, wrapping; a wrap clears underflow. -/
def Rotor.stepForward (r : Rotor) : Rotor :=
  { r with count := r.count + 1, underflow := if r.count = 0xFFFF then false else r.underflow }

/-- R67, R69: a reverse step: the count falls by 1, wrapping; a wrap sets underflow. -/
def Rotor.stepReverse (r : Rotor) : Rotor :=
  { r with count := r.count - 1, underflow := if r.count = 0 then true else r.underflow }

/-- R69: a reverse step from here would be an underflow event. -/
def Rotor.underflowEvent (r : Rotor) : Bool := r.count == 0 && !r.underflow

/-- R72: the direction the MDIR line selects. -/
def Rotor.direction (r : Rotor) : Dir := if r.mdir = .high then .fwd else .rev

/-- R72: MRUN is driven inactive; if it was active the dead time of 10 ms starts and the last run
direction becomes that of the run just ended. -/
def Rotor.cutRun (r : Rotor) : Rotor :=
  if r.mrun = .high then
    { r with mrun := .low, deadTime := some 10, lastDir := some r.direction }
  else r

/-- R77: a stop request: MRUN inactive and the mode STOPPED. -/
def Rotor.stop (r : Rotor) : Rotor := { r.cutRun with mode := .stopped }

/-- R72: MDIR for a direction. -/
def Dir.line : Dir → OutLine
  | .fwd => .high
  | .rev => .low

/-- R72: a move in the direction opposite to the last run waits for the dead time. -/
def Rotor.mustWait (r : Rotor) (d : Dir) : Bool :=
  r.deadTime != none && r.lastDir != none && r.lastDir != some d

/-- R72: a move is driven: MDIR set, MRUN active at once or after the dead time. -/
def Rotor.drive (r : Rotor) (d : Dir) : Rotor :=
  if r.mustWait d then { r with mdir := d.line, mrun := .low }
  else { r with mdir := d.line, mrun := .high }

/-- R74: the drop compare match: MRUN inactive, the clock captured, mode WATCH. -/
def Rotor.dropMatch (r : Rotor) (clock : W32) : Rotor :=
  { r.cutRun with dropTime := some clock, mode := .watch }

/-- R73: a turn request. A turn that begins at the drop target has its match at once, without driving
MRUN; MDIR is high as Table 4-3 gives for WATCH (log 19). -/
def Rotor.turn (r : Rotor) (target : Nat) (clock : W32) : Rotor :=
  let r1 := { r with maxReached := r.position, dropTime := none, mode := RotorMode.forward }
  if r.position = (target : Int) then { r1 with mdir := .high }.dropMatch clock else r1.drive .fwd

/-- R76: a home request: with the switch ACTIVE the move ends at once; else the drum is driven in
reverse. -/
def Rotor.goHome (r : Rotor) : Rotor :=
  if r.homeActive then { r with mode := .stopped } else { r with mode := .reverse }.drive .rev

/-- R70: the home preset: position 0. -/
def Rotor.preset (r : Rotor) : Rotor := { r with count := 0, underflow := false, homeActive := true }

/-- R72: the dead time elapses; a move that waits for it drives MRUN active. -/
def Rotor.deadTimeOver (r : Rotor) : Rotor :=
  let r1 := { r with deadTime := none }
  if r.mrun = .low ∧ (r.mode = .forward ∨ r.mode = .reverse) then { r1 with mrun := .high } else r1

end Sys2Proof.Machine
end

