-- ==== Sys2Proof/Machine/Sequencer.lean ====
section
/-! DEFINITION. The chute sequencer's shared operations: faults (R24, R26), returns (R15), homing (R7), the
landing (R21, R22), the turn (R20), the claim's outcomes (R17 to R19, R119 to R121), the check order (R13,
R14), and what is judged when a step has had its effect (R8, R11, R26, R39, R40). -/

namespace Sys2Proof.Machine

/-! ## Weighing and tags, as the sequencer starts and abandons them -/

/-- R34: a weighing request: SETTLE with the settle timer, or at once a sample gap while WEIGH is
raised. -/
def requestWeighing (s : State) : State :=
  if s.csq.holds.weigh then
    { s with
      wch := { s.wch with activity := .idle, window := [], settle := none }
      csq := { s.csq with weighed := some .gap } }
  else
    { s with wch := { s.wch with activity := .settle, window := [], settle := some s.cfg.settleTime } }

/-- R36: the weighing in progress is abandoned without a result. -/
def abandonWeighing (s : State) : State :=
  { s with wch := { s.wch with activity := .idle, window := [], settle := none } }

/-- R51: the tag window opens; the assembler is not disturbed. -/
def openTagWindow (s : State) : State :=
  { s with tgi := { s.tgi with
      windowOpen := true, windowTimer := some s.cfg.tagWindow, readSet := [], firstRead := none } }

/-- R53: the tag window is abandoned and its reads are discarded. -/
def abandonTags (s : State) : State :=
  { s with tgi := { s.tgi with windowOpen := false, windowTimer := none, readSet := [], firstRead := none } }

/-! ## Faults (R24, R26) -/

/-- R24: every timer of the sequencer stops, the accepted-lamp timer among them, and no earlier request is
waited for. -/
def stopSequencer (s : State) : State :=
  { s with csq := { s.csq with
      claimWait := none, accepted := none, retry := none, homeLimit := none, turnLimit := none
      fallWindow := none, landingSettle := none, weighed := none, tagEnded := false
      returnWait := false, awaiting := none } }

/-- R24: the FAULT record: the pending bag's fields when the fault was entered from CLAIM, TURN or FALL,
absent otherwise. -/
def faultRecord (r : FaultReason) (origin : SeqState) (bag : PendingBag) (ownShaft : Fin 4) : RecordReq :=
  let blank := { RecordReq.blank .fault ownShaft with detail := r.code }
  if origin = .claim ∨ origin = .turn ∨ origin = .fall then
    { blank with serial := bag.serial, account := bag.account, bagType := bag.bagType, mass := bag.mass }
  else blank

/-- R24: how an entry to FAULT ends the shaft coordinator's hold: RELEASE(FAULT) for a self-held shaft,
the claim given up from CLAIM. -/
def endHoldForFault (origin : SeqState) (s : State) : State :=
  if selfHeld s then releaseShaft .fault s
  else if origin = .claim then giveUpClaim s
  else s

/-- R12, R53: a fault in CHECK abandons both windows. -/
def abandonCheck (origin : SeqState) (s : State) : State :=
  if origin = .check then abandonTags (abandonWeighing s) else s

/-- R24: the entry to FAULT: motor, timers, windows, lock and lamps, the shaft, the FAULT record. -/
def enterFault (r : FaultReason) (s : State) : State :=
  let origin := s.csq.state
  let s1 := abandonCheck origin (stopSequencer { s with rct := s.rct.stop })
  let s2 := endHoldForFault origin (enterState .fault s1)
  askGeneral (faultRecord r origin s.csq.bag s.straps.shf) s2

/-! ## Homing (R7, R76) -/

/-- R7: home is reached: the limit timer stops and HOME is left for IDLE or HELD. -/
def homeReached (s : State) : State :=
  let s1 := { s with csq := { s.csq with homeLimit := none } }
  enterState (if s.csq.holds.isEmpty then .idle else .held) s1

/-- R7, R26: the entry to HOME: the home request and the limit timer; a hatch that is OPEN at the entry is
a forced hatch before anything else (log 15); a switch that is ACTIVE ends the move at once. -/
def enterHome (s : State) : State :=
  let s1 := enterState .home { s with csq := { s.csq with homeLimit := some s.cfg.homeLimit } }
  let s2 := { s1 with rct := s1.rct.goHome }
  if s.csq.hatch = .opened then enterFault .hatchForced s2
  else if s.rct.homeActive then homeReached s2
  else s2

/-! ## Returns (R15) -/

/-- R15: PRESENT is entered. -/
def enterPresent (s : State) : State :=
  enterState .present { s with csq := { s.csq with returnWait := false } }

/-- R15: the RETURN record. -/
def returnRecord (r : ReturnReason) (bag : PendingBag) (ownShaft : Fin 4) : RecordReq :=
  { RecordReq.blank .returned ownShaft with
    detail := r.code, serial := bag.serial, account := bag.account, bagType := bag.bagType, mass := bag.mass }

/-- R15, R152: a return: the reason into the pending bag record, the RETURN record asked for, and PRESENT
once it has been staged; while it is deferred the sequencer waits where it stands. The claim's timers
stop (R17, R19, R27). -/
def returnBag (r : ReturnReason) (s : State) : State :=
  let s1 := { s with csq := { s.csq with
    bag := { s.csq.bag with reason := some r }, claimWait := none, retry := none, awaiting := none } }
  let s2 := askBag (returnRecord r s.csq.bag s.straps.shf) s1
  if bagPlace s then enterPresent s2 else { s2 with csq := { s2.csq with returnWait := true } }

/-! ## The landing (R21, R22, R124) -/

/-- R22, R21: the DEPOSIT record. -/
def depositRecord (bag : PendingBag) (binCount : Nat) (ownShaft : Fin 4) : RecordReq :=
  { RecordReq.blank .deposit ownShaft with
    flags := bag.flags, serial := bag.serial, account := bag.account, bagType := bag.bagType
    mass := bag.mass, fall := bag.fall, binCount := BitVec.ofNat 16 binCount }

/-- R124: the coordinator takes the own landing. -/
def takeOwnLanding (s : State) : State :=
  let i := s.straps.shf
  let s1 := setTally i (addBag (ownTally s) s.csq.bag.mass.toNat) s
  let s2 := giveSerial s.csq.bag.serial s1
  raiseIfFull (setView i .free none s2)

/-- R124, R22 step 3: the LANDED frame carries the tally after this bag. -/
def landedFrame (bag : PendingBag) (t : Tally) (ownShaft : Fin 4) : TxFrame :=
  .landed ownShaft bag.serial bag.mass (BitVec.ofNat 16 t.count) (BitVec.ofNat 32 t.mass)

/-- R22: the landing is completed: own landing taken, DEPOSIT staged, LANDED queued, the accepted-lamp
timer started for 5 s, HOME entered. -/
def completeLanding (s : State) : State :=
  let i := s.straps.shf
  let bag := s.csq.bag
  let s1 := takeOwnLanding { s with csq := { s.csq with landingSettle := none } }
  let t := ownTally s1
  let s2 := askBag (depositRecord bag t.count i) s1
  let s3 := queueFrame (landedFrame bag t i) s2
  enterHome { s3 with csq := { s3.csq with accepted := some 5000 } }

/-- R21: the entry to FALL: the fall window, unless a landing was taken in TURN, whose settle time may
already have ended. -/
def enterFall (s : State) : State :=
  let s1 := enterState .fall { s with csq := { s.csq with turnLimit := none } }
  if s.ldi.count = 0 then { s1 with csq := { s1.csq with fallWindow := some s.cfg.fallWindow } }
  else if s.csq.landingSettle = none then completeLanding s1
  else s1

/-! ## The turn (R18, R20, R73) -/

/-- R18, R20, R120: the entry to TURN: the own view self-held, the landing count reset, the turn limit
timer and the turn request; a turn that begins at the drop target goes on to FALL at once (R73). -/
def enterTurn (s : State) : State :=
  let s1 := setView s.straps.shf (.held s.straps.adr) none s
  let s2 := enterState .turn
    { s1 with
      ldi := { s1.ldi with count := 0 }
      csq := { s1.csq with turnLimit := some s.cfg.turnLimit } }
  let s3 := { s2 with rct := s2.rct.turn s.cfg.dropTarget s.nck.clock }
  if s3.rct.mode = .watch then enterFall s3 else s3

/-! ## The claim's outcomes (R17 to R19, R119 to R121) -/

/-- R19, R27: the reason with which a bag whose claim is only awaited is returned. -/
def AwaitCause.reason : AwaitCause → ReturnReason
  | .timeout => .claimTimeout
  | .power => .outOfService

/-- R17, R19, R27: a busy refusal taken in CLAIM: the retry interval, or the return of a bag whose claim
was only awaited. -/
def takeBusyRefusal (s : State) : State :=
  match s.csq.awaiting with
  | none => startRetry s
  | some c => returnBag c.reason s

/-- R18, R120: a grant taken in CLAIM: the night list is searched again. -/
def takeGrant (s : State) : State :=
  let s1 := { s with csq := { s.csq with claimWait := none, retry := none, awaiting := none } }
  if inNightList s s.csq.bag.serial then returnBag .duplicate (releaseShaft .duplicate s1)
  else enterTurn s1

/-- R118, R119, R121: the outcome of a CLAIM is the sequencer's: it is in CLAIM and has not given this
claim up. -/
def claimStillSought (s : State) : Bool := s.csq.state == .claim && !s.shc.givenUp

/-- R119, R121: the outcome of the own CLAIM from the slot levels its transmitter read. -/
def claimOutcome (slot : SlotLevels) (s : State) : State :=
  let s1 := claimIdle s
  if claimStillSought s then
    if !slot.b then returnBag .duplicate s1
    else if !slot.a then takeBusyRefusal s1
    else takeGrant s1
  else if slot.a && slot.b then releaseShaft .fault s1
  else s1

/-- R118: a CLAIM in transmission was lost in contention or stalled and is back in the queue: `back` says how
it is QUEUED again; where its outcome was only awaited, or the claim given up, it is withdrawn and counts as a
busy refusal. -/
def claimBack (back : State → State) (s : State) : State :=
  if claimStillSought s then
    match s.csq.awaiting with
    | none => back s
    | some c => returnBag c.reason (claimIdle (withdrawClaim s))
  else claimIdle (withdrawClaim s)

/-- R118: after a loss the CLAIM is QUEUED, and judged only after the frame that won (`judgeLost`). -/
def queuedAfterLoss (s : State) : State :=
  { s with shc := { s.shc with phase := .queued, spacing := none, lost := true } }

/-- R116, R118: after a stall the CLAIM is QUEUED and judged at once: no frame has won (log 18). -/
def queuedAfterStall (s : State) : State := judgeBack s

/-- R118: a CLAIM was dropped after its 4th stall: a busy refusal, if the claim is still sought. -/
def claimDropped (s : State) : State :=
  let s1 := claimIdle s
  if claimStillSought s then takeBusyRefusal s1 else s1

/-- R17: the entry to CLAIM. -/
def enterClaim (s : State) : State :=
  let s1 := enterState .claim
    { s with csq := { s.csq with claimWait := some (s.cfg.claimWait * 1000), awaiting := none } }
  requestClaim s.csq.bag.serial s1

/-- R19, R27: the claim is abandoned and the bag returned, unless a CLAIM is in transmission, whose
outcome is then awaited. -/
def abandonClaim (c : AwaitCause) (s : State) : State :=
  if s.lkc.claimInTx && !s.shc.givenUp then
    { s with csq := { s.csq with claimWait := none, retry := none, awaiting := some c } }
  else returnBag c.reason (giveUpClaim s)

/-! ## The check order (R13, R14) -/

/-- R13: the bag as it is filled before the rule is applied. -/
def fillBag (bag : PendingBag) (w : WeighOutcome) (reads : List W32) (first : Option FirstRead) : PendingBag :=
  let b1 := match w with
    | .gap => bag
    | .weighed mass _ _ => { bag with mass := BitVec.ofNat 16 mass }
  match reads, first with
  | serial :: _, some f => { b1 with serial := serial, account := f.account, bagType := f.bagType }
  | _, _ => b1

/-- R14: the exception flags set at rule 9. -/
def checkFlags (s : State) (mass : Nat) (unstable : Bool) (f : FirstRead) : ExcFlags :=
  { ExcFlags.empty with
    massBand := !(s.cfg.bands.getD f.bagType.toNat { min := 0, max := 9999 }).contains mass
    unstable := unstable
    sealBroken := f.sealValue != 0
    unchecked := decide (256 ≤ s.nls.entries.length) }

/-- R13: the rules after rule 1, for a bag whose pending record has been filled. -/
def checkRules (mass : Nat) (overRange unstable : Bool) (s : State) : State :=
  if mass < s.cfg.emptyThreshold then enterState (if s.csq.holds.isEmpty then .idle else .held) s
  else if !s.csq.holds.isEmpty then returnBag .outOfService s
  else if s.cfg.absoluteMax < mass ∨ overRange then returnBag .overweight s
  else
    match s.tgi.readSet, s.tgi.firstRead with
    | [serial], some f =>
      if 7 < f.bagType.toNat then returnBag .tagType s
      else if inNightList s serial then returnBag .duplicate s
      else enterClaim { s with csq := { s.csq with bag := { s.csq.bag with flags := checkFlags s mass unstable f } } }
    | _ :: _ :: _, _ => returnBag .multiTag s
    | _, _ => returnBag .noTag s

/-- R13: the check order, applied once when both windows have ended. -/
def checkOrder (w : WeighOutcome) (s : State) : State :=
  let s1 := { s with csq := { s.csq with
    weighed := none, tagEnded := false
    bag := fillBag s.csq.bag w s.tgi.readSet s.tgi.firstRead } }
  match w with
  | .gap => returnBag .weighFault s1
  | .weighed mass overRange unstable =>
    if s.csq.weighSeen then returnBag .weighFault s1 else checkRules mass overRange unstable s1

/-- R12: CHECK ends when both the weighing and the tag window have ended. -/
def judgeCheckEnd (s : State) : State :=
  if s.csq.state = .check ∧ s.csq.tagEnded then
    match s.csq.weighed with
    | none => s
    | some w => checkOrder w s
  else s

/-! ## What is judged when a step has had its effect -/

/-- R8, R11: a set that is not empty takes IDLE to HELD; an empty one takes HELD to IDLE. -/
def judgeHeld (s : State) : State :=
  if s.csq.state = .idle ∧ s.csq.holds.isEmpty = false then enterState .held s
  else if s.csq.state = .held ∧ s.csq.holds.isEmpty then enterState .idle s
  else s

/-- R26: a hatch OPEN in a locked state is a forced hatch, also when it is present at the entry. -/
def judgeHatch (s : State) : State :=
  if s.csq.state.locked ∧ s.csq.hatch = .opened then enterFault .hatchForced s else s

/-- R39: a tare check may run. -/
def tareEligible (s : State) : Bool :=
  (s.csq.state == .idle || s.csq.state == .held) && s.csq.hatch == .closed && s.rct.homeActive &&
    !s.csq.holds.weigh

/-- R39, R40: the tare interval timer runs while the channel is eligible and no check is in progress; a
channel that is not eligible stops it and abandons the check. -/
def judgeTare (s : State) : State :=
  if tareEligible s then
    if s.wch.activity = .tare ∨ s.wch.tareInterval ≠ none then s
    else { s with wch := { s.wch with tareInterval := some 2000 } }
  else if s.wch.activity = .tare then
    { s with wch := { s.wch with tareInterval := none, activity := .idle, window := [] } }
  else { s with wch := { s.wch with tareInterval := none } }

/-- The judgements that follow every step of the running part. -/
def settleStep (s : State) : State := judgeTare (judgeHatch (judgeHeld s))

/-- The outcome of a command on a part that is held in reset (nothing is taken: R29, R46, R66, R78, R85,
R135, R146, R181) or runs. -/
def running (s t : State) : Host.Outcome State Fault Refusal :=
  .next (if s.phase = .inReset then s else settleStep t)

end Sys2Proof.Machine
end

