-- ==== Sys2Proof/Machine/Drum.lean ====
section
/-! DEFINITION. The drum and the landing beam: the commands ENCODER_STEP, INVALID_TRANSITION,
HOME_SWITCH_ACTIVE, HOME_SWITCH_INACTIVE, DEAD_TIME_EXPIRY, LANDING_EVENT, BEAM_CLEAR, HOME_LIMIT_EXPIRY,
TURN_LIMIT_EXPIRY, FALL_WINDOW_EXPIRY and LANDING_SETTLE_EXPIRY (R7, R20 to R22, R67 to R84). -/

namespace Sys2Proof.Machine

/-! ## Encoder steps (R67 to R69, R74, R75) -/

/-- R75: reverse travel is reported; in TURN and FALL the sequencer enters FAULT(REVERSE). -/
def reverseTravel (s : State) : State :=
  let s1 := { s with rct := s.rct.stop }
  if s.csq.state = .turn ∨ s.csq.state = .fall then enterFault .reverse s1 else s1

/-- R68: an encoder error is reported; in TURN, FALL and HOME the sequencer enters FAULT(ENCODER). -/
def encoderError (s : State) : State :=
  let s1 := { s with rct := s.rct.stop }
  if s.csq.state = .turn ∨ s.csq.state = .fall ∨ s.csq.state = .home then enterFault .encoder s1 else s1

/-- R74: the drop compare match; in TURN the sequencer enters FALL. -/
def dropCompare (s : State) : State :=
  let s1 := { s with rct := s.rct.dropMatch s.nck.clock }
  if s.csq.state = .turn then enterFall s1 else s1

/-- R74: in FORWARD a step that brings the position to the drop target is the match. -/
def compareDrop (s : State) : State :=
  if s.rct.mode = .forward ∧ s.rct.position = (s.cfg.dropTarget : Int) then dropCompare s else s

/-- R75: modes in which steps are judged for reverse travel. -/
def RotorMode.watched : RotorMode → Bool
  | .forward | .watch => true
  | .stopped | .reverse => false

/-- R67, R75: a forward step: in a watched mode it may raise the maximum reached. -/
def forwardStep (s : State) : State :=
  let r := s.rct.stepForward
  let r1 := if r.mode.watched ∧ r.maxReached < r.position then { r with maxReached := r.position } else r
  compareDrop { s with rct := r1 }

/-- R75: a reverse step, taken, is reverse travel: an underflow event, or below the maximum reached minus
the slack. -/
def isReverseTravel (before after : Rotor) (slack : Nat) : Bool :=
  before.mode.watched && (before.underflowEvent || decide (after.position < after.maxReached - (slack : Int)))

/-- R67, R75: a reverse step; reverse travel is judged before the drop compare. -/
def reverseStep (s : State) : State :=
  let r := s.rct.stepReverse
  let s1 := { s with rct := r }
  if isReverseTravel s.rct r s.cfg.reverseSlack then reverseTravel s1 else compareDrop s1

/-- R68: an invalid transition: in a moving mode an encoder error, in STOPPED nothing. -/
def invalidSample (s : State) : State := if s.rct.mode = .stopped then s else encoderError s

/-- R67, R68: a sample of the encoder, which becomes the reference. -/
def encoderSample (p : EncPair) (s : State) : State :=
  let s1 := { s with rct := { s.rct with encRef := p } }
  if p = s.rct.encRef then s
  else if p = encNext s.rct.encRef then forwardStep s1
  else if p = encOpposite s.rct.encRef then invalidSample s1
  else reverseStep s1

/-- ENCODER_STEP (R67). -/
def execEncoderStep (p : EncPair) (s : State) : Host.Outcome State Fault Refusal :=
  running s (encoderSample p s)

/-- INVALID_TRANSITION (R68): the sample that differs from the reference in both lines. -/
def execInvalidTransition (s : State) : Host.Outcome State Fault Refusal :=
  running s (encoderSample (encOpposite s.rct.encRef) s)

/-! ## The home switch and the dead time (R70, R72, R76) -/

/-- R70, R76: the switch becomes active: the preset, and in REVERSE the end of the homing move. -/
def homeSwitchOn (s : State) : State :=
  let s1 := { s with rct := s.rct.preset }
  if s.rct.mode = .reverse then
    let s2 := { s1 with rct := s1.rct.stop }
    if s.csq.state = .home then homeReached s2 else s2
  else s1

/-- HOME_SWITCH_ACTIVE (R70): a change of the filter from INACTIVE to ACTIVE. -/
def execHomeSwitchActive (s : State) : Host.Outcome State Fault Refusal :=
  running s (if s.rct.homeActive then s else homeSwitchOn s)

/-- HOME_SWITCH_INACTIVE (R70): only the filter changes; tare checks stop being eligible (R39). -/
def execHomeSwitchInactive (s : State) : Host.Outcome State Fault Refusal :=
  running s { s with rct := { s.rct with homeActive := false } }

/-- DEAD_TIME_EXPIRY (R72). -/
def execDeadTimeExpiry (s : State) : Host.Outcome State Fault Refusal :=
  running s (if s.rct.deadTime = none then s else { s with rct := s.rct.deadTimeOver })

/-! ## Landing events (R79 to R84) -/

/-- R82, R83: a difference of night clock values modulo 2^32, at most 65534. -/
def clockSpan (later earlier : W32) : W16 := BitVec.ofNat 16 (min 65534 (later - earlier).toNat)

/-- R80: the capture moves into the buffer and the night clock into the capture. -/
def captureLanding (s : State) : State :=
  { s with ldi := { s.ldi with capture := some s.nck.clock, buffer := s.ldi.capture } }

/-- R82: the fall time of a first landing: 0 while no drop time has been captured. -/
def fallTime (clock : W32) (drop : Option W32) : W16 :=
  match drop with
  | none => 0
  | some d => clockSpan clock d

/-- R20, R21, R82: the first landing of the hold: its fall time kept, the fall window stopped, the settle
timer of 200 ms started. -/
def firstLanding (s : State) : State :=
  { s with csq := { s.csq with
      bag := { s.csq.bag with fall := fallTime s.nck.clock s.rct.dropTime }
      fallWindow := none, landingSettle := some 200 } }

/-- R20, R21: a further landing sets MULTI_LANDING while the settle timer runs. -/
def furtherLanding (s : State) : State :=
  if s.csq.landingSettle = none then s
  else { s with csq := { s.csq with
      bag := { s.csq.bag with flags := { s.csq.bag.flags with multiLanding := true } } } }

/-- R82: an own landing is counted and goes to the sequencer, in TURN or FALL. -/
def ownLanding (s : State) : State :=
  let s1 := { s with ldi := { s.ldi with count := saturate 255 (s.ldi.count + 1) } }
  if s.csq.state = .turn ∨ s.csq.state = .fall then
    if s.ldi.count = 0 then firstLanding s1 else furtherLanding s1
  else s1

/-- R83: the UNCLAIMED record: repeat count 1 and the interval since the landing event before. -/
def unclaimedRecord (clock : W32) (previous : Option W32) (own : Fin 4) : RecordReq :=
  { RecordReq.blank .unclaimed own with
    detail := 1
    fall := match previous with
      | none => 0xFFFF
      | some p => clockSpan clock p }

/-- R81: the landing is attributed by the view of the own shaft. -/
def attributeLanding (s : State) : State :=
  match ownView s with
  | .held h =>
    if h = s.straps.adr then ownLanding s else s
  | .free | .jammed => askGeneral (unclaimedRecord s.nck.clock s.ldi.buffer s.straps.shf) s

/-- R79, R80: a landing event: the beam filter becomes ACTIVE while the landing input takes events. -/
def beamBreaks (s : State) : State :=
  let s1 := { s with ldi := { s.ldi with beamActive := true } }
  if s.ldi.taking then attributeLanding (captureLanding s1) else s1

/-- LANDING_EVENT (R79, R81): a change of the beam filter from INACTIVE to ACTIVE. -/
def execLandingEvent (s : State) : Host.Outcome State Fault Refusal :=
  running s (if s.ldi.beamActive then s else beamBreaks s)

/-- BEAM_CLEAR (R79): the filter becomes INACTIVE. -/
def execBeamClear (s : State) : Host.Outcome State Fault Refusal :=
  running s { s with ldi := { s.ldi with beamActive := false } }

/-! ## The sequencer's movement timers (R7, R20 to R22, R125) -/

/-- HOME_LIMIT_EXPIRY (R7): FAULT(HOME_LIMIT). -/
def execHomeLimitExpiry (s : State) : Host.Outcome State Fault Refusal :=
  running s (if s.csq.homeLimit ≠ none ∧ s.csq.state = .home then enterFault .homeLimit s else s)

/-- TURN_LIMIT_EXPIRY (R20): FAULT(ROTOR_STUCK). -/
def execTurnLimitExpiry (s : State) : Host.Outcome State Fault Refusal :=
  running s (if s.csq.turnLimit ≠ none ∧ s.csq.state = .turn then enterFault .rotorStuck s else s)

/-- R21, R125: the fall window expires with no landing: NOT_LANDED, a DEPOSIT with the tally unchanged and
no fall time, the view JAMMED and JAM queued, JAM raised, HOME entered. -/
def fallWindowOver (s : State) : State :=
  let i := s.straps.shf
  let bag : PendingBag :=
    { s.csq.bag with fall := 0xFFFF, flags := { s.csq.bag.flags with notLanded := true } }
  let s1 := { s with csq := { s.csq with bag := bag, fallWindow := none } }
  let s2 := askBag (depositRecord bag (ownTally s).count i) s1
  let s3 := queueFrame (.jam i) (setView i .jammed none s2)
  enterHome (raiseJam s3)

/-- FALL_WINDOW_EXPIRY (R21). -/
def execFallWindowExpiry (s : State) : Host.Outcome State Fault Refusal :=
  running s (if s.csq.fallWindow ≠ none ∧ s.csq.state = .fall then fallWindowOver s else s)

/-- R20, R21, R22: the landing settle time ends: in FALL the landing is completed, in TURN only the timer
stops. -/
def settleTimeOver (s : State) : State :=
  if s.csq.state = .fall then completeLanding s
  else { s with csq := { s.csq with landingSettle := none } }

/-- LANDING_SETTLE_EXPIRY (R22). -/
def execLandingSettleExpiry (s : State) : Host.Outcome State Fault Refusal :=
  running s (if s.csq.landingSettle = none then s else settleTimeOver s)

end Sys2Proof.Machine
end

