-- ==== Sys2Proof/Machine/StartUp.lean ====
section
/-! DEFINITION. Start, reset and supply: the commands START, SCAN_COMPLETE, RST_LOW, RST_HIGH, SUPPLY_WARN,
SUPPLY_CUT, POWER_LOSS, SUPPLY_RISE, SUPPLY_DIP and SUPPLY_RECOVERY_EXPIRY (R112, R159, R166 to R180). -/

namespace Sys2Proof.Machine

/-! ## Entering reset (R159, R175, R176) -/

/-- R159: a slot after an erase cut off by reset: it reads blank, void, or as it did before; which, is
free. -/
def cutOffSlot (before after : List Byte) : List Byte :=
  if blankBytes after || voidBytes after then after else before

/-- R159: a journal page whose erase was cut off, slot by slot. -/
def cutOffErase (n page : Nat) (m : List Host.Cell) : List Host.Cell :=
  (List.range 32).foldl
    (fun acc i =>
      let slot := 32 * page + i
      let after := (List.range 32).map (fun k => Config.partlyErasedByte n (32 * slot + k))
      flashSetBytes acc (32 * slot) (cutOffSlot (slotBytes m slot) after)) m

/-- R159: how many bytes of a record the cut-off programming has left in its slot: a free number of them, but at
least up to the first byte that is not FFh, so that a programming that had begun leaves no blank slot (log 8). -/
def bytesLeft (n : Nat) (bs : List Byte) : Nat :=
  max (Config.bytesProgrammed n) ((bs.takeWhile (· == 0xFF)).length + 1)

/-- R159: the record in programming when the part entered reset: its slot is void, or valid if every byte left out
reads FFh. -/
def cutOffProgram (n : Nat) (j : Journal) (m : List Host.Cell) : List Host.Cell :=
  match j.staging with
  | [] => m
  | r :: _ => flashProgramBytes m (32 * j.writePtr) (r.toBytes.take (bytesLeft n r.toBytes))

/-- R171: the data bytes that lie at place 73 of the information page or before. -/
def infoData (offset : Byte) (data : List Byte) : List Byte := data.take (74 - offset.toNat)

/-- R159, R171: an information-page operation cut off: within its erase the page reads anyhow; past it,
as many bytes as had been programmed. -/
def cutOffInfo (n : Nat) (offset : Byte) (data : List Byte) (m : List Host.Cell) : List Host.Cell :=
  let programmed := (infoData offset data).take (Config.bytesProgrammed n)
  if offset.toNat = 0 then
    if Config.infoEraseEnded n then flashProgramBytes (flashErase m infoBase) infoBase programmed
    else flashSetBytes m infoBase ((List.range 1024).map (fun k => Config.partlyErasedByte n (infoBase + k)))
  else flashProgramBytes m (infoBase + offset.toNat) programmed

/-- R159: the operation in progress is abandoned at once. -/
def abandonArray (s : State) : State :=
  match s.jnc.array with
  | .idle => s
  | .program => { s.draw with flash := cutOffProgram s.draws s.jnc s.flash }
  | .erase page => { s.draw with flash := cutOffErase s.draws page s.flash }
  | .info offset data => { s.draw with flash := cutOffInfo s.draws offset data s.flash }

/-- R175, R176: the part enters reset: the flash operation is abandoned, every output released, and the
state of every block but the supply monitor lost; what the blocks show in reset, the lamp modes among it, is log 6
(DESIGN CHOICE). The straps as read and the configured values stand
until the next start (R167, R169). -/
def enterReset (s : State) : State :=
  let s1 := abandonArray s
  { State.reset with
    supply := s1.supply, rstLow := s1.rstLow, straps := s1.straps, cfg := s1.cfg, flash := s1.flash
    draws := s1.draws, pending := s1.pending }

/-- The part is put into reset if it is not there already. -/
def holdInReset (s : State) : State := if s.phase = .inReset then s else enterReset s

/-! ## The blocks' values at every start -/

/-- R3: the sequencer at a start. WCH raises ZERO (R29) and start-up UNCONFIGURED (R168). -/
def startSequencer (unconfigured : Bool) : Sequencer :=
  { state := .start
    holds := { HoldSet.empty with zero := true, unconfigured := unconfigured }
    bag := PendingBag.absent
    claimWait := none, accepted := none, retry := none, homeLimit := none, turnLimit := none
    fallWindow := none, landingSettle := none, weighSeen := false, hatch := .closed
    lock := .low, weighed := none, tagEnded := false, returnWait := false, awaiting := none }

/-- Table 2-1: the weigh channel at a start; sampling begins with the configuration loaded (R31). -/
def startWeigh (tareReference : Nat) : Weigh :=
  { heldByte := none, window := [], t16 := tareReference, gap := some 20, recovery := none
    snapPending := true, goodRun := 0, badRun := 0, tareInterval := none, settle := none
    activity := .idle, windowNumber := 1 }

/-- Table 3-1: the tag input at a start. -/
def startTags : TagInput :=
  { phase := .hunt, buffer := [], byteGap := none, windowOpen := false, windowTimer := none
    readSet := [], firstRead := none }

/-- Table 4-2, R71: the rotor counter at a start, its first sample taken as the reference. -/
def startRotor (enc : EncPair) (badAddress : Bool) : Rotor :=
  { mode := .stopped, count := 0, underflow := false, encRef := enc, maxReached := 0, dropTime := none
    homeActive := false, lastDir := none, deadTime := none
    mrun := if badAddress then .released else .low, mdir := if badAddress then .released else .low }

/-- Table 4-4: the landing input at a start, its filter set from the line (R79). -/
def startLanding (beamBroken : Bool) : Landing :=
  { beamActive := beamBroken, taking := false, capture := none, buffer := none, count := 0 }

/-- Table 5-1: the link controller at a start. -/
def startLink : Link :=
  { phase := .off, settleTime := 0, reception := .absent, queue := [], inTx := none, nextAge := 0
    rx := [], holding := false, dropCount := 0 }

/-- R112: the shaft coordinator at a start. The spec sets it once the scan has run; that the own view is FREE and the
own tally 0 until then, and the rest as R112 gives from START on, is the model's choice (log 39). -/
def startShafts : Shafts :=
  { views := Four.all .free, holdAge := Four.all none, tallies := Four.all { count := 0, mass := 0 }
    phase := .idle, claimSerial := none, spacing := none, givenUp := false, lost := false }

/-- Table 7-1: the night clock at a start. -/
def startClock : NightClock := { clock := 0, synced := false, syncTimer := none }

/-- Table 8-1: the journal controller at a start. The sequence counter, newest written, the write pointer and the
audit mark, which the spec sets at the end of step 2 only (R179), are 0 until then: the model's choice (log 39). -/
def startJournal : Journal :=
  { seqCounter := 0, newest := 0, writePtr := 0, auditMark := 0, staging := [], deferred := none
    startHold := [], pendingRead := none, array := .idle }

/-- R181: the scanner as the part leaves reset: LR0 active, and the first mode in force WAIT in FLASH. -/
def startLamps : Lamps :=
  let modes : PerLamp LampMode := PerLamp.ofFn (fun l => if l = .wait then .flash else .off)
  { modes := modes
    fullHalf := PerLamp.ofFn (fun l => decide (l = .wait))
    halfTimer := PerLamp.ofFn (fun l => if l = .wait then some 500 else none)
    readyTimer := none, row := some .lr0, rowTimer := some 3
    columns := { lc0 := .off, lc1 := .full, lc2 := .off } }

/-- R177: the kind of a start. -/
def kindOfStart (p : Supply) : StartKind :=
  if p.powerLoss then .powerOn else if p.cutSinceStart then .supplyCut else .resetPin

/-- R168: the 74 bytes of the configuration record. -/
def configBytes (m : List Host.Cell) : List Byte := flashBytes m infoBase 74

/-- R168, R169: the configuration loaded: a good record's fields clamped, or the defaults. -/
def loadConfig (m : List Host.Cell) : Cfg :=
  if configGood (configBytes m) then Cfg.ofRecord (configBytes m) else Cfg.default

/-- R177, R178 step 1: a start: its kind, the straps, the configuration, and every block's start values. What the
spec sets at the end of step 2 only (R58, R64, R112, R179, Table 9-4) shows from here to there what an empty journal
gives: the night number 0, the night list empty, the counters of `startJournal`, the views and tallies of
`startShafts`. That is the model's choice (log 39). -/
def beginStart (lines : StartLines) (s : State) : State :=
  let bad := !addressValid lines.adr
  let cfg := loadConfig s.flash
  let s1 : State :=
    { supply := { s.supply with powerLoss := false, cutSinceStart := false }
      rstLow := s.rstLow
      phase := if bad then .badAddress else .scanning
      startKind := kindOfStart s.supply
      straps := { adr := lines.adr, shf := lines.shf, srv := lines.srv }
      cfg := cfg
      csq := { startSequencer (!configGood (configBytes s.flash)) with lock := if bad then .released else .low }
      wch := startWeigh cfg.tareReference
      tgi := startTags
      nls := { entries := [], night := 0, closeSinceStart := false }
      rct := startRotor lines.enc bad
      ldi := startLanding lines.beamBroken
      lkc := startLink
      shc := startShafts
      nck := startClock
      jnc := startJournal
      lms := startLamps
      flash := s.flash
      draws := s.draws
      pending := s.pending }
  refreshLamps s1

/-- R176, R177: a start may begin: the part is in reset, RST is high and the level is NORMAL. -/
def startAllowed (s : State) : Bool :=
  s.phase == .inReset && !s.rstLow && s.supply.level == .normal

/-- START (R177). -/
def execStart (lines : StartLines) (s : State) : Host.Outcome State Fault Refusal :=
  .next (if startAllowed s then beginStart lines s else s)

/-! ## The scan (R112, R179) -/

/-- The record of the greatest sequence among those that pass a test, with its slot. -/
def newestWhere (p : Record → Bool) : List (Nat × Record) → Option (Nat × Record)
  | [] => none
  | r :: rest =>
    match newestWhere p rest with
    | none => if p r.2 then some r else none
    | some q => if p r.2 && q.2.seq.toNat < r.2.seq.toNat then some r else some q

/-- A record of a kind. -/
def isKind (k : RecordKind) (r : Record) : Bool := r.kind == k.code

/-- A CLEAR record for a target kind and an index (Table 8-3: SHAFT is 1, BIN is 2). -/
def isClearOf (target : Byte) (index : Fin 4) (r : Record) : Bool :=
  isKind .clear r && r.detail == target && r.shaft == shaftByte index

/-- R112: the own shaft is rebuilt as JAMMED: its newest JAM record is newer than its newest CLEAR. -/
def rebuiltJammed (rs : List (Nat × Record)) (own : Fin 4) : Bool :=
  match newestWhere (fun r => isKind .jam r && r.shaft == shaftByte own) rs with
  | none => false
  | some j =>
    match newestWhere (isClearOf 1 own) rs with
    | none => true
    | some c => c.2.seq.toNat < j.2.seq.toNat

/-- R112: the DEPOSIT records after the newest CLEAR of the own bin, of whatever shaft (log 26). R112 does not say which
records count where the journal holds no such CLEAR; that every DEPOSIT record counts then is the model's choice (log 43,
DESIGN CHOICE). -/
def depositsSinceClear (rs : List (Nat × Record)) (own : Fin 4) : List (Nat × Record) :=
  let after := match newestWhere (isClearOf 2 own) rs with
    | none => fun _ => true
    | some c => fun (r : Nat × Record) => decide (c.2.seq.toNat < r.2.seq.toNat)
  rs.filter (fun r => isKind .deposit r.2 && after r)

/-- R112: the mass that a DEPOSIT record adds to the rebuilt tally: none for NOT_LANDED or an absent
mass. -/
def landedMass (r : Record) : Nat :=
  if flagsNotLanded r.flags || r.mass == 0xFFFF then 0 else r.mass.toNat

/-- R112: the own bin tally rebuilt by the scan. -/
def rebuiltTally (rs : List (Nat × Record)) (own : Fin 4) : Tally :=
  let ds := depositsSinceClear rs own
  { count := match newestWhere (fun _ => true) ds with
      | none => 0
      | some d => d.2.binCount.toNat
    mass := ds.foldl (fun acc r => saturate massMax (acc + landedMass r.2)) 0 }

/-- R64: the night list rebuilt from the landed DEPOSIT records of the restored night, oldest first. -/
def rebuiltNightList (rs : List (Nat × Record)) (night : W16) : List W32 :=
  ((sortBySeq rs).filter
      (fun r => isKind .deposit r.2 && r.2.night == night && !flagsNotLanded r.2.flags)).foldl
    (fun acc r => addSerial acc r.2.serial) []

/-- R179: the AUDIT hold reason: the newest HOLD record has detail on. -/
def rebuiltAudit (rs : List (Nat × Record)) : Bool :=
  match newestWhere (isKind .hold) rs with
  | none => false
  | some r => r.2.detail == 1

/-- R179: the audit mark: the serial field of the newest AUDIT record. -/
def rebuiltMark (rs : List (Nat × Record)) : W32 :=
  match newestWhere (isKind .audit) rs with
  | none => 0
  | some r => r.2.serial

/-- R179, Table 9-4: the values rebuilt by the scan. -/
def scanRebuild (s : State) : State :=
  let rs := journalRecords s.flash
  let own := s.straps.shf
  let newest := newestWhere (fun _ => true) rs
  let seq : W32 := match newest with | none => 0 | some r => r.2.seq
  let wp : Nat := match newest with | none => 0 | some r => nextSlot r.1
  let night : W16 := match newest with | none => 0 | some r => r.2.night
  let jammed := rebuiltJammed rs own
  let s1 : State :=
    { s with
      jnc := { s.jnc with seqCounter := seq, newest := seq, writePtr := wp, auditMark := rebuiltMark rs }
      nls := { entries := rebuiltNightList rs night, night := night, closeSinceStart := false } }
  let s2 := setTally own (rebuiltTally rs own) (setView own (if jammed then .jammed else .free) none s1)
  let s3 := judgeHold .audit (rebuiltAudit rs) (judgeHold .jam jammed s2)
  raiseIfFull s3

/-- R178 step 5, R109, R137: the join: SETTLING, the sync timer with the FREE length, landing events. -/
def joinLink (s : State) : State :=
  { s with
    lkc := { s.lkc with phase := .settling, settleTime := 0 }
    nck := { s.nck with syncTimer := some (syncLength s) }
    ldi := { s.ldi with taking := true } }

/-- R178 step 4: the START record. -/
def startRecord (k : StartKind) (own : Fin 4) : RecordReq :=
  { RecordReq.blank .start own with detail := k.code }

/-- R178 step 4, R180: the START record is staged, then the records of the start-up hold in the order
asked. -/
def stageStart (s : State) : State :=
  let held := s.jnc.startHold
  let s1 := askGeneral (startRecord s.startKind s.straps.shf) { s with jnc := { s.jnc with startHold := [] } }
  held.foldl (fun t req => askGeneral req t) s1

/-- R178 steps 2 to 6. The page-ahead erase of step 3 is what an idle array with nothing staged is given
(R154, R166, R180). -/
def endScan (s : State) : State :=
  let s1 := judgeFull { scanRebuild s with phase := .service }
  let s2 := giveArray s1
  enterHome (joinLink (stageStart s2))

/-- SCAN_COMPLETE (R178). -/
def execScanComplete (s : State) : Host.Outcome State Fault Refusal :=
  running s (if s.phase = .scanning then endScan s else s)

/-! ## The reset pin (R176) -/

/-- RST_LOW (R176). -/
def execRstLow (s : State) : Host.Outcome State Fault Refusal :=
  .next { holdInReset s with rstLow := true }

/-- RST_HIGH (R176): a start may begin if the level is NORMAL. -/
def execRstHigh (s : State) : Host.Outcome State Fault Refusal :=
  .next { s with rstLow := false }

/-! ## The supply monitor (R173 to R175) -/

/-- The supply level set, with the recovery timer stopped. -/
def setLevel (l : SupplyLevel) (s : State) : State :=
  { s with supply := { s.supply with level := l, recovery := none } }

/-- R174: the POWER record: detail 1 WARN, 2 RESTORED. -/
def powerRecord (detail : Byte) (own : Fin 4) : RecordReq :=
  { RecordReq.blank .power own with detail := detail }

/-- R27: POWER raised in CLAIM abandons the claim. Where the claim wait limit has already made the outcome
an awaited one, which reason a refusal then gives is free (log 11). -/
def powerInClaim (s : State) : State :=
  if s.csq.state = .claim ∧ s.csq.returnWait = false then
    match s.csq.awaiting with
    | some .timeout =>
      { s.draw with csq := { s.csq with
          awaiting := some (if Config.powerOverridesTimeout s.draws then .power else .timeout) } }
    | some .power => s
    | none => abandonClaim .power s
  else s

/-- R174, R27: the effects of the change of level to WARN on the running part. In CLAIM the POWER record is asked for
before the RETURN record of the bag, so that it has the first claim on a place and takes the lower sequence: the
rules do not order the two, and this is the model's choice (log 37). -/
def warnEffect (s : State) : State :=
  powerInClaim (askGeneral (powerRecord 1 s.straps.shf) (raiseHold .power s))

/-- SUPPLY_WARN (R173, R174): from NORMAL only. -/
def execSupplyWarn (s : State) : Host.Outcome State Fault Refusal :=
  if s.supply.level = .normal then
    let s1 := setLevel .warn s
    running s1 (warnEffect s1)
  else .next s

/-- SUPPLY_CUT (R173, R175): from NORMAL or WARN. -/
def execSupplyCut (s : State) : Host.Outcome State Fault Refusal :=
  if s.supply.level = .cut then .next s
  else
    let s1 := setLevel .cut s
    .next (holdInReset { s1 with supply := { s1.supply with cutSinceStart := true } })

/-- R173: the supply falls below 1.60 V, below which the part keeps no state at all: what the flash array performs is
abandoned as on entering reset (R159), and every field but the array's contents and the pins' is as the first rise of
the supply will find it: in reset, the level CUT, the power-loss indication set (log 29). -/
def losePower (s : State) : State :=
  let s1 := holdInReset s
  { State.reset with rstLow := s1.rstLow, flash := s1.flash, draws := s1.draws, pending := s1.pending }

/-- POWER_LOSS (R173), at whatever level and in whatever phase it comes. -/
def execPowerLoss (s : State) : Host.Outcome State Fault Refusal := .next (losePower s)

/-- SUPPLY_RISE (R173): in WARN or CUT the recovery timer starts for 50 ms. -/
def execSupplyRise (s : State) : Host.Outcome State Fault Refusal :=
  .next (if s.supply.level = .normal then s else { s with supply := { s.supply with recovery := some 50 } })

/-- SUPPLY_DIP (R173): the recovery timer stops. -/
def execSupplyDip (s : State) : Host.Outcome State Fault Refusal :=
  .next { s with supply := { s.supply with recovery := none } }

/-- R174, R159: the effects of the change from WARN to NORMAL on the running part: POWER cleared, a
POWER(RESTORED) record, and the page-ahead erase judged again. -/
def restoredEffect (s : State) : State :=
  giveArray (askGeneral (powerRecord 2 s.straps.shf) (clearHold .power s))

/-- SUPPLY_RECOVERY_EXPIRY (R173, R174). -/
def execSupplyRecoveryExpiry (s : State) : Host.Outcome State Fault Refusal :=
  if s.supply.recovery = none then .next s
  else
    let s1 := setLevel .normal s
    if s.supply.level = .warn then running s1 (restoredEffect s1) else .next s1

end Sys2Proof.Machine
end

