-- ==== Sys2Proof/Machine/Flash.lean ====
section
/-! DEFINITION. The flash array's completions: the commands PROGRAM_COMPLETION, ERASE_COMPLETION and
INFO_COMPLETION (R152, R154 to R158, R160, R171). -/

namespace Sys2Proof.Machine

/-- R15, R152: the sequencer waits in CHECK (or CLAIM) for a deferred RETURN to be staged. -/
def waitsForReturn (s : State) : Bool :=
  s.csq.returnWait && (s.csq.state == .check || s.csq.state == .claim)

/-- R152: the deferred request is staged as soon as the queue holds fewer than 8 records, and a sequencer
that waits for it enters PRESENT. At the greatest sequence the record is discarded, and the step is taken
as though it had been staged (R149). -/
def stageDeferred (s : State) : State :=
  match s.jnc.deferred with
  | none => s
  | some req =>
    if s.jnc.staging.length < 8 then
      let s1 := { s with jnc := { s.jnc with deferred := none } }
      let s2 := if s.jnc.seqCounter = seqMax then s1 else pushRecord req s1
      if waitsForReturn s then enterPresent s2 else s2
    else s

/-- R155: the record has been written: it leaves the staging queue, newest written and write pointer
advance, and the array is IDLE. -/
def recordWritten (r : Record) (rest : List Record) (s : State) : State :=
  { s with
    flash := flashProgramBytes s.flash (32 * s.jnc.writePtr) r.toBytes
    jnc := { s.jnc with
      staging := rest, newest := r.seq, writePtr := nextSlot s.jnc.writePtr, array := .idle } }

/-- R152 to R155, R160: what follows the writing of a record. -/
def programDone (s : State) : State :=
  match s.jnc.staging with
  | [] => s
  | r :: rest => giveArray (judgeFull (judgeBusy (stageDeferred (recordWritten r rest s))))

/-- PROGRAM_COMPLETION (R155). -/
def execProgramCompletion (s : State) : Host.Outcome State Fault Refusal :=
  running s (if s.jnc.array = .program then programDone s else s)

/-- R157: the page is blank, the erase page none, and the array IDLE. -/
def pageErased (page : Nat) (s : State) : State :=
  { s with flash := flashErase s.flash (1024 * page), jnc := { s.jnc with array := .idle } }

/-- ERASE_COMPLETION (R157). -/
def execEraseCompletion (s : State) : Host.Outcome State Fault Refusal :=
  running s
    (match s.jnc.array with
     | .erase page => giveArray (judgeFull (pageErased page s))
     | _ => s)

/-- R171: the information page after its operation: erased first where the write begins at offset 0, then
the data bytes up to place 73 programmed. -/
def infoProgrammed (offset : Byte) (data : List Byte) (m : List Host.Cell) : List Host.Cell :=
  flashProgramBytes (if offset.toNat = 0 then flashErase m infoBase else m) (infoBase + offset.toNat)
    (infoData offset data)

/-- R171: the information page is written, and the array IDLE. -/
def infoWritten (offset : Byte) (data : List Byte) (s : State) : State :=
  { s with flash := infoProgrammed offset data s.flash, jnc := { s.jnc with array := .idle } }

/-- INFO_COMPLETION (R158). -/
def execInfoCompletion (s : State) : Host.Outcome State Fault Refusal :=
  running s
    (match s.jnc.array with
     | .info offset data => giveArray (infoWritten offset data s)
     | _ => s)

end Sys2Proof.Machine
end

