-- ==== Sys2Proof/Machine/Timers.lean ====
section
/-! DEFINITION. The claim's timers, the lamps, the hold ages and the night clock: the commands
CLAIM_WAIT_EXPIRY, RETRY_INTERVAL_EXPIRY, ACCEPTED_LAMP_EXPIRY, READY_DIMMING_EXPIRY, ROW_TIME_EXPIRY,
FLASH_HALF_EXPIRY, SPACING_TIMER_EXPIRY, LAPSE, SYNC_TIMER_EXPIRY and MILLISECOND_END (R17, R19, R23, R113,
R117, R136, R138, R181, R182, R184). -/

namespace Sys2Proof.Machine

/-! ## The claim (R17, R19, R117) -/

/-- CLAIM_WAIT_EXPIRY (R19): the claim is abandoned with CLAIM_TIMEOUT, or its outcome awaited. -/
def execClaimWaitExpiry (s : State) : Host.Outcome State Fault Refusal :=
  running s (if s.csq.claimWait ≠ none ∧ s.csq.state = .claim then abandonClaim .timeout s else s)

/-- R17: the retry interval ends and the sequencer asks for a claim again. -/
def retryClaim (s : State) : State :=
  requestClaim s.csq.bag.serial { s with csq := { s.csq with retry := none } }

/-- RETRY_INTERVAL_EXPIRY (R17). -/
def execRetryIntervalExpiry (s : State) : Host.Outcome State Fault Refusal :=
  running s (if s.csq.retry ≠ none ∧ s.csq.state = .claim then retryClaim s else s)

/-- R117: the spacing timer expires: CLAIM is queued if the view is FREE and the bin not full, else the
claim is deferred again. -/
def spacingOver (s : State) : State :=
  match s.shc.claimSerial with
  | some serial => if claimClear s then queueClaim serial s else setClaimPhase .deferred none s
  | none => setClaimPhase .deferred none s

/-- SPACING_TIMER_EXPIRY (R117). -/
def execSpacingTimerExpiry (s : State) : Host.Outcome State Fault Refusal :=
  running s (if s.shc.spacing ≠ none ∧ s.shc.phase = .spacing then spacingOver s else s)

/-- R113: the view lapses to FREE; a claim in DEFERRED may then go on (R117). -/
def lapseView (i : Fin 4) (s : State) : State := watchClaim s (setView i .free none s)

/-- LAPSE (R113): the hold age of a view HELD by another station reaches the hold limit. -/
def execLapse (i : Fin 4) (s : State) : Host.Outcome State Fault Refusal :=
  running s (if heldByOther s (s.shc.views.get i) ∧ s.shc.holdAge.get i ≠ none then lapseView i s else s)

/-! ## The lamps (R23, R181, R182, R184) -/

/-- ACCEPTED_LAMP_EXPIRY (R23): the ACCEPTED lamp goes OFF. -/
def execAcceptedLampExpiry (s : State) : Host.Outcome State Fault Refusal :=
  running s
    (if s.csq.accepted = none then s
     else refreshLamps { s with csq := { s.csq with accepted := none } })

/-- READY_DIMMING_EXPIRY (R184): the READY lamp becomes DIM. -/
def execReadyDimmingExpiry (s : State) : Host.Outcome State Fault Refusal :=
  running s
    (if s.lms.readyTimer = none then s
     else refreshLamps { s with lms := { s.lms with readyTimer := none } })

/-- R181: the row after a row. -/
def otherRow : LampRow → LampRow
  | .lr0 => .lr1
  | .lr1 => .lr0

/-- R181: the next row time: the other row active, its columns from the modes as they stand. -/
def nextRow (r : LampRow) (lms : Lamps) : Lamps :=
  { lms with row := some (otherRow r), rowTimer := some 3, columns := rowColumns lms (otherRow r) }

/-- ROW_TIME_EXPIRY (R181). -/
def execRowTimeExpiry (s : State) : Host.Outcome State Fault Refusal :=
  running s
    (match s.lms.row with
     | none => s
     | some r => { s with lms := nextRow r s.lms })

/-- R182: a half ends: the lamp passes between FULL and OFF for another 500 ms. -/
def nextHalf (l : Lamp) (lms : Lamps) : Lamps :=
  { lms with
    fullHalf := lms.fullHalf.set l (!lms.fullHalf.get l)
    halfTimer := lms.halfTimer.set l (some 500) }

/-- FLASH_HALF_EXPIRY (R182): for a lamp in FLASH mode. -/
def execFlashHalfExpiry (l : Lamp) (s : State) : Host.Outcome State Fault Refusal :=
  running s (if s.lms.modes.get l = .flash then { s with lms := nextHalf l s.lms } else s)

/-! ## The night clock (R136, R138) -/

/-- R137: the sync timer restarts with the length of the flag as it stands. -/
def restartSync (s : State) : State :=
  { s with nck := { s.nck with syncTimer := some (syncLength s) } }

/-- SYNC_TIMER_EXPIRY (R138): the timer restarts, and a SYNC is queued unless one is in the queue. -/
def execSyncTimerExpiry (s : State) : Host.Outcome State Fault Refusal :=
  running s (if s.nck.syncTimer = none then s else queueSync (restartSync s))

/-- MILLISECOND_END (R136): the clock rises by 1, wrapping. -/
def execMillisecondEnd (s : State) : Host.Outcome State Fault Refusal :=
  running s { s with nck := { s.nck with clock := s.nck.clock + 1 } }

end Sys2Proof.Machine
end

