-- ==== Sys2Proof/Machine/Link.lean ====
section
/-! DEFINITION. The link lines: the commands LINK_FREE, START_MARK, HOLD_THE_CLOCK, CHECK_BYTE, END_MARK,
OVERLONG_FRAME, FRAME_TIMEOUT, LOSS_OF_CONTENTION, STALL, ABANDONMENT, COMPLETED and SETTLE_TIME_RESTART (R89
to R110, R118, R119, R122, R123, R139). -/

namespace Sys2Proof.Machine

/-! ## Phases (R89) -/

/-- R89: SETTLING with a settle time of 0 and nothing in reception. -/
def toSettling (s : State) : State :=
  { s with lkc := { s.lkc with phase := .settling, settleTime := 0, reception := .absent } }

/-- R89: RECEIVING, with the reception given. -/
def toReceiving (r : Reception) (s : State) : State :=
  { s with lkc := { s.lkc with phase := .receiving, settleTime := 0, reception := r } }

/-- R89, R90: both lines have stayed high for 10 bit times: FREE, and a queued frame is started. A CLAIM that had
lost contention is judged before it could start again (R118; log 18). -/
def linkBecomesFree (s : State) : State :=
  let s1 := judgeLost s
  startIfFree { s1 with lkc := { s1.lkc with phase := .free, settleTime := 10 } }

/-- LINK_FREE (R89). -/
def execLinkFree (s : State) : Host.Outcome State Fault Refusal :=
  running s (if s.lkc.phase = .settling ∧ s.lkc.holding = false then linkBecomesFree s else s)

/-- SETTLE_TIME_RESTART (R89): in SETTLING the settle time restarts, and FREE returns to SETTLING. -/
def execSettleTimeRestart (s : State) : Host.Outcome State Fault Refusal :=
  running s (if s.lkc.phase = .settling ∨ s.lkc.phase = .free then toSettling s else s)

/-! ## The own frame in transmission (R92 to R95, R107) -/

/-- The entry in transmission is back in the queue, in its place by kind and age. -/
def entryBack (s : State) : State := { s with lkc := { s.lkc with inTx := none } }

/-- R93: the stall attempts of an entry set. -/
def setAttempts (age n : Nat) (l : Link) : Link :=
  { l with queue := l.queue.map (fun e => if e.age = age then { e with attempts := n } else e) }

/-- R87, R91: the bits that the transmitter of an entry sends, as loaded at its start mark. -/
def sentBits (s : State) (e : TxEntry) : List Bool := Frame.bits (TxFrame.toFrame s.ownByte e.content)

/-- R92, R118: contention is lost; the same frame goes on in reception with the bits read so far, and a CLAIM's
loss is reported. -/
def loseContention (read : List Bool) (e : TxEntry) (s : State) : State :=
  let s1 := entryBack (toReceiving (.bits read) s)
  if e.content.isClaim then claimBack queuedAfterLoss s1 else s1

/-- R92: a transmitter that reads the bits it sent goes on, and holds the bits it has read so far. -/
def readAsSent (more : List Bool) (e : TxEntry) (s : State) : State :=
  match s.lkc.reception with
  | .bits got =>
    if (got ++ more).isPrefixOf (sentBits s e) then
      { s with lkc := { s.lkc with reception := .bits (got ++ more) } }
    else s
  | .absent | .judged _ | .followed => s

/-- R92: the next bit reads 0: contention is lost where the transmitter sent 1. -/
def readZero (e : TxEntry) (s : State) : State :=
  match s.lkc.reception with
  | .bits got =>
    if lostContention (sentBits s e) (got ++ [false]) then loseContention (got ++ [false]) e s else s
  | .absent | .judged _ | .followed => s

/-- R93, R95: a stall below the 4th attempt: the entry is queued again. -/
def requeueStalled (e : TxEntry) (s : State) : State :=
  let s1 := { s with lkc := setAttempts e.age (e.attempts + 1) s.lkc }
  if e.content.isClaim then claimBack queuedAfterStall s1 else s1

/-- R93: the 4th attempt: the entry is dropped, and the drop count rises. -/
def dropStalled (e : TxEntry) (s : State) : State :=
  let s1 := { s with lkc := (s.lkc.without e.age).dropped }
  if e.content.isClaim then claimDropped s1 else s1

/-- R93 to R95: the frame is abandoned: RECEIVING with no frame in reception, the attempts counted. -/
def abandonFrame (e : TxEntry) (s : State) : State :=
  let s1 := entryBack (toReceiving .absent s)
  if e.attempts + 1 < 4 then requeueStalled e s1 else dropStalled e s1

/-- What the transmitter of a frame does with an event of its own transmission; nobody else takes it. -/
def asTransmitter (f : TxEntry → State → State) (s : State) : State :=
  if s.lkc.phase = .transmitting then
    match s.lkc.current with
    | some e => f e s
    | none => s
  else s

/-- LOSS_OF_CONTENTION (R92). -/
def execLossOfContention (s : State) : Host.Outcome State Fault Refusal :=
  running s (asTransmitter readZero s)

/-- STALL (R93). -/
def execStall (s : State) : Host.Outcome State Fault Refusal :=
  running s (asTransmitter abandonFrame s)

/-- ABANDONMENT (R94): with the same effects as a stall. -/
def execAbandonment (s : State) : Host.Outcome State Fault Refusal :=
  running s (asTransmitter abandonFrame s)

/-- R139: the completion of the own SYNC: the flag becomes SYNCED and the sync timer restarts. -/
def ownSyncCompleted (s : State) : State :=
  restartSync { s with nck := { s.nck with synced := true } }

/-- R107, R119, R139: the report of a completed frame to the block that queued it. -/
def reportCompleted (c : TxFrame) (slot : SlotLevels) (s : State) : State :=
  match c with
  | .claim _ _ => claimOutcome slot s
  | .sync _ _ _ => ownSyncCompleted s
  | .jam _ | .landed .. | .release _ _ | .journal _ _ | .stateReport _ _ => s

/-- R89, R107: the own frame completes at its end mark and leaves the queue. -/
def completeFrame (slot : SlotLevels) (e : TxEntry) (s : State) : State :=
  let s1 := entryBack (toSettling s)
  reportCompleted e.content slot { s1 with lkc := s1.lkc.without e.age }

/-- COMPLETED (R107). -/
def execCompleted (slot : SlotLevels) (s : State) : Host.Outcome State Fault Refusal :=
  running s (asTransmitter (completeFrame slot) s)

/-! ## Start marks (R89, R94, R100) -/

/-- R89: a start mark not made by this station: a new frame in reception; while transmitting it is the
abandonment of R94; in OFF nothing is received (R109). The frame that won over a CLAIM is over with it (R118). -/
def foreignStartMark (s : State) : State :=
  match s.lkc.phase with
  | .off => s
  | .settling | .free | .receiving => toReceiving (.bits []) (judgeLost s)
  | .transmitting => asTransmitter abandonFrame s

/-- START_MARK (R89): LDA falls while LCK is high, which a station that holds LCK low keeps from
happening. -/
def execStartMark (s : State) : Host.Outcome State Fault Refusal :=
  running s (if s.lkc.holding then s else foreignStartMark s)

/-! ## Clock holding (R103) -/

/-- R103: a frame is to be taken as far as its header bytes tell: destination 0 or the own address, a
source of 1..15, a kind taken under that addressing (a CLAIM to all stations is not), a length of 0..32
once it has come. -/
def toBeTaken (s : State) (kind source dest : Byte) (length : Option Byte) : Bool :=
  (dest == 0 || dest == s.ownByte) && sourceValid source && kindTaken kind (dest == 0) &&
    match length with
    | none => true
    | some n => n.toNat ≤ 32

/-- R103: the bytes end at one after which the queue is checked, the destination byte or a later one before the
check byte, of a frame that is to be taken as far as they tell. -/
def holdPoint (s : State) (kind source dest : Byte) (rest : List Byte) : Bool :=
  match rest with
  | [] => toBeTaken s kind source dest none
  | length :: payload =>
    toBeTaken s kind source dest (some length) && decide (payload.length ≤ length.toNat)

/-- R103: the station drives LCK low. -/
def holdClock (r : Reception) (s : State) : State :=
  { s with lkc := { s.lkc with reception := r, holding := true } }

/-- R103: with the receive queue holding 4 entries the clock is held where the frame in reception is to be taken: by
its bytes before the check byte, by its judgement after it. The bytes go on from the bits held so far. -/
def holdIfFull (kind source dest : Byte) (rest : List Byte) (s : State) : State :=
  if s.lkc.phase = .receiving ∧ s.lkc.rx.length = 4 ∧ s.lkc.holding = false then
    let read := bytesBits (kind :: source :: dest :: rest)
    match s.lkc.reception with
    | .bits got =>
      if got.isPrefixOf read ∧ holdPoint s kind source dest rest then holdClock (.bits read) s else s
    | .judged j =>
      if j.take.isSome ∧ Frame.wire j.frame = kind :: source :: dest :: rest then holdClock (.judged j) s
      else s
    | .absent | .followed => s
  else s

/-- HOLD_THE_CLOCK (R103). -/
def execHoldTheClock (kind source dest : Byte) (rest : List Byte) (s : State) :
    Host.Outcome State Fault Refusal :=
  running s (holdIfFull kind source dest rest s)

/-! ## The judgement at the check byte (R97 to R99, R122, R186) -/

/-- R97, R170: the owner accepts the frame: a CONFIG_WRITE only with SRV set, in IDLE or HELD, at an offset
of 0..73. -/
def ownerAccepts (s : State) (m : RxMsg) : Bool :=
  match m with
  | .configWrite offset _ =>
    s.straps.srv && (s.csq.state == .idle || s.csq.state == .held) && offset.toNat ≤ 73
  | _ => true

/-- R99 rows 2 to 7: what of a frame enters the receive queue at its completion, if anything. -/
def frameTaken (s : State) (f : Frame) : Option RxMsg :=
  if (f.dest == 0 || f.dest == s.ownByte) && Frame.crcGood f && sourceValid f.source &&
      kindTaken f.kind (f.dest == 0) && lengthPermitted f.kind f.payload.length then
    match rxMsgOf f with
    | some m => if ownerAccepts s m then some m else none
    | none => none
  else none

/-- R99 row 1: a CLAIM to all stations. -/
def isClaimFrame (f : Frame) : Bool := f.kind == 0x20 && f.dest == 0

/-- R98, R122, R186: the judgement of a CLAIM at its check byte. -/
def judgeClaim (s : State) (f : Frame) : Judged :=
  let good := Frame.crcGood f
  let handed := good && sourceValid f.source && f.payload.length == 5
  { frame := f, crcGood := good
    claimShaft := if handed then some (byteAt f.payload 0) else none
    take := none
    driveA := !good || (handed && claimBusy s (byteAt f.payload 0) f.source)
    driveB := handed && inNightList s (wordAt32 f.payload 1) }

/-- R97, R99: the judgement of any other frame; bit A acknowledges an addressed frame that is taken. -/
def judgeOther (s : State) (f : Frame) : Judged :=
  let t := frameTaken s f
  { frame := f, crcGood := Frame.crcGood f, claimShaft := none, take := t
    driveA := f.dest != 0 && t.isSome, driveB := false }

/-- R98, R99: the judgement of a frame at its check byte. -/
def judgeFrame (s : State) (f : Frame) : Judged :=
  if isClaimFrame f then judgeClaim s f else judgeOther s f

/-- R99: the reception once these bits have been read since the start mark: followed only from a length byte above 32
on, judged at the last bit of the check byte, and the bits alone before that. -/
def receptionOf (s : State) (bits : List Bool) : Reception :=
  if lengthAbove32 bits then .followed
  else
    match frameOf bits with
    | some f => .judged (judgeFrame s f)
    | none => .bits bits

/-- R99: more bits of the frame in reception are taken, which no bit can while the station holds LCK low. -/
def receiveBits (more : List Bool) (s : State) : State :=
  match s.lkc.reception, s.lkc.holding with
  | .bits got, false => { s with lkc := { s.lkc with reception := receptionOf s (got ++ more) } }
  | _, _ => s

/-- R92, R99: more bits of the frame on the link, which a receiver judges and a transmitter compares with its own. -/
def takeBits (more : List Bool) (s : State) : State :=
  match s.lkc.phase with
  | .receiving => receiveBits more s
  | .transmitting => asTransmitter (readAsSent more) s
  | .off | .settling | .free => s

/-- CHECK_BYTE (R99): the last bit of the check byte of the frame in reception, or bits on the way to it. -/
def execCheckByte (bits : List Bool) (s : State) : Host.Outcome State Fault Refusal :=
  running s (takeBits bits s)

/-! ## The end mark (R96, R100, R101, R108, R123) -/

/-- R96: the slot as it reads on the line: low where this station or any other drives it. -/
def readSlot (j : Judged) (others : SlotLevels) : SlotLevels :=
  { a := others.a && !j.driveA, b := others.b && !j.driveB }

/-- R123: a view that a clean slot sets: FREE, or HELD by the claimer already. -/
def viewYields (v : View) (claimer : BitVec 4) : Bool := v == .free || v == .held claimer

/-- R123: the completion of a CLAIM with a good CRC-8: a clean slot sets the view HELD by the claimer, from
hold age 0, and the own claim is judged against it (R116). -/
def takeCleanSlot (shaft : Byte) (source : Byte) (slot : SlotLevels) (s : State) : State :=
  match shaftOf shaft with
  | none => s
  | some i =>
    if slot.a && slot.b && viewYields (s.shc.views.get i) (source.setWidth 4) then
      watchClaim s (setView i (.held (source.setWidth 4)) (some s.cfg.holdLimit) s)
    else s

/-- R108: a good frame with the own source address that this station did not complete as transmitter. -/
def judgeClash (j : Judged) (s : State) : State :=
  if j.crcGood && j.frame.source == s.ownByte then raiseHold .addressClash s else s

/-- R101: a taken frame enters the receive queue behind the entries there. -/
def pushRx (m : Option RxMsg) (s : State) : State :=
  match m with
  | none => s
  | some x => { s with lkc := { s.lkc with rx := s.lkc.rx ++ [x] } }

/-- R96 to R101: a judged frame completes. -/
def completeReception (j : Judged) (others : SlotLevels) (s : State) : State :=
  let s1 := pushRx j.take (judgeClash j (toSettling s))
  match j.claimShaft with
  | none => s1
  | some b => takeCleanSlot b j.frame.source (readSlot j others) s1

/-- R89, R100: an end mark in RECEIVING; one before the slot, or of a frame followed only, discards. -/
def endMarkSeen (slot : Option SlotLevels) (s : State) : State :=
  match s.lkc.reception, slot with
  | .judged j, some others => completeReception j others s
  | _, _ => toSettling s

/-- R101, R103: at its end mark a frame that is taken has its place: a station with a full queue holds the
clock and the end mark does not come. -/
def endMarkBarred (s : State) : Bool :=
  match s.lkc.reception with
  | .judged j => j.take.isSome && decide (4 ≤ s.lkc.rx.length)
  | _ => false

/-- END_MARK (R101). -/
def execEndMark (slot : Option SlotLevels) (s : State) : Host.Outcome State Fault Refusal :=
  running s
    (if s.lkc.phase = .receiving ∧ s.lkc.holding = false ∧ endMarkBarred s = false then endMarkSeen slot s
     else s)

/-- OVERLONG_FRAME (R100): LCK falls again where the end mark was due; the frame is discarded and
followed. -/
def execOverlongFrame (s : State) : Host.Outcome State Fault Refusal :=
  running s
    (match s.lkc.phase, s.lkc.reception with
     | .receiving, .judged _ => { s with lkc := { s.lkc with reception := .followed } }
     | _, _ => s)

/-- FRAME_TIMEOUT (R100): both lines high for 2 ms without an end mark; the partial frame is discarded. -/
def execFrameTimeout (s : State) : Host.Outcome State Fault Refusal :=
  running s (if s.lkc.phase = .receiving ∧ s.lkc.holding = false then toSettling s else s)

end Sys2Proof.Machine
end

