-- ==== Sys2Proof/Machine/Taken.lean ====
section
/-! DEFINITION. The frames taken from the head of the receive queue: the commands JAM_TAKEN, LANDED_TAKEN,
RELEASE_TAKEN, SYNC_TAKEN, CLOSE_TAKEN, CLEAR_SHAFT, CLEAR_BIN, CLEAR_STATION, HOLD, AUDIT_MARK, READ_JOURNAL,
READ_STATE and CONFIG_WRITE (R25, R28, R59 to R62, R102, R128 to R134, R139 to R143, R161, R163, R171,
R172, R187). Each is taken only while the head of the queue is a frame of its kind (log 1). -/

namespace Sys2Proof.Machine

/-! ## The shaft coordinator's frames (R128 to R130) -/

/-- R129: a view that a JAM makes JAMMED: FREE, or HELD by another station. -/
def jamView (s : State) (i : Fin 4) : State :=
  if s.shc.views.get i = .free ∨ heldByOther s (s.shc.views.get i) then setView i .jammed none s else s

/-- R129: JAM(s) taken. -/
def takeJam (shaft : Byte) (s : State) : State :=
  match shaftOf shaft with
  | none => s
  | some i =>
    let s1 := jamView s i
    watchClaim s (if i = s.straps.shf then raiseJam s1 else s1)

/-- JAM_TAKEN (R129). -/
def execJamTaken (s : State) : Host.Outcome State Fault Refusal :=
  running s
    (match s.lkc.rx.head? with
     | some (.jam shaft) => takeJam shaft (takeRx s)
     | _ => s)

/-- R128, R130: a view that a RELEASE or a LANDED frees: HELD by another station, whichever it is. -/
def freeView (i : Fin 4) (s : State) : State :=
  if heldByOther s (s.shc.views.get i) then setView i .free none s else s

/-- R130 steps 1, 3 and 4: what a LANDED does at the coordinator: the view, the tally of the bin, its fullness and the
own claim. -/
def mergeLanding (i : Fin 4) (mass count : W16) (binMass : W32) (s : State) : State :=
  let s1 := freeView i s
  let s2 := setTally i (maxMerge (s1.shc.tallies.get i) mass.toNat count.toNat binMass.toNat) s1
  watchClaim s (if i = s.straps.shf then raiseIfFull s2 else s2)

/-- R56, R130: LANDED taken: the night list is given its serial (step 2), whatever shaft it names; a shaft above 3 has no
effect at the coordinator (6.6, R187; log 38, DEDUCED). -/
def takeLanded (shaft : Byte) (serial : W32) (mass count : W16) (binMass : W32) (s : State) : State :=
  let s1 := giveSerial serial s
  match shaftOf shaft with
  | none => s1
  | some i => mergeLanding i mass count binMass s1

/-- LANDED_TAKEN (R130). -/
def execLandedTaken (s : State) : Host.Outcome State Fault Refusal :=
  running s
    (match s.lkc.rx.head? with
     | some (.landed shaft serial mass count binMass) =>
       takeLanded shaft serial mass count binMass (takeRx s)
     | _ => s)

/-- R128, R187: RELEASE taken; its shaft is the low four bits, and 4..15 has no effect. -/
def takeRelease (shaft : BitVec 4) (s : State) : State :=
  match shaftOf (shaft.setWidth 8) with
  | none => s
  | some i => watchClaim s (freeView i s)

/-- RELEASE_TAKEN (R128). -/
def execReleaseTaken (s : State) : Host.Outcome State Fault Refusal :=
  running s
    (match s.lkc.rx.head? with
     | some (.release shaft) => takeRelease shaft (takeRx s)
     | _ => s)

/-! ## The close (R59 to R62, R143) and SYNC (R140 to R142) -/

/-- R59: the CLOSE record: detail 1 for a CLOSE frame, 2 for a SYNC. -/
def closeRecord (detail : Byte) (own : Fin 4) : RecordReq :=
  { RecordReq.blank .close own with detail := detail }

/-- R59: the close actions for a new night; the clock is set at step 4, before the CLOSE record's stamp. -/
def closeActions (night : W16) (detail : Byte) (nck : NightClock) (s : State) : State :=
  askGeneral (closeRecord detail s.straps.shf)
    { s with nls := { entries := [], night := night, closeSinceStart := true }, nck := nck }

/-- R60, R62, R143: CLOSE taken: a greater night closes the present one if its record can be staged; the
clock becomes 0 and the flag stays. -/
def takeClose (night : W16) (s : State) : State :=
  if s.nls.night.toNat < night.toNat ∧ closePlace s then
    closeActions night 1 { s.nck with clock := 0 } s
  else s

/-- CLOSE_TAKEN (R60). -/
def execCloseTaken (s : State) : Host.Outcome State Fault Refusal :=
  running s
    (match s.lkc.rx.head? with
     | some (.close night) => takeClose night (takeRx s)
     | _ => s)

/-- R141: the clock adopted: the value offered, and the flag SYNCED. -/
def adopted (offered : W32) (n : NightClock) : NightClock := { n with clock := offered, synced := true }

/-- R141, R142, Table 7-3: the judgement of a valid SYNC, before the timer restarts. -/
def judgeSync (offered : W32) (night : W16) (senderSynced : Bool) (s : State) : State :=
  if s.nls.night.toNat < night.toNat then
    if closePlace s then closeActions night 2 (adopted offered s.nck) s else s
  else if night = s.nls.night ∧ (senderSynced ∨ s.nck.synced = false) then
    { s with nck := adopted offered s.nck }
  else queueSync s

/-- R140: a SYNC taken: valid with a flag byte of 00h or 01h, else discarded; the clock it offers is
its clock field plus the whole milliseconds since its start mark. -/
def takeSync (elapsed clock : W32) (night : W16) (flag : Byte) (s : State) : State :=
  if flag = 0 ∨ flag = 1 then restartSync (judgeSync (clock + elapsed) night (flag == 1) s) else s

/-- SYNC_TAKEN (R141). -/
def execSyncTaken (elapsed : W32) (s : State) : Host.Outcome State Fault Refusal :=
  running s
    (match s.lkc.rx.head? with
     | some (.sync clock night flag) => takeSync elapsed clock night flag (takeRx s)
     | _ => s)

/-! ## CLEAR (R25, R133, R134) -/

/-- A CLEAR record: the target kind as its detail, the target index as its shaft field. -/
def clearRecord (target index : Byte) (own : Fin 4) : RecordReq :=
  { RecordReq.blank .clear own with detail := target, shaft := index }

/-- R133: CLEAR(shaft): a JAMMED view becomes FREE; for the own shaft JAM is cleared and a CLEAR record
asked for. -/
def clearShaftAt (index : Byte) (s : State) : State :=
  match shaftOf index with
  | none => s
  | some i =>
    let s1 := if s.shc.views.get i = .jammed then setView i .free none s else s
    watchClaim s
      (if i = s.straps.shf then askGeneral (clearRecord 1 index s.straps.shf) (clearHold .jam s1) else s1)

/-- R134: CLEAR(bin): the tally becomes 0 and 0; for the own bin BIN_FULL is cleared and a CLEAR record
asked for. -/
def clearBinAt (index : Byte) (s : State) : State :=
  match shaftOf index with
  | none => s
  | some i =>
    let s1 := setTally i { count := 0, mass := 0 } s
    watchClaim s
      (if i = s.straps.shf then askGeneral (clearRecord 2 index s.straps.shf) (clearHold .binFull s1)
       else s1)

/-- R25: CLEAR(station) for the own address in FAULT: the motor stops, a CLEAR record is asked for, the
pending bag record becomes absent, and HOME is entered. -/
def clearStationAt (index : Byte) (s : State) : State :=
  if s.csq.state = .fault ∧ index = s.ownByte then
    let s1 := askGeneral (clearRecord 3 index s.straps.shf) { s with rct := s.rct.stop }
    enterHome { s1 with csq := { s1.csq with bag := PendingBag.absent } }
  else s

/-- R187: a target kind of 0 or of 4..255 names no owner. -/
def clearTargetUnknown (target : Byte) : Bool := target == 0 || 4 ≤ target.toNat

/-- A CLEAR at the head of the receive queue, taken by the owner of a target kind with an effect of its
index. A CLEAR of an unknown target kind is taken with no effect (R187; log 16). -/
def takeClear (own : Byte) (effect : Byte → State → State) (s : State) : State :=
  match s.lkc.rx.head? with
  | some (.clear target index) =>
    if target = own then effect index (takeRx s)
    else if clearTargetUnknown target then takeRx s
    else s
  | _ => s

/-- CLEAR_SHAFT (R133). -/
def execClearShaft (s : State) : Host.Outcome State Fault Refusal :=
  running s (takeClear 1 clearShaftAt s)

/-- CLEAR_BIN (R134). -/
def execClearBin (s : State) : Host.Outcome State Fault Refusal :=
  running s (takeClear 2 clearBinAt s)

/-- CLEAR_STATION (R25). -/
def execClearStation (s : State) : Host.Outcome State Fault Refusal :=
  running s (takeClear 3 clearStationAt s)

/-! ## HOLD (R28, R187) -/

/-- R28: the HOLD record: detail 0 off, 1 on. -/
def holdRecord (on : Bool) (own : Fin 4) : RecordReq :=
  { RecordReq.blank .hold own with detail := if on then 1 else 0 }

/-- R28, R187: HOLD taken: 00h is off and any other argument on; AUDIT takes the value, and a change asks
for a HOLD record. -/
def takeHold (arg : Byte) (s : State) : State :=
  let on := arg != 0
  if s.csq.holds.audit = on then s
  else askGeneral (holdRecord on s.straps.shf) (judgeHold .audit on s)

/-- HOLD (R28). -/
def execHold (s : State) : Host.Outcome State Fault Refusal :=
  running s
    (match s.lkc.rx.head? with
     | some (.hold arg) => takeHold arg (takeRx s)
     | _ => s)

/-! ## The journal controller's frames (R161, R163, R171) -/

/-- R161: the AUDIT record carries the new mark in its serial field. -/
def auditRecord (mark : W32) (own : Fin 4) : RecordReq :=
  { RecordReq.blank .audit own with serial := mark }

/-- R161: the mark as it is taken: at most the newest written sequence number. -/
def clampMark (s : State) (m : W32) : W32 := if s.jnc.newest.toNat < m.toNat then s.jnc.newest else m

/-- R161, R157: AUDIT_MARK taken: an advance of the mark, its record, and the page-ahead erase judged
again. -/
def takeAuditMark (m : W32) (s : State) : State :=
  let mark := clampMark s m
  if mark.toNat ≤ s.jnc.auditMark.toNat then s
  else
    giveArray
      (askGeneral (auditRecord mark s.straps.shf) { s with jnc := { s.jnc with auditMark := mark } })

/-- AUDIT_MARK (R161). -/
def execAuditMark (s : State) : Host.Outcome State Fault Refusal :=
  running s
    (match s.lkc.rx.head? with
     | some (.auditMark m) => takeAuditMark m (takeRx s)
     | _ => s)

/-- R163: READ_JOURNAL taken: served at once while no operation is in progress, else placed in the
pending read slot, where it replaces a request that waits there. -/
def takeReadJournal (req : ReadReq) (s : State) : State :=
  if s.jnc.array = .idle then serveRead req s
  else { s with jnc := { s.jnc with pendingRead := some req } }

/-- READ_JOURNAL (R163). -/
def execReadJournal (s : State) : Host.Outcome State Fault Refusal :=
  running s
    (match s.lkc.rx.head? with
     | some (.readJournal source first count) =>
       takeReadJournal { source := source, from_ := first, count := count } (takeRx s)
     | _ => s)

/-- CONFIG_WRITE (R171): at the head of the receive queue it asks for the array, and leaves the queue when
the array is given to it. -/
def execConfigWrite (s : State) : Host.Outcome State Fault Refusal :=
  running s
    (match s.lkc.rx.head? with
     | some (.configWrite _ _) => giveArray s
     | _ => s)

/-! ## READ_STATE (R172, Table 11-5) -/

/-- Table 11-5, offset 0: the state code in bits 3..0 and the clock flag in bit 7. -/
def stateByte (s : State) : Byte := s.csq.state.code ||| (if s.nck.synced then 0x80 else 0)

/-- Table 11-5: the 32 bytes of the STATE payload. -/
def statePayload (s : State) : List Byte :=
  [stateByte s] ++ be16 s.csq.holds.toBits ++ be16 s.nls.night ++ be32 s.nck.clock ++
    be32 s.jnc.newest ++ be32 s.jnc.auditMark ++
    [BitVec.ofNat 8 (freeSlots s.flash s.jnc.writePtr), BitVec.ofNat 8 s.jnc.staging.length] ++
    be16 (BitVec.ofNat 16 s.nls.entries.length) ++
    be16 (BitVec.ofNat 16 (ownTally s).count) ++ be32 (BitVec.ofNat 32 (ownTally s).mass) ++
    [s.shc.views.x0.code, s.shc.views.x1.code, s.shc.views.x2.code, s.shc.views.x3.code,
      BitVec.ofNat 8 s.lkc.dropCount]

/-- READ_STATE (R172): a STATE frame to the source, its contents fixed now. -/
def execReadState (s : State) : Host.Outcome State Fault Refusal :=
  running s
    (match s.lkc.rx.head? with
     | some (.readState source) =>
       let s1 := takeRx s
       queueFrame (.stateReport source (statePayload s1)) s1
     | _ => s)

end Sys2Proof.Machine
end

