-- ==== Sys2Proof/Machine/Weighing.lean ====
section
/-! DEFINITION. The hatch, the weigh channel and the tag input: the commands HATCH_OPENING, HATCH_CLOSING,
WEIGH_BYTE_RECEIVED, SAMPLE_GAP_EXPIRY, WEIGH_RECOVERY_EXPIRY, SETTLE_TIMER_EXPIRY, TARE_INTERVAL_EXPIRY,
TAG_BYTE_RECEIVED, BYTE_GAP_EXPIRY and TAG_WINDOW_EXPIRY (R4, R8, R9, R12, R30 to R54). -/

namespace Sys2Proof.Machine

/-! ## The hatch (R4, R8, R9, R12, R16, R26) -/

/-- R12: the entry to CHECK at a hatch closing: an absent bag record, WEIGH seen as WEIGH stands (R3), the
weighing and the tag window begun. -/
def enterCheck (s : State) : State :=
  let s1 := enterState .check
    { s with csq := { s.csq with
        bag := PendingBag.absent, weighSeen := s.csq.holds.weigh, weighed := none, tagEnded := false } }
  openTagWindow (requestWeighing s1)

/-- R4, Table 1-6: a hatch opening; the forced hatch of a locked state is judged after it (R26). -/
def hatchOpens (s : State) : State :=
  let s1 := { s with csq := { s.csq with hatch := .opened } }
  if s.csq.state = .idle ∨ s.csq.state = .present then enterState .opened s1 else s1

/-- HATCH_OPENING (R4): a change of the filter from CLOSED to OPEN. -/
def execHatchOpening (s : State) : Host.Outcome State Fault Refusal :=
  running s (if s.csq.hatch = .closed then hatchOpens s else s)

/-- R4, R12: a hatch closing; in OPEN the sequencer enters CHECK. -/
def hatchCloses (s : State) : State :=
  let s1 := { s with csq := { s.csq with hatch := .closed } }
  if s.csq.state = .opened then enterCheck s1 else s1

/-- HATCH_CLOSING (R4, R12): a change of the filter from OPEN to CLOSED. -/
def execHatchClosing (s : State) : Host.Outcome State Fault Refusal :=
  running s (if s.csq.hatch = .opened then hatchCloses s else s)

/-! ## Windows and the mass (R33, R37, R38) -/

/-- R33: the window sum. -/
def windowSum : List W16 → Nat
  | [] => 0
  | x :: rest => x.toNat + windowSum rest

/-- The largest sample. -/
def windowMax : List W16 → Nat
  | [] => 0
  | x :: rest => max x.toNat (windowMax rest)

/-- The smallest sample, 65535 for no sample. -/
def windowMin : List W16 → Nat
  | [] => 65535
  | x :: rest => min x.toNat (windowMin rest)

/-- R33: the spread, the largest sample minus the smallest. -/
def windowSpread (w : List W16) : Nat := windowMax w - windowMin w

/-- R37: the quotient in g of a window sum over the tare; 0 for a net sum of 0 or less. -/
def netGrams (scaleK s t16 : Nat) : Nat := if s ≤ t16 then 0 else ((s - t16) * scaleK + 131072) / 262144

/-- R38: the mass handed over and its over-range indication. -/
def massResult (scaleK s t16 : Nat) : Nat × Bool :=
  (min 9999 (netGrams scaleK s t16), decide (9999 < netGrams scaleK s t16))

/-! ## The end of a weighing (R35) -/

/-- R12, R35: the weighing ends with an outcome, and CHECK with it if the tag window has ended. -/
def endWeighing (o : WeighOutcome) (s : State) : State :=
  judgeCheckEnd
    { s with
      wch := { s.wch with activity := .idle, window := [], settle := none }
      csq := { s.csq with weighed := some o } }

/-- R35: a complete window of a CHECK weighing: a stable window or the fourth ends the weighing. -/
def weighWindow (w : List W16) (s : State) : State :=
  let stable := decide (windowSpread w ≤ s.cfg.stability)
  if stable ∨ 4 ≤ s.wch.windowNumber then
    let m := massResult s.cfg.scaleK (windowSum w) s.wch.t16
    endWeighing (.weighed m.1 m.2 (!stable)) s
  else { s with wch := { s.wch with window := [], windowNumber := s.wch.windowNumber + 1 } }

/-! ## Tare checks (R41 to R44) -/

/-- R41, R42: the limit of a tare check: L, or 4 × L while snap pending. -/
def tareLimit (cfg : Cfg) (w : Weigh) : Nat := if w.snapPending then 4 * cfg.zeroTrack else cfg.zeroTrack

/-- R41, R42: a tare window is good: stable, and its sum within the limit of T16. -/
def tareGood (cfg : Cfg) (w : Weigh) (win : List W16) : Bool :=
  decide (windowSpread win ≤ cfg.stability) &&
    decide (((windowSum win : Int) - (w.t16 : Int)).natAbs ≤ tareLimit cfg w)

/-- R41: a step of one eighth of the difference, truncated toward zero. -/
def tareStep (t16 sum : Nat) : Nat := ((t16 : Int) + Int.tdiv ((sum : Int) - (t16 : Int)) 8).toNat

/-- R41 to R43: a good check: the tare snapped or stepped, the runs updated. -/
def goodCheck (sum : Nat) (w : Weigh) : Weigh :=
  { w with
    t16 := if w.snapPending then sum else tareStep w.t16 sum
    snapPending := false, goodRun := saturate 3 (w.goodRun + 1), badRun := 0
    activity := .idle, window := [] }

/-- R41 to R43: a bad check: the tare unchanged, the runs updated. -/
def badCheck (w : Weigh) : Weigh :=
  { w with goodRun := 0, badRun := saturate 3 (w.badRun + 1), activity := .idle, window := [] }

/-- R43: the FAULT(ZERO_DRIFT) record. -/
def zeroDriftRecord (own : Fin 4) : RecordReq :=
  { RecordReq.blank .fault own with detail := FaultReason.zeroDrift.code }

/-- R41 to R44: a complete tare window is judged; ZERO is cleared by the third good check in a row and
raised, with its record, by the third bad one. -/
def tareWindow (w : List W16) (s : State) : State :=
  if tareGood s.cfg s.wch w then
    let s1 := { s with wch := goodCheck (windowSum w) s.wch }
    if s.wch.goodRun = 2 then clearHold .zero s1 else s1
  else
    let s1 := { s with wch := badCheck s.wch }
    if s.wch.badRun = 2 ∧ s.csq.holds.zero = false then
      askGeneral (zeroDriftRecord s.straps.shf) (raiseHold .zero s1)
    else s1

/-! ## Samples (R30 to R33) -/

/-- R33: a sample joins the window of the activity, which is judged when it holds 16. -/
def gatherSample (v : W16) (s : State) : State :=
  let w := s.wch.window ++ [v]
  let s1 := { s with wch := { s.wch with window := w } }
  match s.wch.activity with
  | .weighing => if w.length = 16 then weighWindow w s1 else s1
  | .tare => if w.length = 16 then tareWindow w s1 else s1
  | .idle | .settle => s

/-- R30, R31, R32: a sample is taken: the gap timer restarts, and while WEIGH is raised a stopped recovery
timer starts for 1 s. -/
def takeSample (v : W16) (s : State) : State :=
  gatherSample v
    { s with wch := { s.wch with
        gap := some 20
        recovery := if s.csq.holds.weigh ∧ s.wch.recovery = none then some 1000 else s.wch.recovery } }

/-- R30: the assembler holds a byte, or is emptied. -/
def holdByte (b : Option Byte) (s : State) : State := { s with wch := { s.wch with heldByte := b } }

/-- R30: a byte on the weigh converter line. -/
def weighByte (b : Byte) (framingError late : Bool) (s : State) : State :=
  if framingError then holdByte none s
  else
    match s.wch.heldByte with
    | none => holdByte (some b) s
    | some first => if late then holdByte (some b) s else takeSample (first ++ b) (holdByte none s)

/-- WEIGH_BYTE_RECEIVED (R30). -/
def execWeighByteReceived (b : Byte) (framingError late : Bool) (s : State) : Host.Outcome State Fault Refusal :=
  running s (weighByte b framingError late s)

/-- R31, R34, R36, R40: the sample gap: WEIGH raised, the recovery timer stopped, the window abandoned; a
weighing ends with a sample gap, a tare check without a judgement. -/
def sampleGap (s : State) : State :=
  let s1 := raiseHold .weigh
    { s with wch := { s.wch with gap := none, recovery := none, window := [], settle := none, activity := .idle } }
  if s.wch.activity = .settle ∨ s.wch.activity = .weighing then endWeighing .gap s1 else s1

/-- SAMPLE_GAP_EXPIRY (R31): the running gap timer expires. -/
def execSampleGapExpiry (s : State) : Host.Outcome State Fault Refusal :=
  running s (if s.wch.gap = none then s else sampleGap s)

/-- R32: WEIGH is cleared. -/
def weighRecovered (s : State) : State :=
  clearHold .weigh { s with wch := { s.wch with recovery := none } }

/-- WEIGH_RECOVERY_EXPIRY (R32). -/
def execWeighRecoveryExpiry (s : State) : Host.Outcome State Fault Refusal :=
  running s (if s.wch.recovery = none then s else weighRecovered s)

/-- R34: the settle timer expires: WEIGHING, window 1. -/
def settleOver (s : State) : State :=
  { s with wch := { s.wch with settle := none, activity := .weighing, window := [], windowNumber := 1 } }

/-- SETTLE_TIMER_EXPIRY (R34). -/
def execSettleTimerExpiry (s : State) : Host.Outcome State Fault Refusal :=
  running s (if s.wch.settle = none then s else settleOver s)

/-- R39: the tare interval ends: the next sample begins a tare window. -/
def tareBegins (s : State) : State :=
  { s with wch := { s.wch with tareInterval := none, activity := .tare, window := [] } }

/-- TARE_INTERVAL_EXPIRY (R39). -/
def execTareIntervalExpiry (s : State) : Host.Outcome State Fault Refusal :=
  running s (if s.wch.tareInterval = none then s else tareBegins s)

/-! ## The tag input (R47 to R53) -/

/-- R48, R49: the assembler in HUNT. Its buffer is empty: a partial message is discarded (R49), and that a complete
one leaves the buffer empty as well, which R48 empties at the next start byte only, is the model's choice (log 41). -/
def TagInput.toHunt (t : TagInput) : TagInput := { t with phase := .hunt, buffer := [], byteGap := none }

/-- R52: a valid message taken into an OPEN window. -/
def TagInput.takeRead (t : TagInput) (serial : W32) (read : FirstRead) : TagInput :=
  match t.readSet with
  | [] => { t with readSet := [serial], firstRead := some read }
  | [first] => if first = serial then t else { t with readSet := [first, serial] }
  | _ => t

/-- R50, R52: a complete message is judged; a valid one is taken while the window is OPEN. -/
def TagInput.judge (t : TagInput) (buf : List Byte) : TagInput :=
  if tagValid buf ∧ t.windowOpen then t.toHunt.takeRead (wordAt32 buf 0) (tagRead buf) else t.toHunt

/-- R47, R48: a byte on the tag reader line. -/
def TagInput.byte (t : TagInput) (b : Byte) (framingError : Bool) : TagInput :=
  match t.phase with
  | .hunt =>
    if framingError then t
    else if b = 0x3C then { t with phase := .collect, buffer := [], byteGap := some 5 }
    else t
  | .collect =>
    if framingError then t.toHunt
    else
      let buf := t.buffer ++ [b]
      if buf.length = 12 then t.judge buf else { t with buffer := buf, byteGap := some 5 }

/-- TAG_BYTE_RECEIVED (R47, R48). -/
def execTagByteReceived (b : Byte) (framingError : Bool) (s : State) : Host.Outcome State Fault Refusal :=
  running s { s with tgi := s.tgi.byte b framingError }

/-- BYTE_GAP_EXPIRY (R49): the partial message is discarded. -/
def execByteGapExpiry (s : State) : Host.Outcome State Fault Refusal :=
  running s (if s.tgi.byteGap = none then s else { s with tgi := s.tgi.toHunt })

/-- R51: the window closes and its reads are handed to the sequencer. -/
def tagWindowEnds (s : State) : State :=
  judgeCheckEnd
    { s with
      tgi := { s.tgi with windowOpen := false, windowTimer := none }
      csq := { s.csq with tagEnded := true } }

/-- TAG_WINDOW_EXPIRY (R51). -/
def execTagWindowExpiry (s : State) : Host.Outcome State Fault Refusal :=
  running s (if s.tgi.windowTimer = none then s else tagWindowEnds s)

end Sys2Proof.Machine
end

