-- ==== Sys2Proof/Machine/Dispatch.lean ====
section
/-! DEFINITION. The effect of each command: one arm per row of spec/opcode_table.json. -/

namespace Sys2Proof.Machine

def exec (i : Instr) (s : State) : Host.Outcome State Fault Refusal :=
  match i with
  | .start lines => Sys2Proof.Machine.execStart lines s
  | .scanComplete => Sys2Proof.Machine.execScanComplete s
  | .rstLow => Sys2Proof.Machine.execRstLow s
  | .rstHigh => Sys2Proof.Machine.execRstHigh s
  | .supplyWarn => Sys2Proof.Machine.execSupplyWarn s
  | .supplyCut => Sys2Proof.Machine.execSupplyCut s
  | .powerLoss => Sys2Proof.Machine.execPowerLoss s
  | .supplyRise => Sys2Proof.Machine.execSupplyRise s
  | .supplyDip => Sys2Proof.Machine.execSupplyDip s
  | .supplyRecoveryExpiry => Sys2Proof.Machine.execSupplyRecoveryExpiry s
  | .hatchOpening => Sys2Proof.Machine.execHatchOpening s
  | .hatchClosing => Sys2Proof.Machine.execHatchClosing s
  | .weighByteReceived byte framingError late => Sys2Proof.Machine.execWeighByteReceived byte framingError late s
  | .sampleGapExpiry => Sys2Proof.Machine.execSampleGapExpiry s
  | .weighRecoveryExpiry => Sys2Proof.Machine.execWeighRecoveryExpiry s
  | .settleTimerExpiry => Sys2Proof.Machine.execSettleTimerExpiry s
  | .tareIntervalExpiry => Sys2Proof.Machine.execTareIntervalExpiry s
  | .tagByteReceived byte framingError => Sys2Proof.Machine.execTagByteReceived byte framingError s
  | .byteGapExpiry => Sys2Proof.Machine.execByteGapExpiry s
  | .tagWindowExpiry => Sys2Proof.Machine.execTagWindowExpiry s
  | .encoderStep sample => Sys2Proof.Machine.execEncoderStep sample s
  | .invalidTransition => Sys2Proof.Machine.execInvalidTransition s
  | .homeSwitchActive => Sys2Proof.Machine.execHomeSwitchActive s
  | .homeSwitchInactive => Sys2Proof.Machine.execHomeSwitchInactive s
  | .deadTimeExpiry => Sys2Proof.Machine.execDeadTimeExpiry s
  | .landingEvent => Sys2Proof.Machine.execLandingEvent s
  | .beamClear => Sys2Proof.Machine.execBeamClear s
  | .homeLimitExpiry => Sys2Proof.Machine.execHomeLimitExpiry s
  | .turnLimitExpiry => Sys2Proof.Machine.execTurnLimitExpiry s
  | .fallWindowExpiry => Sys2Proof.Machine.execFallWindowExpiry s
  | .landingSettleExpiry => Sys2Proof.Machine.execLandingSettleExpiry s
  | .claimWaitExpiry => Sys2Proof.Machine.execClaimWaitExpiry s
  | .retryIntervalExpiry => Sys2Proof.Machine.execRetryIntervalExpiry s
  | .acceptedLampExpiry => Sys2Proof.Machine.execAcceptedLampExpiry s
  | .readyDimmingExpiry => Sys2Proof.Machine.execReadyDimmingExpiry s
  | .rowTimeExpiry => Sys2Proof.Machine.execRowTimeExpiry s
  | .flashHalfExpiry lamp => Sys2Proof.Machine.execFlashHalfExpiry lamp s
  | .spacingTimerExpiry => Sys2Proof.Machine.execSpacingTimerExpiry s
  | .lapse shaft => Sys2Proof.Machine.execLapse shaft s
  | .syncTimerExpiry => Sys2Proof.Machine.execSyncTimerExpiry s
  | .linkFree => Sys2Proof.Machine.execLinkFree s
  | .startMark => Sys2Proof.Machine.execStartMark s
  | .holdTheClock kind source dest rest => Sys2Proof.Machine.execHoldTheClock kind source dest rest s
  | .checkByte bits => Sys2Proof.Machine.execCheckByte bits s
  | .endMark slot => Sys2Proof.Machine.execEndMark slot s
  | .overlongFrame => Sys2Proof.Machine.execOverlongFrame s
  | .frameTimeout => Sys2Proof.Machine.execFrameTimeout s
  | .lossOfContention => Sys2Proof.Machine.execLossOfContention s
  | .stall => Sys2Proof.Machine.execStall s
  | .abandonment => Sys2Proof.Machine.execAbandonment s
  | .completed slot => Sys2Proof.Machine.execCompleted slot s
  | .jamTaken => Sys2Proof.Machine.execJamTaken s
  | .landedTaken => Sys2Proof.Machine.execLandedTaken s
  | .releaseTaken => Sys2Proof.Machine.execReleaseTaken s
  | .syncTaken elapsed => Sys2Proof.Machine.execSyncTaken elapsed s
  | .closeTaken => Sys2Proof.Machine.execCloseTaken s
  | .clearShaft => Sys2Proof.Machine.execClearShaft s
  | .clearBin => Sys2Proof.Machine.execClearBin s
  | .clearStation => Sys2Proof.Machine.execClearStation s
  | .hold => Sys2Proof.Machine.execHold s
  | .auditMark => Sys2Proof.Machine.execAuditMark s
  | .readJournal => Sys2Proof.Machine.execReadJournal s
  | .readState => Sys2Proof.Machine.execReadState s
  | .configWrite => Sys2Proof.Machine.execConfigWrite s
  | .programCompletion => Sys2Proof.Machine.execProgramCompletion s
  | .eraseCompletion => Sys2Proof.Machine.execEraseCompletion s
  | .infoCompletion => Sys2Proof.Machine.execInfoCompletion s
  | .millisecondEnd => Sys2Proof.Machine.execMillisecondEnd s
  | .settleTimeRestart => Sys2Proof.Machine.execSettleTimeRestart s

end Sys2Proof.Machine
end

