-- ==== Sys2Proof/Safety.lean ====
section
/-! DEFINITION. What holds of the part between steps, in the terms the statements use. Each predicate is a
rule of the spec about the whole part; none mentions the queue of waiting commands. -/

namespace Sys2Proof.Machine

/-- R8, R11, R26, R39: what is judged at the end of every step has been judged: IDLE means an empty hold
reason set and HELD a set that is not empty, the hatch is shut in IDLE and in a locked state, and the tare interval
timer runs exactly while the weigh channel is eligible and no check is in progress. -/
abbrev Settled (s : State) : Prop :=
  (s.csq.state = .idle → s.csq.holds.isEmpty = true) ∧
  (s.csq.state = .held → s.csq.holds.isEmpty = false) ∧
  (s.csq.state = .idle ∨ s.csq.state.locked = true → s.csq.hatch = .closed) ∧
  (tareEligible s = true → (s.wch.activity = .tare ↔ s.wch.tareInterval = none)) ∧
  (tareEligible s = false → s.wch.activity ≠ .tare ∧ s.wch.tareInterval = none)

/-- R6: the sequencer is in START exactly until the start-up sequence has come to its end, and until then
no record is staged (R180). -/
abbrev StartRight (s : State) : Prop :=
  (s.csq.state = .start ↔ s.phase ≠ .service) ∧ (s.phase ≠ .service → s.jnc.staging = [])

/-- R5, R185, R167: the lock line is what the sequencer state gives. -/
abbrev LockRight (s : State) : Prop := s.csq.lock = lockLine s.phase s.csq.state

/-- R66, R71, Table 4-3: the mode follows the sequencer, and MRUN is active only in a moving mode, with
MDIR as the mode gives. -/
abbrev MotorRight (s : State) : Prop :=
  (s.rct.mode = .forward → s.csq.state = .turn ∧ s.rct.mdir = .high) ∧
  (s.rct.mode = .watch → s.csq.state = .fall ∧ s.rct.mrun ≠ .high) ∧
  (s.rct.mode = .reverse → s.csq.state = .home ∧ s.rct.mdir = .low) ∧
  (s.rct.mode = .stopped → s.rct.mrun ≠ .high)

/-- R111, R114: the own shaft is self-held only in TURN or FALL. The rest says why: a frame with the own
source address that is judged as a CLAIM has been objected to by this station itself (R122). -/
abbrev SelfHeldRight (s : State) : Prop :=
  (selfHeld s = true → s.csq.state = .turn ∨ s.csq.state = .fall) ∧
  (match s.lkc.reception with
   | .judged j => j.claimShaft ≠ none → sourceValid j.frame.source = true ∧
       (j.frame.source = s.ownByte → j.driveA = true)
   | _ => True)

/-- Table 10-2, R183: the lamp modes of a part that is out of reset follow its state. -/
abbrev LampsRight (s : State) : Prop :=
  s.phase ≠ .inReset → s.lms.modes = PerLamp.ofFn (lampMode s)

/-- R89, R90, R101, R104: the link's queues keep their lengths, at most one CLAIM is queued, and in FREE no
frame waits. -/
abbrev LinkRight (s : State) : Prop :=
  s.lkc.rx.length ≤ 4 ∧ s.lkc.queue.length ≤ 8 ∧
  (s.lkc.queue.filter (fun e => e.content.isClaim)).length ≤ 1 ∧
  (s.lkc.phase = .free → s.lkc.queue = [])

/-- R104: the entries of the transmit queue carry ages of their own, each below the next one to be given. -/
abbrev AgesRight (s : State) : Prop :=
  (s.lkc.queue.map (fun e => e.age)).Nodup ∧ ∀ e ∈ s.lkc.queue, e.age < s.lkc.nextAge

/-- R150, R152, R180: the staging queue and the start-up hold keep their lengths, and a bag record is
deferred only while the staging queue is full. -/
abbrev StagingRight (s : State) : Prop :=
  s.jnc.staging.length ≤ 8 ∧ s.jnc.startHold.length ≤ 6 ∧
  (s.jnc.deferred ≠ none → s.jnc.staging.length = 8)

/-- R154, R157, R163, R175: the flash array of a part in service is not left idle over work it may do: an
erase of the page ahead that is permitted, a read that waits, or a staged record that a slot is offered
for. Before service it is idle, and a supply at CUT means reset. -/
abbrev ArrayRight (s : State) : Prop :=
  (s.supply.level = .cut → s.phase = .inReset) ∧
  (s.phase ≠ .service → s.jnc.array = .idle) ∧
  (s.jnc.pendingRead ≠ none → s.jnc.array ≠ .idle) ∧
  (s.phase = .service → s.jnc.array = .idle →
    eraseWanted s = false ∧ (s.jnc.staging ≠ [] → slotOffered s.flash s.jnc.writePtr = false))

/-- R146, R157: the erase of the page ahead is permitted: the supply is NORMAL, a slot of the page is not blank, and no
valid record of the page has a sequence above the audit mark. -/
abbrev ErasePermitted (s : State) : Prop :=
  let ahead := ((s.jnc.writePtr + 511) % 512 / 32 + 1) % 16
  s.supply.level = .normal ∧ (∃ i, i < 32 ∧ slotBlank s.flash (32 * ahead + i) = false) ∧
  ∀ q ∈ journalRecords s.flash, q.1 / 32 = ahead → q.2.seq.toNat ≤ s.jnc.auditMark.toNat

/-- R155, R158: from s to t the command c has begun an operation of the array: the array does what it did not do, or c
has completed a programming or an information-page operation, and the array is not idle after it. -/
abbrev OperationBegins (c : Instr) (s t : State) : Prop :=
  s.phase ≠ .inReset ∧ t.jnc.array ≠ .idle ∧
  (t.jnc.array ≠ s.jnc.array ∨
    c = .programCompletion ∧ s.jnc.array = .program ∧ s.jnc.staging ≠ [] ∨
    c = .infoCompletion ∧ ∃ offset data, s.jnc.array = .info offset data)

/-- R154, R156 to R159: the operation that the array of t performs is permitted as it begins: no READ_JOURNAL waits any
more; an erase is one of the page ahead that R157 permits, and where it is permitted nothing else begins; a record is
programmed only where none of its betters waits, into a blank slot, and at place 0 only into a page that is blank. -/
abbrev OperationRight (t : State) : Prop :=
  let wp := t.jnc.writePtr
  t.jnc.pendingRead = none ∧
  (∀ page, t.jnc.array = .erase page → page = ((wp + 511) % 512 / 32 + 1) % 16 ∧ ErasePermitted t) ∧
  ((∀ page, t.jnc.array ≠ .erase page) → ¬ ErasePermitted t) ∧
  (t.jnc.array = .program → t.jnc.staging ≠ [] ∧ slotBlank t.flash wp = true ∧
    (wp % 32 = 0 → ∀ i, i < 32 → slotBlank t.flash (wp + i) = true) ∧
    ∀ offset data, t.lkc.rx.head? ≠ some (.configWrite offset data))

/-- R149: the staged records carry the sequence numbers that follow the newest written, in order, up to
the sequence counter. -/
abbrev SequenceRight (s : State) : Prop :=
  s.jnc.seqCounter.toNat = s.jnc.newest.toNat + s.jnc.staging.length ∧
  s.jnc.staging.map (fun r => r.seq.toNat) = List.range' (s.jnc.newest.toNat + 1) s.jnc.staging.length

/-- R55: the night list holds at most 256 serials, no two alike, none of them 0 or FFFFFFFFh. -/
abbrev NightListRight (s : State) : Prop :=
  s.nls.entries.length ≤ 256 ∧ s.nls.entries.Nodup ∧ (0 : W32) ∉ s.nls.entries ∧
  (0xFFFFFFFF : W32) ∉ s.nls.entries

/-- R131: a tally within its bounds. -/
abbrev tallyRight (t : Tally) : Prop := t.count ≤ countMax ∧ t.mass ≤ massMax

/-- R131: the four bin tallies lie within their bounds. -/
abbrev TalliesRight (s : State) : Prop :=
  tallyRight s.shc.tallies.x0 ∧ tallyRight s.shc.tallies.x1 ∧ tallyRight s.shc.tallies.x2 ∧
  tallyRight s.shc.tallies.x3

/-- Table 2-1: the weigh channel's values lie within their ranges; between steps no window is complete. -/
abbrev WeighRight (s : State) : Prop :=
  s.wch.window.length < 16 ∧ s.wch.t16 ≤ 1048560 ∧ s.wch.goodRun ≤ 3 ∧ s.wch.badRun ≤ 3 ∧
  1 ≤ s.wch.windowNumber ∧ s.wch.windowNumber ≤ 4

/-- Table 3-1, Table 4-4, Table 5-1, Table 8-1: the other counts and buffers lie within their ranges. That the tag
buffer holds fewer than the 12 bytes of Table 3-1 between steps rests on log 41 (DESIGN CHOICE). -/
abbrev RangesRight (s : State) : Prop :=
  s.tgi.buffer.length < 12 ∧ s.tgi.readSet.length ≤ 2 ∧ s.tgi.readSet.Nodup ∧ s.ldi.count ≤ 255 ∧
  s.lkc.dropCount ≤ 255 ∧ s.jnc.writePtr < 512

/-- R145: the flash array is in its canonical form, and what the journal controller writes or erases next lies
inside it. -/
abbrev FlashRight (s : State) : Prop :=
  flashWf s.flash = true ∧ s.jnc.writePtr < 512 ∧
  (match s.jnc.array with
   | .erase page => page < 16
   | _ => True)

/-- R10, R27, R129, R132, R133, R153, R160, R174: the hold reasons that stand for a condition stand with it:
POWER with the level WARN, and in service JOURNAL_BUSY, JOURNAL_FULL, BIN_FULL for a full own bin and JAM for a
JAMMED own shaft. Before service JOURNAL_BUSY is clear (R3, R180). The bin limits of Table 9-1 are at least 1. -/
abbrev HoldsRight (s : State) : Prop :=
  (s.phase ≠ .inReset → s.csq.holds.power = (s.supply.level == .warn)) ∧
  (s.phase = .service →
    s.csq.holds.journalBusy = decide (4 ≤ s.jnc.staging.length) ∧
    s.csq.holds.journalFull =
      (decide (freeSlots s.flash s.jnc.writePtr < 8) || s.jnc.seqCounter == 0xFFFFFFFF) ∧
    (ownFull s = true → s.csq.holds.binFull = true) ∧
    (ownView s = .jammed → s.csq.holds.jam = true)) ∧
  (s.phase ≠ .service → s.csq.holds.journalBusy = false) ∧
  1 ≤ s.cfg.binCountLimit ∧ 1 ≤ s.cfg.binMassLimit

/-- R149, R150: the record of a general kind as it is stamped in this state. -/
def generalRecord (s : State) (kind detail shaft : Byte) (serial account : W32) (bagType : Byte)
    (mass fall : W16) : Record :=
  { seq := s.jnc.seqCounter + 1, night := s.nls.night, clock := s.nck.clock, station := s.ownByte
    kind := kind, detail := detail, flags := 0, shaft := shaft, serial := serial, account := account
    bagType := bagType, mass := mass, fall := fall, binCount := 0 }

/-- A general record without the bag fields (Table 8-2: absent values). -/
def plainRecord (s : State) (kind detail : Byte) : Record :=
  generalRecord s kind detail (shaftByte s.straps.shf) 0 0 0xFF 0xFFFF 0xFFFF

/-- R149, R150: from s to t a general record has been asked for: it stands last in the staging queue if one
of the seven general places was open and a sequence number left, and was discarded otherwise. -/
abbrev RecordAsked (r : Record) (s t : State) : Prop :=
  t.jnc.staging =
    if s.jnc.staging.length < 7 ∧ s.jnc.seqCounter ≠ 0xFFFFFFFF then s.jnc.staging ++ [r]
    else s.jnc.staging

/-- The hold reason set but for JOURNAL_FULL and JOURNAL_BUSY, which a staging judges (R153, R160). -/
abbrev SameHoldsButJournal (h k : HoldSet) : Prop :=
  k = { h with journalFull := k.journalFull, journalBusy := k.journalBusy }

/-- The sequencer but for its state, its lock line and the hold reason set. -/
abbrev SameSequencerBut (c d : Sequencer) : Prop :=
  d = { c with state := d.state, lock := d.lock, holds := d.holds }

/-- R8, R11: from s to t the state has followed the hold reason set, and the lock and the lamps the state: IDLE and HELD are
as the set of t gives, and every other state stays. -/
abbrev StateByHolds (s t : State) : Prop :=
  (s.csq.state = .idle ∨ s.csq.state = .held →
    t.csq.state = (if t.csq.holds.isEmpty then .idle else .held)) ∧
  (s.csq.state ≠ .idle → s.csq.state ≠ .held → t.csq.state = s.csq.state) ∧
  (t.csq.state = s.csq.state → t.csq.lock = s.csq.lock ∧ t.lms = s.lms) ∧
  (t.csq.state ≠ s.csq.state → t.csq.lock = (if t.csq.holds.isEmpty then .high else .low))

/-- R154, R171: in t the receive queue of the link l stands as it was, or a CONFIG_WRITE at its head has been given the
idle array, as it is where a record has just been staged or an operation has ended (log 25), and has left the queue. -/
abbrev HeadKept (l : Link) (t : State) : Prop :=
  t.lkc.rx = l.rx ∧ t.lkc.holding = l.holding ∨
  ∃ offset data, l.rx = .configWrite offset data :: t.lkc.rx ∧ t.lkc.holding = false ∧
    t.jnc.array = .info offset data

/-- In t the link is l, but for a CONFIG_WRITE at the head of its receive queue that has been given the array. -/
abbrev LinkKept (l : Link) (t : State) : Prop :=
  t.lkc = { l with rx := t.lkc.rx, holding := t.lkc.holding } ∧ HeadKept l t

/-- As `LinkKept`, but for the entries of the transmit queue as well. -/
abbrev LinkKeptButQueue (l : Link) (t : State) : Prop := LinkKept { l with queue := t.lkc.queue } t

/-- In t the coordinator's own claim is as c has it. -/
abbrev ClaimAs (c : Shafts) (t : State) : Prop :=
  t.shc = { c with views := t.shc.views, holdAge := t.shc.holdAge, tallies := t.shc.tallies }

/-- R118, R121: the coordinator back in NONE: no claim is sought. -/
def noClaim (c : Shafts) : Shafts :=
  { c with phase := .idle, claimSerial := none, spacing := none, givenUp := false, lost := false }

/-- R15: the RETURN record of a bag as it is asked for, before its stamp. -/
def returnRequest (r : ReturnReason) (bag : PendingBag) (own : Fin 4) : RecordReq :=
  { kind := .returned, detail := r.code, flags := ExcFlags.empty, shaft := shaftByte own
    serial := bag.serial, account := bag.account, bagType := bag.bagType, mass := bag.mass, fall := 0xFFFF
    binCount := 0 }

/-- R15, R150, R152: from s to t the bag, with this pending record, has been returned for a reason, which it
keeps. While the staging queue has a place: PRESENT with the lock released and the RETURN record staged (unless no
sequence number is left, R149). While 8 records are staged: the record is the deferred request, and the sequencer
waits in its state for it to be staged. -/
abbrev Returned (r : ReturnReason) (bag : PendingBag) (s t : State) : Prop :=
  t.csq.bag = { bag with reason := some r } ∧
  (s.jnc.staging.length < 8 ∨ s.jnc.seqCounter = 0xFFFFFFFF →
    t.csq.state = .present ∧ t.csq.lock = .high ∧ t.csq.returnWait = false ∧
    t.jnc.deferred = s.jnc.deferred ∧
    t.jnc.staging = s.jnc.staging ++
      (if s.jnc.seqCounter = 0xFFFFFFFF then []
       else [generalRecord s 3 r.code (shaftByte s.straps.shf) bag.serial bag.account bag.bagType bag.mass 0xFFFF])) ∧
  (8 ≤ s.jnc.staging.length → s.jnc.seqCounter ≠ 0xFFFFFFFF →
    t.csq.state = s.csq.state ∧ t.csq.lock = s.csq.lock ∧ t.csq.returnWait = true ∧
    t.jnc = { s.jnc with deferred := some (returnRequest r bag s.straps.shf) })

/-- R149, R154, R156: in t the journal controller is j, but for records staged since, each of which has taken a sequence
number, and, where the array was idle, an operation it has been given, with the write pointer moved on to the slot that
is offered. -/
abbrev JournalKept (j : Journal) (t : State) : Prop :=
  t.jnc = { j with
    staging := t.jnc.staging, seqCounter := t.jnc.seqCounter, writePtr := t.jnc.writePtr, array := t.jnc.array } ∧
  t.jnc.seqCounter.toNat + j.staging.length = j.seqCounter.toNat + t.jnc.staging.length ∧
  (j.array ≠ .idle → t.jnc.writePtr = j.writePtr ∧ t.jnc.array = j.array)

/-- R15, R17: what a return from CLAIM leaves beside what `Returned` says: the claim's timers are stopped and nothing is
awaited, and the rest of the sequencer and, where the RETURN record is not deferred, of the journal controller stays. The
first argument is the hold reason set but for what a staging judges. -/
abbrev ReturnFrame (holds : HoldSet) (s t : State) : Prop :=
  t.csq = { s.csq with
    state := t.csq.state, lock := t.csq.lock, holds := t.csq.holds, bag := t.csq.bag
    returnWait := t.csq.returnWait, claimWait := none, retry := none, awaiting := none } ∧
  SameHoldsButJournal holds t.csq.holds ∧
  (s.jnc.staging.length < 8 ∨ s.jnc.seqCounter = 0xFFFFFFFF → JournalKept s.jnc t)

/-- R22, R21: the DEPOSIT record of a bag as it is asked for, before its stamp. -/
def depositRequest (bag : PendingBag) (binCount : Nat) (own : Fin 4) : RecordReq :=
  { kind := .deposit, detail := 0, flags := bag.flags, shaft := shaftByte own, serial := bag.serial
    account := bag.account, bagType := bag.bagType, mass := bag.mass, fall := bag.fall
    binCount := BitVec.ofNat 16 binCount }

/-- R149, Table 11-4: the DEPOSIT record of a bag as it is stamped in this state, with CLOCK_FREE and NIGHT_PARTIAL of
the moment. -/
def depositStamped (s : State) (bag : PendingBag) (binCount : Nat) : Record :=
  { generalRecord s 2 0 (shaftByte s.straps.shf) bag.serial bag.account bag.bagType bag.mass bag.fall with
    flags := ({ bag.flags with
      clockFree := !s.nck.synced, nightPartial := !s.nls.closeSinceStart } : ExcFlags).toByte
    binCount := BitVec.ofNat 16 binCount }

/-- R33: the samples of a window lie within the stability limit of each other. -/
abbrev StableWindow (limit : Nat) (w : List W16) : Prop :=
  ∀ x ∈ w, ∀ y ∈ w, (x.toNat : Int) - (y.toNat : Int) ≤ (limit : Int)

/-- R33: the window sum. -/
abbrev sumOf (w : List W16) : Int := (w.map (fun x => (x.toNat : Int))).sum

/-- R33, R37, R38: what the window of a weighing gives: the net mass in g, capped at 9999 with its over-range
indication, and UNSTABLE for a window that is not stable. -/
abbrev WeighsAs (s : State) (w : List W16) (mass : Nat) (overRange unstable : Bool) : Prop :=
  let n : Int := sumOf w - s.wch.t16
  let quotient : Int := (n * s.cfg.scaleK + 131072) / 262144
  (n ≤ 0 → mass = 0 ∧ overRange = false) ∧
  (0 < n → quotient ≤ 9999 → (mass : Int) = quotient ∧ overRange = false) ∧
  (0 < n → 9999 < quotient → mass = 9999 ∧ overRange = true) ∧
  (unstable = true ↔ ¬ StableWindow s.cfg.stability w)

/-- R116: a withdraw condition of the own claim stands: the own view HELD by another station or JAMMED, or the own
bin full. -/
abbrev WithdrawStands (s : State) : Prop :=
  (∃ h, ownView s = .held h ∧ h ≠ s.straps.adr) ∨ ownView s = .jammed ∨ ownFull s = true

/-- R67: the forward cycle of line states, ENA then ENB: 00, 10, 11, 01. -/
abbrev encCycle : List EncPair := [⟨false, false⟩, ⟨true, false⟩, ⟨true, true⟩, ⟨false, true⟩]

/-- R67: the sample q follows p in the forward cycle. -/
abbrev ForwardStep (p q : EncPair) : Prop :=
  ∃ i : Fin 4, encCycle[i.val]? = some p ∧ encCycle[(i.val + 1) % 4]? = some q

/-- R72: from r to q MRUN has been driven inactive: a run that was active has ended, with the dead time of 10 ms started
and its direction kept as the last run direction; an inactive line changes nothing. -/
abbrev RunEnded (r q : Rotor) : Prop :=
  (r.mrun = .high → q.mrun = .low ∧ q.deadTime = some 10 ∧
    q.lastDir = some (if r.mdir = .high then .fwd else .rev)) ∧
  (r.mrun ≠ .high → q.mrun = r.mrun ∧ q.deadTime = r.deadTime ∧ q.lastDir = r.lastDir)

/-- R72, R77: from r to q a stop request has been taken: the mode STOPPED and MRUN inactive. MDIR, the count, the
reference, the maximum reached, the drop time and the home switch filter stay. -/
abbrev MotorStopped (r q : Rotor) : Prop :=
  q = { r with mode := .stopped, mrun := q.mrun, deadTime := q.deadTime, lastDir := q.lastDir } ∧ RunEnded r q

/-- R72, R76: from r to q a home request has been taken: with the home switch ACTIVE the move is over at once; otherwise
the mode is REVERSE with MDIR low and MRUN active, or inactive while a forward run's dead time goes on. -/
abbrev HomeAsked (r q : Rotor) : Prop :=
  (r.homeActive = true → q = { r with mode := .stopped }) ∧
  (r.homeActive = false → q = { r with
    mode := .reverse, mdir := .low
    mrun := if r.deadTime ≠ none ∧ r.lastDir = some .fwd then .low else .high })

/-- R104: in transmit order the entry stands before every other of the queue. -/
abbrev FirstInOrder (e : TxEntry) (q : List TxEntry) : Prop :=
  e ∈ q ∧ ∀ f ∈ q, e.content.kindCode.toNat < f.content.kindCode.toNat ∨
    (e.content.kindCode = f.content.kindCode ∧ e.age ≤ f.age)

/-- R105: the candidate for replacement: the youngest among the entries of the highest kind code, the entry in
transmission not considered. -/
abbrev LeastUrgent (e : TxEntry) (l : Link) : Prop :=
  e ∈ l.queue ∧ some e.age ≠ l.inTx ∧ ∀ f ∈ l.queue, some f.age ≠ l.inTx →
    f.content.kindCode.toNat < e.content.kindCode.toNat ∨
      (f.content.kindCode = e.content.kindCode ∧ f.age ≤ e.age)

/-- R104, R105: from l to m a frame has been queued that may join the queue. With a place it stands last in the order
of queuing and, in FREE, is started, unless another start mark has come first (log 7; the settle time shown then is
log 27). At a full queue it takes the place of the candidate, if that is less urgent, and is discarded otherwise; the
drop count rises in either case. -/
abbrev FrameQueued (c : TxFrame) (l m : Link) : Prop :=
  let entry : TxEntry := { content := c, attempts := 0, age := l.nextAge }
  let joined : Link := { l with queue := l.queue ++ [entry], nextAge := l.nextAge + 1 }
  let counted : Link := { l with dropCount := min 255 (l.dropCount + 1) }
  (l.queue.length < 8 → l.phase ≠ .free → m = joined) ∧
  (l.queue.length < 8 → l.phase = .free →
    m = { joined with phase := .receiving, settleTime := 0, reception := .bits [] } ∨
    m = { joined with
      phase := .transmitting, settleTime := 0, reception := .bits [], inTx := some entry.age }) ∧
  (l.queue.length = 8 → ∃ e, LeastUrgent e l ∧
    (c.kindCode.toNat < e.content.kindCode.toNat → m = { counted with
      queue := l.queue.filter (fun f => f.age != e.age) ++ [entry], nextAge := l.nextAge + 1 }) ∧
    (e.content.kindCode.toNat ≤ c.kindCode.toNat → m = counted))

/-- R104, R105: frames queued one after another. -/
def FramesQueued : List TxFrame → Link → Link → Prop
  | [], l, m => m = l
  | c :: rest, l, m => ∃ k, FrameQueued c l k ∧ FramesQueued rest k m

/-- R104, R105: in t a frame has been queued, and a record staged in the same event, at which a CONFIG_WRITE at the head
of the receive queue may have been given the array. -/
abbrev FrameQueuedWithRecord (c : TxFrame) (l : Link) (t : State) : Prop :=
  FrameQueued c l { t.lkc with rx := l.rx, holding := l.holding } ∧ HeadKept l t

/-- R90, R92, R139: from l to m, in the state s, the entry has been started, with a SYNC's fields of the moment and every
other content and all stall attempts as they were; or another start mark has come first (log 7) and the station receives
that frame. The settle time shown then is log 27. -/
abbrev FrameStarted (e : TxEntry) (s : State) (l m : Link) : Prop :=
  m = { l with phase := .receiving, settleTime := 0, reception := .bits [] } ∨
  m = { l with
    phase := .transmitting, settleTime := 0, reception := .bits [], inTx := some e.age
    queue := l.queue.map (fun f => if f.age = e.age then { f with content :=
      match f.content with
      | .sync _ _ _ => .sync s.nck.clock s.nls.night s.nck.synced
      | c => c } else f) }

/-- R89, R90, R92, R118: from s to t the link has become free with this transmit queue and claim phase: it stands in FREE
if nothing is queued; otherwise the first frame in transmit order is started (`FrameStarted`), a CLAIM then SENDING. -/
abbrev LinkFreed (q : List TxEntry) (p : ClaimPhase) (s t : State) : Prop :=
  (q = [] → t.lkc = { s.lkc with queue := [], phase := .free, settleTime := 10 } ∧ t.shc.phase = p ∧
    t.draws = s.draws) ∧
  (q ≠ [] → ∃ e, FirstInOrder e q ∧ FrameStarted e s { s.lkc with queue := q } t.lkc ∧
    t.shc.phase = (if t.lkc.phase = .transmitting ∧ e.content.isClaim = true then .sending else p) ∧
    t.draws = s.draws + 1)

/-- R105, R118: what the queuing of a frame that is no CLAIM does to the own claim: a CLAIM whose place the frame takes
is gone, and the coordinator is back in NONE; otherwise the claim stays. -/
abbrev ClaimAfterQueuing (c : TxFrame) (s t : State) : Prop :=
  (s.lkc.queue.length < 8 → ClaimAs s.shc t) ∧
  (∀ e, s.lkc.queue.length = 8 → LeastUrgent e s.lkc →
    (e.content.isClaim = true ∧ c.kindCode.toNat < e.content.kindCode.toNat → ClaimAs (noClaim s.shc) t) ∧
    (e.content.isClaim = false ∨ e.content.kindCode.toNat ≤ c.kindCode.toNat → ClaimAs s.shc t))

/-- R106: from s to t the queued CLAIM has been removed, if it was in the queue and not in transmission. -/
abbrev ClaimWithdrawn (s t : State) : Prop :=
  (∀ e, s.lkc.queuedClaim = some e → t.lkc.queue = s.lkc.queue.filter (fun f => f.age != e.age)) ∧
  (s.lkc.queuedClaim = none → t.lkc.queue = s.lkc.queue)

/-- R106, R121: from s to t the sequencer has given the claim up: in NONE nothing; DEFERRED, SPACING and QUEUED, whose
CLAIM is withdrawn, return to NONE; a CLAIM that is SENDING goes on to its outcome. -/
abbrev ClaimGivenUp (s t : State) : Prop :=
  (s.shc.phase = .idle → ClaimAs s.shc t ∧ t.lkc.queue = s.lkc.queue) ∧
  (s.shc.phase = .deferred ∨ s.shc.phase = .spacing →
    ClaimAs (noClaim s.shc) t ∧ t.lkc.queue = s.lkc.queue) ∧
  (s.shc.phase = .queued → ClaimAs (noClaim s.shc) t ∧ ClaimWithdrawn s t) ∧
  (s.shc.phase = .sending → ClaimAs { s.shc with givenUp := true } t ∧ t.lkc.queue = s.lkc.queue)

/-- R116, R117: from s to t the own claim has followed a change of the views or the tallies. QUEUED, it is withdrawn
and DEFERRED where the own view has become HELD by another station or JAMMED, or the own bin full. DEFERRED, it goes to
SPACING where the own view is FREE and the own bin not full, and SPACING back to DEFERRED where that is not so. -/
abbrev ClaimFollows (s t : State) : Prop :=
  let clear : Prop := ownView t = .free ∧ ownFull t = false
  let heldByAnother (u : State) : Prop := ∃ h, ownView u = .held h ∧ h ≠ u.straps.adr
  let barred : Prop := (heldByAnother t ∧ ¬ heldByAnother s) ∨
    (ownView t = .jammed ∧ ownView s ≠ .jammed) ∨ (ownFull t = true ∧ ownFull s = false)
  let deferred : Shafts := { s.shc with phase := .deferred, spacing := none, lost := false }
  let spaced : Shafts :=
    { s.shc with phase := .spacing, spacing := some s.cfg.retryInterval, lost := false }
  (s.shc.phase = .idle ∨ s.shc.phase = .sending → ClaimAs s.shc t ∧ t.lkc.queue = s.lkc.queue) ∧
  (s.shc.phase = .queued →
    (¬ barred → ClaimAs s.shc t ∧ t.lkc.queue = s.lkc.queue) ∧
    (barred → ClaimAs deferred t ∧ ClaimWithdrawn s t)) ∧
  (s.shc.phase = .deferred → t.lkc.queue = s.lkc.queue ∧
    (clear → ClaimAs spaced t) ∧ (¬ clear → ClaimAs s.shc t)) ∧
  (s.shc.phase = .spacing → t.lkc.queue = s.lkc.queue ∧
    (clear → ClaimAs s.shc t) ∧ (¬ clear → ClaimAs deferred t))

/-- R17, R104, R105, R115, R117, R118: from s to t the own claim has been asked for. With the own view not FREE or the
own bin full it is deferred. Otherwise CLAIM is queued, with the retry interval as given; one that a full queue
discards is a busy refusal: the coordinator is back in NONE, and in CLAIM the retry interval starts. -/
abbrev ClaimAsked (serial : W32) (retry : Timer) (s t : State) : Prop :=
  let claim : TxFrame := .claim s.straps.shf serial
  let sought (p : ClaimPhase) : Prop := t.csq.retry = retry ∧
    t.shc = { s.shc with phase := p, claimSerial := some serial, spacing := none, lost := t.shc.lost }
  (ownView s ≠ .free ∨ ownFull s = true → sought .deferred ∧ t.lkc = s.lkc) ∧
  (ownView s = .free → ownFull s = false → FrameQueued claim s.lkc t.lkc ∧
    (s.lkc.queue.length < 8 →
      sought (if s.lkc.phase = .free ∧ t.lkc.phase = .transmitting then .sending else .queued)) ∧
    (∀ e, s.lkc.queue.length = 8 → LeastUrgent e s.lkc →
      (claim.kindCode.toNat < e.content.kindCode.toNat → sought .queued) ∧
      (e.content.kindCode.toNat ≤ claim.kindCode.toNat → t.shc = noClaim s.shc ∧
        t.csq.retry =
          if t.csq.state = .claim ∧ s.shc.givenUp = false then some s.cfg.retryInterval else retry)))

/-- R163, R164: from l to m a READ_JOURNAL has been served from the array as it stands: one frame for each of up to 8
records from the requested sequence on, the lowest first, or one of length 0 if there is none. -/
abbrev ReadServed (req : ReadReq) (flash : List Host.Cell) (l m : Link) : Prop :=
  let late := (journalRecords flash).filter (fun r => decide (req.from_.toNat ≤ r.2.seq.toNat))
  (late = [] → FrameQueued (.journal req.source []) l m) ∧
  (late ≠ [] → ∃ sel : List (Nat × Record), sel.Nodup ∧
    sel.Pairwise (fun a b => a.2.seq.toNat ≤ b.2.seq.toNat) ∧ (∀ r ∈ sel, r ∈ late) ∧
    sel.length = min (min 8 (max 1 req.count.toNat)) late.length ∧
    (∀ q ∈ late, q ∉ sel → ∀ r ∈ sel, r.2.seq.toNat ≤ q.2.seq.toNat) ∧
    FramesQueued (sel.map (fun r => .journal req.source (slotBytes flash r.1))) l m)

/-- R8, R11, R154, R163, R164: from s to t an erase or an information-page operation has ended. The array is idle and, in
service, given to what waits: a READ_JOURNAL that waits is served, and the next operation may begin. No record is staged
or written. Of the hold reasons JOURNAL_FULL alone may change, which takes IDLE to HELD or HELD to IDLE; the rest of the
sequencer, the weigh channel, the views, the hold ages and the tallies stay. -/
abbrev ArrayFreed (s t : State) : Prop :=
  t.jnc.staging = s.jnc.staging ∧ t.wch = s.wch ∧
  t.shc.views = s.shc.views ∧ t.shc.holdAge = s.shc.holdAge ∧ t.shc.tallies = s.shc.tallies ∧
  (s.phase ≠ .service →
    t.jnc = { s.jnc with array := .idle } ∧ t.shc = s.shc ∧ t.draws = s.draws ∧ t.lkc = s.lkc) ∧
  (s.phase = .service → JournalKept { s.jnc with array := .idle, pendingRead := none } t) ∧
  (s.phase = .service → s.jnc.pendingRead = none →
    t.shc = s.shc ∧ t.draws = s.draws ∧ LinkKept s.lkc t) ∧
  (∀ req, s.phase = .service → s.jnc.pendingRead = some req → LinkRight s → AgesRight s →
    t.shc = s.shc ∧ t.draws = (if s.lkc.phase = .free then s.draws + 1 else s.draws) ∧
    ReadServed req t.flash s.lkc { t.lkc with rx := s.lkc.rx, holding := s.lkc.holding } ∧ HeadKept s.lkc t) ∧
  SameSequencerBut s.csq t.csq ∧
  t.csq.holds = { s.csq.holds with journalFull := t.csq.holds.journalFull } ∧
  (s.csq.state = .idle ∨ s.csq.state = .held →
    t.csq.state = (if t.csq.holds.isEmpty then .idle else .held)) ∧
  (s.csq.state ≠ .idle → s.csq.state ≠ .held → t.csq.state = s.csq.state) ∧
  (t.csq.state = s.csq.state → t.csq.lock = s.csq.lock ∧ t.lms = s.lms) ∧
  (t.csq.state ≠ s.csq.state → s.phase = .service →
    t.csq.lock = (if t.csq.state = .idle then .high else .low)) ∧
  t = { s with
    csq := t.csq, lkc := t.lkc, shc := t.shc, jnc := t.jnc, lms := t.lms, flash := t.flash, draws := t.draws }

/-- R24, R40, R72, R77, R106, R121, R126: from s to t the sequencer has entered FAULT for a reason: the motor, which stood
as in `drum`, and every timer of the sequencer stopped, the lock engaged, a self-held shaft made FREE with RELEASE(FAULT)
queued, a claim given up, both windows of a CHECK and a tare check abandoned, and a FAULT record asked for, which carries
the bag from CLAIM, TURN and FALL only. -/
abbrev FaultEntered (r : FaultReason) (drum : Rotor) (s t : State) : Prop :=
  let own := s.straps.shf
  let bag : PendingBag :=
    if s.csq.state = .claim ∨ s.csq.state = .turn ∨ s.csq.state = .fall then s.csq.bag else PendingBag.absent
  t.csq = { s.csq with
    state := .fault, lock := .low, hatch := t.csq.hatch, holds := t.csq.holds, claimWait := none
    accepted := none, retry := none, homeLimit := none, turnLimit := none, fallWindow := none
    landingSettle := none, weighed := none, tagEnded := false, returnWait := false, awaiting := none } ∧
  MotorStopped drum t.rct ∧
  RecordAsked (generalRecord s 8 r.code (shaftByte own) bag.serial bag.account bag.bagType bag.mass 0xFFFF) s t ∧
  JournalKept s.jnc t ∧
  (selfHeld s = true → ownView t = .free ∧ t.shc.holdAge.get own = none ∧
    (∀ i, i ≠ own → t.shc.views.get i = s.shc.views.get i ∧ t.shc.holdAge.get i = s.shc.holdAge.get i) ∧
    FrameQueuedWithRecord (.release own .fault) s.lkc t ∧ ClaimAfterQueuing (.release own .fault) s t ∧
    t.draws = (if s.lkc.phase = .free then s.draws + 1 else s.draws)) ∧
  (selfHeld s = false → t.shc.views = s.shc.views ∧ t.shc.holdAge = s.shc.holdAge ∧
    LinkKeptButQueue s.lkc t ∧ t.draws = s.draws ∧
    (s.csq.state = .claim → ClaimGivenUp s t) ∧
    (s.csq.state ≠ .claim → ClaimAs s.shc t ∧ t.lkc.queue = s.lkc.queue)) ∧
  (s.csq.state = .check →
    t.tgi = { s.tgi with windowOpen := false, windowTimer := none, readSet := [], firstRead := none } ∧
    t.wch = { s.wch with activity := .idle, window := [], settle := none }) ∧
  (s.csq.state ≠ .check → t.tgi = s.tgi ∧
    t.wch = { s.wch with
      tareInterval := none
      activity := if s.wch.activity = .tare then .idle else s.wch.activity
      window := if s.wch.activity = .tare then [] else s.wch.window }) ∧
  t.shc.tallies = s.shc.tallies ∧ SameHoldsButJournal s.csq.holds t.csq.holds ∧
  t = { s with
    csq := t.csq, wch := t.wch, tgi := t.tgi, rct := t.rct, lkc := t.lkc, shc := t.shc, jnc := t.jnc
    lms := t.lms, draws := t.draws }

/-- R12, R13: in CHECK the pending bag record holds its absent values until the check order is applied. -/
abbrev BagRight (s : State) : Prop :=
  s.csq.state = .check → s.csq.returnWait = false → s.csq.bag =
    { serial := 0, account := 0, bagType := 0xFF, mass := 0xFFFF, fall := 0xFFFF, flags := ExcFlags.empty
      reason := none }

/-- R13: the bag as the check order finds it: the weighed mass, which stays as it was after a sample gap; the serial,
account and type of the first valid read, which stay as they were where the read set is empty. (`BagRight`: as they were
is absent.) -/
abbrev BagFilled (w : WeighOutcome) (s : State) (bag : PendingBag) : Prop :=
  bag = { s.csq.bag with mass := bag.mass, serial := bag.serial, account := bag.account, bagType := bag.bagType } ∧
  (w = .gap → bag.mass = s.csq.bag.mass) ∧
  (∀ mass overRange unstable, w = .weighed mass overRange unstable → bag.mass = BitVec.ofNat 16 mass) ∧
  (s.tgi.readSet = [] →
    bag.serial = s.csq.bag.serial ∧ bag.account = s.csq.bag.account ∧ bag.bagType = s.csq.bag.bagType) ∧
  (∀ serial rest f, s.tgi.readSet = serial :: rest → s.tgi.firstRead = some f →
    bag.serial = serial ∧ bag.account = f.account ∧ bag.bagType = f.bagType)

/-- R13, R14, R17 (Table 1-3A): from s to t CHECK has ended with this weighing result and the reads of the tag
window: the first rule that applies, on the holds and the night list of s, gives the outcome. A claim asked for while
an earlier one, given up, is still SENDING is a busy refusal (log 18). -/
abbrev CheckJudged (w : WeighOutcome) (s t : State) : Prop :=
  let bag := fillBag s.csq.bag w s.tgi.readSet s.tgi.firstRead
  let returned (r : ReturnReason) : Prop :=
    Returned r bag s t ∧ t.csq.claimWait = none ∧ t.csq.retry = none ∧ t.csq.awaiting = none
  BagFilled w s bag ∧
  t.csq.weighed = none ∧ t.csq.tagEnded = false ∧
  t.csq = { s.csq with
    state := t.csq.state, lock := t.csq.lock, holds := t.csq.holds, bag := t.csq.bag
    weighed := t.csq.weighed, tagEnded := t.csq.tagEnded, returnWait := t.csq.returnWait
    claimWait := t.csq.claimWait, retry := t.csq.retry, awaiting := t.csq.awaiting } ∧
  t.shc.views = s.shc.views ∧ t.shc.tallies = s.shc.tallies ∧
  SameHoldsButJournal s.csq.holds t.csq.holds ∧
  (ArrayRight s → t.csq.claimWait = none → t.shc = s.shc ∧ t.draws = s.draws ∧ LinkKept s.lkc t) ∧
  (ArrayRight s → s.jnc.staging.length < 8 ∨ s.jnc.seqCounter = 0xFFFFFFFF → JournalKept s.jnc t) ∧
  (w = .gap ∨ s.csq.weighSeen = true → returned .weighFault) ∧
  (∀ mass overRange unstable, w = .weighed mass overRange unstable → s.csq.weighSeen = false →
    (mass < s.cfg.emptyThreshold →
      t.csq = { s.csq with
        state := if s.csq.holds.isEmpty then .idle else .held
        lock := if s.csq.holds.isEmpty then .high else .low
        bag := bag, weighed := none, tagEnded := false } ∧ t.jnc = s.jnc ∧ t.shc = s.shc ∧ t.lkc = s.lkc) ∧
    (s.cfg.emptyThreshold ≤ mass →
      (s.csq.holds.isEmpty = false → returned .outOfService) ∧
      (s.csq.holds.isEmpty = true →
        (s.cfg.absoluteMax < mass ∨ overRange = true → returned .overweight) ∧
        (mass ≤ s.cfg.absoluteMax → overRange = false →
          (s.tgi.readSet = [] → returned .noTag) ∧
          (2 ≤ s.tgi.readSet.length → returned .multiTag) ∧
          (∀ serial f, s.tgi.readSet = [serial] → s.tgi.firstRead = some f →
            (7 < f.bagType.toNat → returned .tagType) ∧
            (f.bagType.toNat ≤ 7 → serial ∈ s.nls.entries → returned .duplicate) ∧
            (f.bagType.toNat ≤ 7 → serial ∉ s.nls.entries →
              let band := s.cfg.bands.getD f.bagType.toNat { min := 0, max := 9999 }
              t.csq.state = .claim ∧ t.csq.lock = .low ∧
              t.csq.claimWait = some (s.cfg.claimWait * 1000) ∧ t.csq.awaiting = none ∧
              t.csq.returnWait = s.csq.returnWait ∧
              t.csq.bag = { bag with flags := { ExcFlags.empty with
                massBand := decide (mass < band.min ∨ max band.min band.max < mass)
                unstable := unstable, sealBroken := decide (f.sealValue ≠ 0)
                unchecked := decide (256 ≤ s.nls.entries.length) } } ∧
              t.jnc = s.jnc ∧
              (s.shc.phase = .idle → s.lkc.hasClaim = false → LinkRight s → AgesRight s →
                ClaimAsked serial s.csq.retry s t) ∧
              (s.shc.phase ≠ .idle →
                t.csq.retry = some s.cfg.retryInterval ∧ t.shc = s.shc ∧ t.lkc = s.lkc)))))))

/-- R7, R39, R76: from s to t, with the drum as in `drum` and the hatch shut, HOME has been entered: the home limit runs
and the drum is driven home; with the home switch ACTIVE it is left at once for IDLE or HELD, where the tare interval
starts unless WEIGH is raised. -/
abbrev HomeEntered (drum : Rotor) (s t : State) : Prop :=
  HomeAsked drum t.rct ∧
  (drum.homeActive = false →
    t.csq.state = .home ∧ t.csq.lock = .low ∧ t.csq.homeLimit = some s.cfg.homeLimit) ∧
  (drum.homeActive = true → t.csq.homeLimit = none ∧
    t.csq.state = (if t.csq.holds.isEmpty then .idle else .held) ∧
    t.csq.lock = (if t.csq.holds.isEmpty then .high else .low)) ∧
  t.wch = { s.wch with tareInterval :=
    if drum.homeActive = true ∧ s.csq.holds.weigh = false then some 2000 else none }

/-- R21 to R23, R56, R124, R131, R132, R144, R149, R152: from s to t, with the drum as in `drum`, the landing of the own
bag has been completed: tally, BIN_FULL if it is full, night list, own shaft FREE, DEPOSIT record (deferred while 8 are
staged), LANDED, the accepted lamp for 5 s, HOME. -/
abbrev LandingCompleted (drum : Rotor) (s t : State) : Prop :=
  let own := s.straps.shf
  let tally : Tally :=
    { count := min 65535 ((ownTally s).count + 1)
      mass := min 4294967295 ((ownTally s).mass + s.csq.bag.mass.toNat) }
  let serial := s.csq.bag.serial
  let landed : TxFrame :=
    .landed own serial s.csq.bag.mass (BitVec.ofNat 16 tally.count) (BitVec.ofNat 32 tally.mass)
  t.shc.tallies.get own = tally ∧ ownView t = .free ∧ t.shc.holdAge.get own = none ∧
  (∀ i, i ≠ own → t.shc.tallies.get i = s.shc.tallies.get i ∧ t.shc.views.get i = s.shc.views.get i ∧
    t.shc.holdAge.get i = s.shc.holdAge.get i) ∧
  t.nls = { s.nls with entries :=
    if serial = 0 ∨ serial = 0xFFFFFFFF ∨ serial ∈ s.nls.entries ∨ 256 ≤ s.nls.entries.length then
      s.nls.entries
    else s.nls.entries ++ [serial] } ∧
  (s.jnc.staging.length < 8 ∨ s.jnc.seqCounter = 0xFFFFFFFF → JournalKept s.jnc t ∧
    t.jnc.staging = s.jnc.staging ++
      (if s.jnc.seqCounter = 0xFFFFFFFF then [] else [depositStamped s s.csq.bag tally.count])) ∧
  (8 ≤ s.jnc.staging.length → s.jnc.seqCounter ≠ 0xFFFFFFFF →
    t.jnc = { s.jnc with deferred := some (depositRequest s.csq.bag tally.count own) }) ∧
  FrameQueuedWithRecord landed s.lkc t ∧ ClaimAfterQueuing landed s t ∧
  t.csq = { s.csq with
    state := t.csq.state, lock := t.csq.lock, holds := t.csq.holds, turnLimit := t.csq.turnLimit
    homeLimit := t.csq.homeLimit, landingSettle := none, accepted := some 5000 } ∧
  SameHoldsButJournal { s.csq.holds with binFull := s.csq.holds.binFull || tallyFull s.cfg tally } t.csq.holds ∧
  HomeEntered drum s t ∧
  t = { s with
    csq := t.csq, wch := t.wch, nls := t.nls, rct := t.rct, lkc := t.lkc, shc := t.shc, jnc := t.jnc
    lms := t.lms, draws := if s.lkc.phase = .free then s.draws + 1 else s.draws }

/-- The part is out of reset, and what is judged at the end of a step has been judged. -/
abbrev Runs (s : State) : Prop := s.phase ≠ .inReset ∧ Settled s

end Sys2Proof.Machine
end

