-- ==== Sys2Proof/Certificates/Slice0/Obligations.lean ====
section
/-! DEFINITION. The statements for the provers (OBLIGATIONS.json). Premises such as `Runs`, `LinkRight` and
`ArrayRight` are predicates of Sys2Proof/Safety.lean that every step keeps, which is stated here as well. -/

open Sys2Proof Sys2Proof.Machine

/-! ## The step and the queue -/

/-- A step runs the command at the front of the queue with the queue's rest; on an empty queue the part
idles (log 2, a DESIGN CHOICE). -/
def Obligations.StepRunsFrontCommand : Prop :=
  (∀ (c : Instr) (rest : List Instr) (s : State),
    step { s with pending := c :: rest } = exec c { s with pending := rest }) ∧
  (∀ s : State, s.pending = [] → step s = .next s)

/-- Every command, in every state, answers a next state and leaves the queue to the step. That a command answers,
with nothing changed, also where its event cannot arise is the model's reading (log 1, DEDUCED). -/
def Obligations.EveryCommandCompletes : Prop :=
  ∀ (c : Instr) (s : State), ∃ t, exec c s = .next t ∧ t.pending = s.pending

/-! ## Invariants (Sys2Proof/Safety.lean) -/

/-- The invariants hold right after the power-on reset. Which values State.reset shows is partly the model's choice
(logs 4 to 6, DESIGN CHOICE). -/
def Obligations.InvariantsHoldAtReset : Prop :=
  Settled State.reset ∧ StartRight State.reset ∧ LockRight State.reset ∧ MotorRight State.reset ∧
  SelfHeldRight State.reset ∧ LampsRight State.reset ∧ LinkRight State.reset ∧ AgesRight State.reset ∧
  StagingRight State.reset ∧ ArrayRight State.reset ∧ SequenceRight State.reset ∧
  HoldsRight State.reset ∧ NightListRight State.reset ∧ TalliesRight State.reset ∧
  WeighRight State.reset ∧ RangesRight State.reset ∧ FlashRight State.reset ∧ BagRight State.reset

/-- R8, R11, R26, R39: what is judged at the end of a step stays judged. -/
def Obligations.StepKeepsSettled : Prop :=
  ∀ s t : State, Settled s → step s = .next t → Settled t

/-- R6, R149: START is the state of the start-up sequence, and the staged records carry the sequence
numbers that follow the newest written. -/
def Obligations.StepKeepsSequence : Prop :=
  ∀ s t : State, StartRight s → SequenceRight s → step s = .next t → StartRight t ∧ SequenceRight t

/-- R5, R183, R185, Table 10-2: the lock line and the lamps are what the state gives. -/
def Obligations.StepKeepsLockAndLamps : Prop :=
  (∀ s t : State, LockRight s → step s = .next t → LockRight t) ∧
  (∀ s t : State, LampsRight s → step s = .next t → LampsRight t)

/-- R66, R71: the motor runs forward only in TURN, in reverse only in HOME, and stands otherwise. `StartRight` (R6, an
invariant itself: StepKeepsSequence) shuts out a start-up sequence that ends while the drum already moves. -/
def Obligations.StepKeepsMotor : Prop :=
  ∀ s t : State, StartRight s → MotorRight s → step s = .next t → MotorRight t

/-- R111, R114: the own shaft is self-held only in TURN or FALL. -/
def Obligations.StepKeepsSelfHeld : Prop :=
  ∀ s t : State, SelfHeldRight s → step s = .next t → SelfHeldRight t

/-- R89, R101, R104, R150, R152, R180: the link's queues and the staging queue keep their lengths, at most one
CLAIM is queued, in FREE no frame waits, the queued frames carry ages of their own, and a bag record is deferred
only while the staging queue is full. -/
def Obligations.StepKeepsQueues : Prop :=
  (∀ s t : State, LinkRight s → step s = .next t → LinkRight t) ∧
  (∀ s t : State, AgesRight s → step s = .next t → AgesRight t) ∧
  (∀ s t : State, StagingRight s → step s = .next t → StagingRight t)

/-- R154 to R159, R163: the flash array is never left idle over work it may do, and an operation that begins, by whatever
command, is one that may begin (`OperationRight`): no erase of a protected page, none at WARN, no record into a slot that
is not blank, nothing before what R154 puts first. In service the write pointer moves past a slot only as its record has
been written or as a slot at place 1..31 that is not blank is skipped. -/
def Obligations.StepKeepsArrayAtWork : Prop :=
  (∀ s t : State, ArrayRight s → step s = .next t → ArrayRight t) ∧
  (∀ (c : Instr) (s t : State), exec c s = .next t → OperationBegins c s t → OperationRight t) ∧
  (∀ (c : Instr) (s t : State), exec c s = .next t → s.phase = .service → t.phase = .service →
    s.jnc.writePtr < 512 →
    let from_ : Nat :=
      if c = .programCompletion ∧ s.jnc.array = .program ∧ s.jnc.staging ≠ [] then (s.jnc.writePtr + 1) % 512
      else s.jnc.writePtr
    ∃ k, t.jnc.writePtr = (from_ + k) % 512 ∧
      ∀ m, m < k → (from_ + m) % 32 ≠ 0 ∧ slotBlank t.flash (from_ + m) = false)

/-- R27, R132, R153, R160: POWER, JOURNAL_BUSY, JOURNAL_FULL, BIN_FULL and JAM stand with their conditions, and
before service JOURNAL_BUSY is clear. -/
def Obligations.StepKeepsHoldReasons : Prop :=
  ∀ s t : State, StartRight s → FlashRight s → HoldsRight s → step s = .next t → HoldsRight t

/-- R55, R131, Tables 2-1, 3-1, 4-4, 5-1 and 8-1: the night list, the bin tallies, the weigh channel's values and the
other counts and buffers keep their bounds. That the message buffer of the tag assembler holds fewer than the 12 bytes
which Table 3-1 allows is the model's choice (log 41, DESIGN CHOICE). -/
def Obligations.StepKeepsCountsAndLists : Prop :=
  (∀ s t : State, NightListRight s → TalliesRight s → step s = .next t → NightListRight t ∧ TalliesRight t) ∧
  (∀ s t : State, WeighRight s → RangesRight s → step s = .next t → WeighRight t ∧ RangesRight t)

/-- The flash array keeps its canonical form (addresses rising and inside the array, no erased byte
listed): two arrays that read alike are equal. With it the write pointer and the page being erased stay inside
the journal. -/
def Obligations.StepKeepsFlashForm : Prop :=
  ∀ s t : State, FlashRight s → step s = .next t → FlashRight t

/-! ## Rules of the whole part -/

/-- R10, R11, R58, R161: while the part runs the night number and the audit mark never fall, a close once taken
stays taken, ADDRESS_CLASH stays raised and UNCONFIGURED as it is. -/
def Obligations.WhatOnlyAStartUndoes : Prop :=
  (∀ (c : Instr) (s t : State), exec c s = .next t → s.phase = .service → t.phase = .service →
    s.nls.night.toNat ≤ t.nls.night.toNat ∧ s.jnc.auditMark.toNat ≤ t.jnc.auditMark.toNat ∧
    (s.nls.closeSinceStart = true → t.nls.closeSinceStart = true)) ∧
  (∀ (c : Instr) (s t : State), exec c s = .next t → s.phase = .service → t.phase = .service →
    (s.csq.holds.addressClash = true → t.csq.holds.addressClash = true) ∧
    t.csq.holds.unconfigured = s.csq.holds.unconfigured)

/-- R145, R155, R157, R159, R171: out of reset the flash array changes only as an operation of it completes. Entering
reset keeps an idle array, and changes no byte but those of the operation that it cuts off: a record leaves its slot
not blank, and complete if every byte left out reads FFh; each slot of a page in erase reads blank, void or as
before. How far an operation had gone is free (logs 8 to 10). -/
def Obligations.FlashChangesAtCompletionsOnly : Prop :=
  (∀ (c : Instr) (s t : State), exec c s = .next t → t.phase ≠ .inReset →
    c ≠ .programCompletion → c ≠ .eraseCompletion → c ≠ .infoCompletion → t.flash = s.flash) ∧
  (∀ (c : Instr) (s t : State), c = .rstLow ∨ c = .supplyCut ∨ c = .powerLoss → exec c s = .next t → s.phase ≠ .inReset →
    t.phase = .inReset → FlashRight s →
    let slotAt := 32 * s.jnc.writePtr
    (s.jnc.array = .idle → t.flash = s.flash) ∧
    (∀ r rest, s.jnc.array = .program → s.jnc.staging = r :: rest → ∃ n,
      (∀ k, k < 32 → flashRead t.flash (slotAt + k) =
        if k < n then flashRead s.flash (slotAt + k) &&& byteAt r.toBytes k else flashRead s.flash (slotAt + k)) ∧
      slotBlank t.flash s.jnc.writePtr = false ∧
      (slotBlank s.flash s.jnc.writePtr = true → (∀ k, n ≤ k → k < 32 → byteAt r.toBytes k = 0xFF) →
        slotBytes t.flash s.jnc.writePtr = r.toBytes) ∧
      (∀ a, a < slotAt ∨ slotAt + 32 ≤ a → flashRead t.flash a = flashRead s.flash a)) ∧
    (∀ page, s.jnc.array = .erase page →
      (∀ i, i < 32 → slotBlank t.flash (32 * page + i) = true ∨
        voidBytes (slotBytes t.flash (32 * page + i)) = true ∨
        slotBytes t.flash (32 * page + i) = slotBytes s.flash (32 * page + i)) ∧
      (∀ a, a < 1024 * page ∨ 1024 * page + 1024 ≤ a → flashRead t.flash a = flashRead s.flash a)) ∧
    (∀ offset data, s.jnc.array = .info offset data →
      (∀ a, a < 16384 ∨ 17408 ≤ a → flashRead t.flash a = flashRead s.flash a) ∧
      (offset ≠ 0 → ∀ a, a < 16384 + offset.toNat ∨ 16384 + 73 < a ∨
        16384 + offset.toNat + data.length ≤ a → flashRead t.flash a = flashRead s.flash a)))

/-- R29, R46, R66, R78, R85, R135, R146, R181: in reset the blocks take nothing; only a start, the reset pin
and the supply monitor change anything. -/
def Obligations.NothingIsTakenInReset : Prop :=
  ∀ (c : Instr) (s : State), s.phase = .inReset → (∀ lines, c ≠ .start lines) →
    c ≠ .rstLow → c ≠ .rstHigh → c ≠ .supplyWarn → c ≠ .supplyCut → c ≠ .powerLoss →
    c ≠ .supplyRise → c ≠ .supplyDip → c ≠ .supplyRecoveryExpiry → exec c s = .next s

/-! ## Start, reset and supply -/

/-- R112, R175 to R177, R181, R183 with the "after every start" tables: START begins a start when the part is in
reset, RST is high and the level is NORMAL; it fixes the kind, reads the straps and sets every field of every block.
Otherwise nothing happens. The operand is what the lines read (log 12). What the spec sets at the end of the scan only
(Table 9-4, R112: night number and list, the journal's counters and write pointer, views, tallies and claim) shows
the values of an empty journal until then: the model's choice (log 39, DESIGN CHOICE). -/
def Obligations.StartSetsEveryBlock : Prop :=
  ∀ (l : StartLines) (s : State),
    (¬(s.phase = .inReset ∧ s.rstLow = false ∧ s.supply.level = .normal) → exec (.start l) s = .next s) ∧
    (s.phase = .inReset → s.rstLow = false → s.supply.level = .normal →
      let good : Prop := 1 ≤ l.adr.toNat ∧ l.adr.toNat ≤ 8
      let line : OutLine := if good then .low else .released
      ∃ t, exec (.start l) s = .next t ∧
        t.phase = (if good then .scanning else .badAddress) ∧
        t.startKind = (if s.supply.powerLoss then .powerOn
          else if s.supply.cutSinceStart then .supplyCut else .resetPin) ∧
        t.supply = { s.supply with powerLoss := false, cutSinceStart := false } ∧
        t.straps = { adr := l.adr, shf := l.shf, srv := l.srv } ∧
        t.flash = s.flash ∧ t.draws = s.draws ∧ t.rstLow = false ∧
        t.csq = { state := .start
                  holds := { HoldSet.empty with
                    zero := true, unconfigured := !configGood (flashBytes s.flash 16384 74) }
                  bag := PendingBag.absent
                  claimWait := none, accepted := none, retry := none, homeLimit := none, turnLimit := none
                  fallWindow := none, landingSettle := none, weighSeen := false, hatch := .closed
                  lock := line, weighed := none, tagEnded := false, returnWait := false
                  awaiting := none } ∧
        t.wch = { heldByte := none, window := [], t16 := t.cfg.tareReference, gap := some 20
                  recovery := none, snapPending := true, goodRun := 0, badRun := 0
                  tareInterval := none, settle := none, activity := .idle, windowNumber := 1 } ∧
        t.tgi = { phase := .hunt, buffer := [], byteGap := none, windowOpen := false, windowTimer := none
                  readSet := [], firstRead := none } ∧
        t.rct = { mode := .stopped, count := 0, underflow := false, encRef := l.enc, maxReached := 0
                  dropTime := none, homeActive := false, lastDir := none, deadTime := none
                  mrun := line, mdir := line } ∧
        t.ldi = { beamActive := l.beamBroken, taking := false, capture := none, buffer := none, count := 0 } ∧
        t.lkc = { phase := .off, settleTime := 0, reception := .absent, queue := [], inTx := none
                  nextAge := 0, rx := [], holding := false, dropCount := 0 } ∧
        t.shc = { views := { x0 := .free, x1 := .free, x2 := .free, x3 := .free }
                  holdAge := { x0 := none, x1 := none, x2 := none, x3 := none }
                  tallies := { x0 := { count := 0, mass := 0 }, x1 := { count := 0, mass := 0 }
                               x2 := { count := 0, mass := 0 }, x3 := { count := 0, mass := 0 } }
                  phase := .idle, claimSerial := none, spacing := none, givenUp := false, lost := false } ∧
        t.nck = { clock := 0, synced := false, syncTimer := none } ∧
        t.jnc = { seqCounter := 0, newest := 0, writePtr := 0, auditMark := 0, staging := [], deferred := none
                  startHold := [], pendingRead := none, array := .idle } ∧
        t.nls = { entries := [], night := 0, closeSinceStart := false } ∧
        t.lms = { modes := { ready := .off, wait := if good then .flash else .off, close := .off
                             accepted := .off, returned := .off, service := if good then .off else .flash }
                  fullHalf := { ready := false, wait := decide good, close := false, accepted := false
                                returned := false, service := !decide good }
                  halfTimer := { ready := none, wait := if good then some 500 else none, close := none
                                 accepted := none, returned := none
                                 service := if good then none else some 500 }
                  readyTimer := none, row := some .lr0, rowTimer := some 3
                  columns := { lc0 := .off, lc1 := .full, lc2 := .off } })

/-- R168, R169, Table 9-1: START loads the defaults where the configuration record is blank or bad and raises
UNCONFIGURED, and otherwise each field of the record, clamped to its range, without a record; only a start
changes the configured values and the straps as read (R167), and a power loss, which leaves none of them (R173; the
values shown after it are those of State.reset, log 6). -/
def Obligations.StartLoadsConfiguration : Prop :=
  (∀ (l : StartLines) (s t : State), s.phase = .inReset → s.rstLow = false → s.supply.level = .normal →
    exec (.start l) s = .next t →
    let r := flashBytes s.flash 16384 74
    let clamp (lo hi v : Nat) : Nat := if v < lo then lo else if hi < v then hi else v
    (configGood r = true ↔ (∃ b ∈ r, b ≠ 0xFF) ∧ crc16 (r.take 72) = byteAt r 72 ++ byteAt r 73) ∧
    t.csq.holds.unconfigured = !configGood r ∧ t.jnc.staging = [] ∧ t.jnc.startHold = [] ∧
    (configGood r = false → t.cfg =
      { linkRate := 1, syncPeriod := 1000, holdLimit := 8000, claimWait := 30, retryInterval := 200
        fallWindow := 1500, turnLimit := 3000, homeLimit := 3000, dropTarget := 400, reverseSlack := 8
        scaleK := 16384, stability := 12, settleTime := 300, emptyThreshold := 20, absoluteMax := 6000
        zeroTrack := 160, tagWindow := 1500, binCountLimit := 400, binMassLimit := 250, eraseTime := 5
        tareReference := 0, bands := List.replicate 8 { min := 0, max := 9999 } }) ∧
    (configGood r = true →
      t.cfg.linkRate = clamp 0 2 (num8 r 0) ∧ t.cfg.syncPeriod = clamp 250 10000 (num16 r 1) ∧
      t.cfg.holdLimit = clamp 2000 30000 (num16 r 3) ∧ t.cfg.claimWait = clamp 5 120 (num8 r 5) ∧
      t.cfg.retryInterval = clamp 50 2000 (num16 r 6) ∧ t.cfg.fallWindow = clamp 200 5000 (num16 r 8) ∧
      t.cfg.turnLimit = clamp 500 10000 (num16 r 10) ∧ t.cfg.homeLimit = clamp 500 10000 (num16 r 12) ∧
      t.cfg.dropTarget = clamp 100 4000 (num16 r 14) ∧ t.cfg.reverseSlack = clamp 2 100 (num8 r 16) ∧
      t.cfg.scaleK = clamp 1 65535 (num16 r 17) ∧ t.cfg.stability = clamp 1 1000 (num16 r 19) ∧
      t.cfg.settleTime = clamp 50 2000 (num16 r 21) ∧ t.cfg.emptyThreshold = clamp 1 500 (num16 r 23) ∧
      t.cfg.absoluteMax = clamp 500 9999 (num16 r 25) ∧ t.cfg.zeroTrack = clamp 16 4096 (num16 r 27) ∧
      t.cfg.tagWindow = clamp 200 5000 (num16 r 29) ∧ t.cfg.binCountLimit = clamp 1 2000 (num16 r 31) ∧
      t.cfg.binMassLimit = clamp 1 2000 (num16 r 33) ∧ t.cfg.eraseTime = clamp 2 10 (num8 r 35) ∧
      t.cfg.tareReference = clamp 0 1048560 (num32 r 36) ∧ t.cfg.bands.length = 8 ∧
      ∀ k : Fin 8, t.cfg.bands[k.val]? =
        some { min := clamp 0 9999 (num16 r (40 + 4 * k.val)), max := clamp 0 9999 (num16 r (42 + 4 * k.val)) })) ∧
  (∀ (c : Instr) (s t : State), exec c s = .next t → (∀ lines, c ≠ .start lines) → c ≠ .powerLoss →
    t.cfg = s.cfg ∧ t.straps = s.straps)

/-- R64, R112, R166, R178, R179: SCAN_COMPLETE rebuilds the values of Table 9-4 from the valid records of the journal
(the sequence, the write pointer, the night, the audit mark, AUDIT, the own view with JAM, the own tally with
BIN_FULL, the night list, JOURNAL_FULL), stages the START record, joins the link and enters HOME; a hatch that is open
then is a forced hatch (R26; before a home switch that is active, log 15, DEDUCED). The pointer is followed as far as
void slots were skipped for the START record (R156). For the tally every DEPOSIT record counts, whatever its shaft
field, and an absent mass adds 0 (log 26, DEDUCED); that without a CLEAR of the own bin in the journal all of them count is
the model's choice (log 43, DESIGN CHOICE). -/
def Obligations.ScanRestoresAndJoins : Prop :=
  ∀ s : State, s.phase = .scanning → StartRight s → ArrayRight s → s.nck.synced = false →
    let slots := journalRecords s.flash
    let rs := slots.map (·.2)
    let own := s.straps.shf
    let clearOf (target : Byte) (r : Record) : Bool :=
      r.kind == 6 && r.detail == target && r.shaft == shaftByte own
    let since := rs.filter (fun r => r.kind == 2 &&
      rs.all (fun c => !clearOf 2 c || decide (c.seq.toNat < r.seq.toNat)))
    ∃ t, exec .scanComplete s = .next t ∧ t.phase = .service ∧
      t = { s with
        phase := t.phase, csq := t.csq, wch := t.wch, nls := t.nls, rct := t.rct, ldi := t.ldi, lkc := t.lkc
        shc := t.shc, nck := t.nck, jnc := t.jnc, lms := t.lms, draws := t.draws } ∧
      (slots = [] → t.jnc.newest = 0 ∧ t.nls.night = 0 ∧ t.jnc.writePtr = 0) ∧
      (slots ≠ [] → ∃ p ∈ slots, (∀ q ∈ slots, q.2.seq.toNat ≤ p.2.seq.toNat) ∧
        t.jnc.newest = p.2.seq ∧ t.nls.night = p.2.night ∧
        ∃ k, t.jnc.writePtr = (p.1 + 1 + k) % 512 ∧
          ∀ m, m < k → (p.1 + 1 + m) % 32 ≠ 0 ∧ slotBlank s.flash (p.1 + 1 + m) = false) ∧
      ((∀ q ∈ rs, q.kind ≠ 10) → t.jnc.auditMark = 0) ∧
      ((∃ q ∈ rs, q.kind = 10) → ∃ r ∈ rs, r.kind = 10 ∧
        (∀ q ∈ rs, q.kind = 10 → q.seq.toNat ≤ r.seq.toNat) ∧ t.jnc.auditMark = r.serial) ∧
      ((∀ q ∈ rs, q.kind ≠ 11) → t.csq.holds.audit = false) ∧
      ((∃ q ∈ rs, q.kind = 11) → ∃ r ∈ rs, r.kind = 11 ∧
        (∀ q ∈ rs, q.kind = 11 → q.seq.toNat ≤ r.seq.toNat) ∧ t.csq.holds.audit = (r.detail == 1)) ∧
      (t.csq.holds.jam = true ↔ ∃ j ∈ rs, j.kind = 5 ∧ j.shaft = shaftByte own ∧
        ∀ c ∈ rs, clearOf 1 c = true → c.seq.toNat < j.seq.toNat) ∧
      ownView t = (if t.csq.holds.jam then .jammed else .free) ∧ t.shc.holdAge.get own = none ∧
      (since = [] → (ownTally t).count = 0) ∧
      (since ≠ [] → ∃ d ∈ since, (∀ q ∈ since, q.seq.toNat ≤ d.seq.toNat) ∧
        (ownTally t).count = d.binCount.toNat) ∧
      (ownTally t).mass = min 4294967295
        (since.map (fun r => if flagsNotLanded r.flags || r.mass == 0xFFFF then 0 else r.mass.toNat)).sum ∧
      t.csq.holds.binFull = (s.csq.holds.binFull || tallyFull s.cfg (ownTally t)) ∧
      (∀ k, k ≠ own → t.shc.views.get k = s.shc.views.get k ∧
        t.shc.holdAge.get k = s.shc.holdAge.get k ∧ t.shc.tallies.get k = s.shc.tallies.get k) ∧
      t.nls.closeSinceStart = false ∧
      (∃ deposits : List Record, deposits.Pairwise (fun a b => a.seq.toNat ≤ b.seq.toNat) ∧
        deposits.Perm (rs.filter (fun r =>
          r.kind == 2 && r.night == t.nls.night && !flagsNotLanded r.flags)) ∧
        t.nls.entries = deposits.foldl (fun acc r =>
          if r.serial = 0 ∨ r.serial = 0xFFFFFFFF ∨ r.serial ∈ acc ∨ 256 ≤ acc.length then acc
          else acc ++ [r.serial]) []) ∧
      t.csq.holds.journalFull =
        (decide (freeSlots s.flash t.jnc.writePtr < 8) || t.jnc.seqCounter == 0xFFFFFFFF) ∧
      (t.jnc.newest ≠ 0xFFFFFFFF → ∃ rest, t.jnc.staging =
        { generalRecord s 1 s.startKind.code (shaftByte own) 0 0 0xFF 0xFFFF 0xFFFF with
            seq := t.jnc.newest + 1, night := t.nls.night } :: rest ∧
        (s.jnc.startHold = [] → s.csq.hatch = .closed → rest = [])) ∧
      t.jnc.startHold = [] ∧ t.ldi.taking = true ∧
      LinkKept { s.lkc with phase := .settling, settleTime := 0 } t ∧ ClaimAs s.shc t ∧ t.draws = s.draws ∧
      t.nck.syncTimer = some (3 * s.cfg.syncPeriod + (s.straps.adr.toNat - 1) * 20) ∧
      (s.csq.hatch = .closed → s.rct.homeActive = false →
        t.csq.state = .home ∧ t.csq.homeLimit = some s.cfg.homeLimit ∧ t.rct.mode = .reverse ∧
        t.rct.mdir = .low) ∧
      (s.csq.hatch = .closed → s.rct.homeActive = true → t.rct.mode = .stopped ∧
        t.csq.state = (if t.csq.holds.isEmpty then .idle else .held)) ∧
      (s.csq.hatch = .opened → t.csq.state = .fault ∧ t.rct.mode = .stopped)

/-- R110, R159, R175, R176: RST low holds the part in reset with every output released and the blocks' state
lost; an idle flash array keeps its contents. RST high changes nothing else. -/
def Obligations.ResetPin : Prop :=
  ∀ s : State,
    (∃ t, exec .rstLow s = .next t ∧ t.rstLow = true ∧ t.phase = .inReset ∧ t.supply = s.supply ∧
      (s.phase ≠ .inReset →
        t.csq.lock = .released ∧ t.rct.mrun = .released ∧ t.rct.mdir = .released ∧
        t.lms.row = none ∧ t.lms.columns = { lc0 := .released, lc1 := .released, lc2 := .released } ∧
        t.lkc.phase = .off ∧ t.lkc.queue = [] ∧ t.lkc.rx = [] ∧ t.lkc.holding = false ∧
        t.jnc.staging = [] ∧ t.jnc.deferred = none ∧ t.jnc.pendingRead = none ∧ t.jnc.array = .idle ∧
        (s.jnc.array = .idle → t.flash = s.flash)) ∧
      (s.phase = .inReset → t = { s with rstLow := true })) ∧
    exec .rstHigh s = .next { s with rstLow := false }

/-- R173, R175: POWER_LOSS sets the power-loss indication and leaves nothing of the part but the contents of the flash
array: the part is as in State.reset (logs 4 and 6, DESIGN CHOICE), the flash operation abandoned (log 29, DEDUCED,
for this reading of R173 and for the cut-since-start indication). In WARN and CUT a rise above the warning level
starts the 50 ms recovery timer and a dip stops it; its expiry in CUT gives NORMAL; CUT sets the
cut-since-start indication and holds the part in reset with its outputs released. -/
def Obligations.SupplyMonitor : Prop :=
  ∀ s : State,
    (∃ t, exec .powerLoss s = .next t ∧ t.supply.powerLoss = true ∧ t.supply.level = .cut ∧
      t = { State.reset with rstLow := s.rstLow, flash := t.flash, draws := t.draws, pending := s.pending } ∧
      (s.phase = .inReset ∨ s.jnc.array = .idle → t.flash = s.flash)) ∧
    (s.supply.level ≠ .normal →
      exec .supplyRise s = .next { s with supply := { s.supply with recovery := some 50 } }) ∧
    (s.supply.level = .normal → exec .supplyRise s = .next s) ∧
    exec .supplyDip s = .next { s with supply := { s.supply with recovery := none } } ∧
    (s.supply.level = .cut → s.supply.recovery ≠ none → exec .supplyRecoveryExpiry s =
      .next { s with supply := { s.supply with level := .normal, recovery := none } }) ∧
    (s.supply.level ≠ .cut → ∃ t, exec .supplyCut s = .next t ∧ t.phase = .inReset ∧
      t.supply = { s.supply with level := .cut, recovery := none, cutSinceStart := true } ∧
      (s.phase ≠ .inReset →
        t.csq.lock = .released ∧ t.rct.mrun = .released ∧ t.rct.mdir = .released ∧
        t.lms.row = none ∧ t.lkc.phase = .off ∧ t.lkc.holding = false ∧ t.jnc.staging = [] ∧
        (s.jnc.array = .idle → t.flash = s.flash)))

/-- R8, R11, R27, R174, R180: outside CLAIM the change to WARN raises POWER, asks for a POWER(WARN) record (held
during start-up) and takes IDLE to HELD; the recovery at WARN clears POWER and asks for POWER(RESTORED) (held during
start-up), and a HELD whose set is empty becomes IDLE; the rest of the sequencer, the weigh channel and, but for the
record and the array, the journal controller stay. That a part stopped on a bad address takes the supply levels as in
START is log 28 (DEDUCED); that a CONFIG_WRITE at the head of the receive queue may be given the array at the staging of
the record is log 25 (DEDUCED). -/
def Obligations.SupplyWarnAndRecovery : Prop :=
  (∀ s : State, Runs s → ArrayRight s → s.supply.level = .normal → s.csq.state ≠ .claim →
    (s.phase = .service → ∃ t, exec .supplyWarn s = .next t ∧
      t.supply = { s.supply with level := .warn, recovery := none } ∧ t.csq.holds.power = true ∧
      RecordAsked (plainRecord s 9 1) s t ∧
      t.csq.state = (if s.csq.state = .idle then .held else s.csq.state) ∧ StateByHolds s t ∧
      t = { s with supply := t.supply, csq := t.csq, jnc := t.jnc, lkc := t.lkc, lms := t.lms } ∧
      SameSequencerBut s.csq t.csq ∧ SameHoldsButJournal { s.csq.holds with power := true } t.csq.holds ∧
      JournalKept s.jnc t ∧
      LinkKept s.lkc t) ∧
    (s.phase ≠ .service → s.csq.state = .start → exec .supplyWarn s =
      .next { s with
        supply := { s.supply with level := .warn, recovery := none }
        csq := { s.csq with holds := { s.csq.holds with power := true } }
        jnc := { s.jnc with startHold :=
          if s.jnc.startHold.length < 6 then
            s.jnc.startHold ++ [{ RecordReq.blank .power s.straps.shf with detail := 1 }]
          else s.jnc.startHold } })) ∧
  (∀ s : State, Runs s → s.supply.level = .warn → s.supply.recovery ≠ none →
    (s.phase = .service → ∃ t, exec .supplyRecoveryExpiry s = .next t ∧
      t.supply = { s.supply with level := .normal, recovery := none } ∧ t.csq.holds.power = false ∧
      RecordAsked (plainRecord s 9 2) s t ∧
      StateByHolds s t ∧
      t = { s with
        supply := t.supply, csq := t.csq, jnc := t.jnc, lkc := t.lkc, shc := t.shc, lms := t.lms
        draws := t.draws } ∧
      SameSequencerBut s.csq t.csq ∧ SameHoldsButJournal { s.csq.holds with power := false } t.csq.holds ∧
      t.shc.views = s.shc.views ∧ t.shc.holdAge = s.shc.holdAge ∧ t.shc.tallies = s.shc.tallies ∧
      (ArrayRight s →
        t.shc = s.shc ∧ t.draws = s.draws ∧ JournalKept s.jnc t ∧ LinkKept s.lkc t)) ∧
    (s.phase ≠ .service → s.csq.state = .start → exec .supplyRecoveryExpiry s =
      .next { s with
        supply := { s.supply with level := .normal, recovery := none }
        csq := { s.csq with holds := { s.csq.holds with power := false } }
        jnc := { s.jnc with startHold :=
          if s.jnc.startHold.length < 6 then
            s.jnc.startHold ++ [{ RecordReq.blank .power s.straps.shf with detail := 2 }]
          else s.jnc.startHold } }))

/-! ## The hatch and faults -/

/-- R8, R16, R26 (Table 1-6): a hatch opening in IDLE or PRESENT enters OPEN with the lock engaged and CLOSE lit;
in START, OPEN and FAULT it changes the filtered hatch state only. -/
def Obligations.HatchOpening : Prop :=
  ∀ s : State, Runs s → s.csq.hatch = .closed →
    (s.phase = .service → s.csq.state = .idle ∨ s.csq.state = .present →
      ∃ t, exec .hatchOpening s = .next t ∧
        t = { s with
          csq := { s.csq with state := .opened, hatch := .opened, lock := .low }
          wch := t.wch, lms := t.lms } ∧
        t.wch = { s.wch with
          tareInterval := none
          activity := if s.wch.activity = .tare then .idle else s.wch.activity
          window := if s.wch.activity = .tare then [] else s.wch.window } ∧
        t.lms.modes =
          { ready := .off, wait := .off, close := .full
            accepted := if s.csq.accepted = none then .off else .full, returned := .off, service := .off } ∧
        t.lms.readyTimer = none) ∧
    (s.csq.state = .start ∨ s.csq.state = .opened ∨ s.csq.state = .fault →
      exec .hatchOpening s = .next { s with csq := { s.csq with hatch := .opened } })

/-- R24, R26, R40, R72, R77, R105, R106, R121, R126: the entry to FAULT (`FaultEntered`) by a forced hatch, a turn or home
limit, or an encoder error: the motor and every timer of the sequencer stop, a run that was active starting the dead
time, the lock is engaged, a self-held shaft is made FREE and RELEASE(FAULT) queued for it (at a full queue as R105
says), a claim is given up and its queued CLAIM removed, both windows of a CHECK and a tare check are abandoned, and a
FAULT record is asked for, which carries the bag from CLAIM, TURN and FALL only. The bag, the tallies, the night list, the
clock, the count and the rest of the rotor counter stay, and so does the rest of the transmit queue. A CONFIG_WRITE at
the head of the receive queue may be given the array at the staging (log 25, DEDUCED). -/
def Obligations.FaultEntry : Prop :=
  ∀ (c : Instr) (r : FaultReason) (s : State), Runs s → s.phase = .service → LinkRight s → AgesRight s →
    ArrayRight s →
    (c = .hatchOpening ∧ s.csq.hatch = .closed ∧ s.csq.state.locked = true ∧ r = .hatchForced ∨
      c = .turnLimitExpiry ∧ s.csq.state = .turn ∧ s.csq.turnLimit ≠ none ∧ r = .rotorStuck ∨
      c = .homeLimitExpiry ∧ s.csq.state = .home ∧ s.csq.homeLimit ≠ none ∧ r = .homeLimit ∨
      c = .invalidTransition ∧ s.rct.mode ≠ .stopped ∧
        (s.csq.state = .turn ∨ s.csq.state = .fall ∨ s.csq.state = .home) ∧ r = .encoder) →
    let drum : Rotor := { s.rct with encRef :=
      if c = .invalidTransition then { ena := !s.rct.encRef.ena, enb := !s.rct.encRef.enb } else s.rct.encRef }
    ∃ t, exec c s = .next t ∧ FaultEntered r drum s t ∧
      t.csq.hatch = (if c = .hatchOpening then .opened else s.csq.hatch)

/-- R12, R34, R51: a hatch closing in OPEN enters CHECK with the lock engaged, the bag record absent, the
weighing begun (or ended with a sample gap while WEIGH is raised) and the tag window open. Elsewhere only the
filtered hatch state changes. -/
def Obligations.HatchClosing : Prop :=
  ∀ s : State, Runs s → s.csq.hatch = .opened →
    (s.phase = .service → s.csq.state = .opened → ∃ t, exec .hatchClosing s = .next t ∧
      t = { s with
        csq := { s.csq with
          state := .check, lock := .low, hatch := .closed, bag := PendingBag.absent
          weighSeen := s.csq.holds.weigh
          weighed := if s.csq.holds.weigh then some .gap else none, tagEnded := false }
        wch := { s.wch with
          activity := if s.csq.holds.weigh then .idle else .settle, window := []
          settle := if s.csq.holds.weigh then none else some s.cfg.settleTime }
        tgi := { s.tgi with
          windowOpen := true, windowTimer := some s.cfg.tagWindow, readSet := [], firstRead := none }
        lms := t.lms } ∧
      t.lms.modes =
        { ready := .off, wait := .full, close := .off
          accepted := if s.csq.accepted = none then .off else .full, returned := .off, service := .off }) ∧
    (s.csq.state = .start ∨ s.csq.state = .present ∨ s.csq.state = .fault →
      exec .hatchClosing s = .next { s with csq := { s.csq with hatch := .closed } })

/-! ## The weigh channel -/

/-- R30, R32, R33, R34: the assembly of a sample from two bytes, and what a sample taken does short of the
16th of a window. That a part stopped on a bad address takes them as well is log 28 (DEDUCED). -/
def Obligations.WeighBytes : Prop :=
  ∀ (b : Byte) (late : Bool) (s : State), Runs s →
    exec (.weighByteReceived b true late) s = .next { s with wch := { s.wch with heldByte := none } } ∧
    (s.wch.heldByte = none ∨ late = true → exec (.weighByteReceived b false late) s =
      .next { s with wch := { s.wch with heldByte := some b } }) ∧
    (∀ first, s.wch.heldByte = some first →
      let recovery : Timer :=
        if s.csq.holds.weigh = true ∧ s.wch.recovery = none then some 1000 else s.wch.recovery
      (s.wch.activity = .idle ∨ s.wch.activity = .settle → exec (.weighByteReceived b false false) s =
        .next { s with wch := { s.wch with heldByte := none, gap := some 20, recovery := recovery } }) ∧
      (s.wch.activity = .weighing ∨ s.wch.activity = .tare → s.wch.window.length < 15 →
        exec (.weighByteReceived b false false) s = .next { s with wch := { s.wch with
          heldByte := none, gap := some 20, recovery := recovery
          window := s.wch.window ++ [first ++ b] } }))

/-- R33, R35, R37, R38: the 16th sample of a CHECK window. A stable window, or the fourth, ends the weighing
with the net mass, its over-range and its UNSTABLE indication; another unstable one is set aside. -/
def Obligations.WeighingWindow : Prop :=
  ∀ (b first : Byte) (s : State), Runs s → s.wch.heldByte = some first → s.wch.activity = .weighing →
    s.wch.window.length = 15 → s.csq.tagEnded = false →
    let w := s.wch.window ++ [first ++ b]
    let recovery : Timer :=
      if s.csq.holds.weigh = true ∧ s.wch.recovery = none then some 1000 else s.wch.recovery
    (StableWindow s.cfg.stability w ∨ 4 ≤ s.wch.windowNumber →
      ∃ (mass : Nat) (overRange unstable : Bool), WeighsAs s w mass overRange unstable ∧
        exec (.weighByteReceived b false false) s = .next { s with
          wch := { s.wch with
            heldByte := none, gap := some 20, recovery := recovery, window := [], activity := .idle
            settle := none }
          csq := { s.csq with weighed := some (.weighed mass overRange unstable) } }) ∧
    (¬ StableWindow s.cfg.stability w → s.wch.windowNumber < 4 →
      exec (.weighByteReceived b false false) s = .next { s with wch := { s.wch with
        heldByte := none, gap := some 20, recovery := recovery, window := []
        windowNumber := s.wch.windowNumber + 1 } })

/-- R39 to R44: the 16th sample of a tare window. A good check moves T16 to the sum (snap) or by an eighth of the
difference, truncated toward zero; a bad one leaves it. The third good check in a row clears ZERO; the third bad one
raises it, with a FAULT(ZERO_DRIFT) record. Nothing else of the weigh channel changes but the assembler and the gap
timer that the sample itself changes, and the tare interval restarts for 2 s; of the journal controller nothing but
what the staging of that record changes. That a CONFIG_WRITE at the head of the receive queue may be given the array at
that staging is log 25 (DEDUCED). -/
def Obligations.TareCheck : Prop :=
  ∀ (b first : Byte) (s : State), Runs s → s.phase = .service → ArrayRight s →
    s.wch.heldByte = some first → s.wch.activity = .tare → s.wch.window.length = 15 →
    let w := s.wch.window ++ [first ++ b]
    let d : Int := sumOf w - s.wch.t16
    let limit : Int := if s.wch.snapPending then 4 * s.cfg.zeroTrack else s.cfg.zeroTrack
    let good : Prop := StableWindow s.cfg.stability w ∧ -limit ≤ d ∧ d ≤ limit
    ∃ t, exec (.weighByteReceived b false false) s = .next t ∧
      t = { s with wch := t.wch, csq := t.csq, jnc := t.jnc, lkc := t.lkc, lms := t.lms } ∧
      t.wch = { s.wch with
        heldByte := none, window := [], gap := some 20, activity := .idle, tareInterval := some 2000
        t16 := t.wch.t16, snapPending := t.wch.snapPending, goodRun := t.wch.goodRun
        badRun := t.wch.badRun } ∧
      SameSequencerBut s.csq t.csq ∧
      LinkKept s.lkc t ∧
      SameHoldsButJournal { s.csq.holds with zero := t.csq.holds.zero } t.csq.holds ∧
      t.csq.state = (if t.csq.holds.isEmpty then .idle else .held) ∧ StateByHolds s t ∧
      (good → (t.wch.t16 : Int) = (if s.wch.snapPending then sumOf w else s.wch.t16 + Int.tdiv d 8) ∧
        t.wch.snapPending = false ∧ t.wch.goodRun = min 3 (s.wch.goodRun + 1) ∧ t.wch.badRun = 0 ∧
        t.csq.holds = { s.csq.holds with zero := if s.wch.goodRun = 2 then false else s.csq.holds.zero } ∧
        t.jnc = s.jnc ∧ t.lkc = s.lkc) ∧
      (¬ good → t.wch.t16 = s.wch.t16 ∧ t.wch.snapPending = s.wch.snapPending ∧ t.wch.goodRun = 0 ∧
        t.wch.badRun = min 3 (s.wch.badRun + 1) ∧
        t.csq.holds.zero = (if s.wch.badRun = 2 then true else s.csq.holds.zero) ∧
        (s.wch.badRun = 2 → s.csq.holds.zero = false →
          RecordAsked (plainRecord s 8 6) s t ∧ JournalKept s.jnc t) ∧
        (s.wch.badRun ≠ 2 ∨ s.csq.holds.zero = true →
          t.csq.holds = s.csq.holds ∧ t.jnc = s.jnc ∧ t.lkc = s.lkc))

/-- R31, R32, R34, R36, R39, R40: the channel's timers. A sample gap raises WEIGH, stops the recovery timer, empties the
window and ends a weighing as a sample gap; a sample taken restarts the gap timer and, while WEIGH is raised, starts a
stopped recovery timer for 1 s, whatever the activity; the expiry of the recovery timer clears WEIGH, which may take HELD
to IDLE and lets the tare interval start, and changes nothing else; the settle timer begins window 1; the tare interval
begins a tare window, and none begins while WEIGH is raised. -/
def Obligations.WeighTimers : Prop :=
  ∀ s : State, Runs s → s.phase ≠ .badAddress →
    (s.wch.gap ≠ none → s.csq.tagEnded = false →
      let weighing : Prop := s.wch.activity = .settle ∨ s.wch.activity = .weighing
      ∃ t, exec .sampleGapExpiry s = .next t ∧
        t = { s with
          wch := { s.wch with
            gap := none, recovery := none, window := [], settle := none, activity := .idle
            tareInterval := none }
          csq := { s.csq with
            holds := { s.csq.holds with weigh := true }
            weighSeen := s.csq.weighSeen || (s.csq.state == .check)
            weighed := if weighing then some .gap else s.csq.weighed
            state := if s.csq.state = .idle then .held else s.csq.state
            lock := if s.csq.state = .idle then .low else s.csq.lock }
          lms := t.lms }) ∧
    (s.wch.gap ≠ none → ∃ t, exec .sampleGapExpiry s = .next t ∧
      t.wch = { s.wch with
        gap := none, recovery := none, window := [], settle := none, activity := .idle, tareInterval := none } ∧
      t.csq.holds.weigh = true) ∧
    (∀ (b first : Byte), s.wch.heldByte = some first → ∃ t,
      exec (.weighByteReceived b false false) s = .next t ∧ t.wch.gap = some 20 ∧
      t.wch.recovery =
        if s.csq.holds.weigh = true ∧ s.wch.recovery = none then some 1000 else s.wch.recovery) ∧
    (s.wch.recovery ≠ none → ∃ t, exec .weighRecoveryExpiry s = .next t ∧
      t = { s with wch := t.wch, csq := t.csq, lms := t.lms } ∧
      t.wch = { s.wch with
        recovery := none
        tareInterval :=
          if s.csq.holds.weigh = true ∧ (s.csq.state = .idle ∨ s.csq.state = .held) ∧
              s.csq.hatch = .closed ∧ s.rct.homeActive = true then some 2000
          else s.wch.tareInterval } ∧
      SameSequencerBut s.csq t.csq ∧ t.csq.holds = { s.csq.holds with weigh := false } ∧
      (s.csq.state = .held → t.csq.state = (if t.csq.holds.isEmpty then .idle else .held)) ∧
      (s.csq.state ≠ .held → t.csq.state = s.csq.state) ∧
      (t.csq.state = s.csq.state → t.csq.lock = s.csq.lock ∧ t.lms = s.lms) ∧
      (t.csq.state ≠ s.csq.state → t.csq.lock = .high)) ∧
    (s.csq.holds.weigh = true → exec .tareIntervalExpiry s = .next s) ∧
    (s.wch.settle ≠ none → s.wch.activity = .settle → exec .settleTimerExpiry s =
      .next { s with wch := { s.wch with
        settle := none, activity := .weighing, window := [], windowNumber := 1 } }) ∧
    (s.wch.tareInterval ≠ none → exec .tareIntervalExpiry s =
      .next { s with wch := { s.wch with tareInterval := none, activity := .tare, window := [] } })

/-! ## The tag input and the check order -/

/-- R47 to R50, R52: the assembly of a tag message byte by byte, and its judgement at the twelfth byte. That the buffer
is empty in HUNT after a complete message is the model's choice (log 41, DESIGN CHOICE); that a part stopped on a bad
address takes the bytes as well is log 28 (DEDUCED). -/
def Obligations.TagBytes : Prop :=
  (∀ (b : Byte) (s : State), Runs s →
    let hunt : TagInput := { s.tgi with phase := .hunt, buffer := [], byteGap := none }
    (s.tgi.phase = .hunt →
      exec (.tagByteReceived b true) s = .next s ∧
      (b ≠ 0x3C → exec (.tagByteReceived b false) s = .next s) ∧
      (b = 0x3C → exec (.tagByteReceived b false) s = .next { s with tgi :=
        { s.tgi with phase := .collect, buffer := [], byteGap := some 5 } })) ∧
    (s.tgi.phase = .collect →
      exec (.tagByteReceived b true) s = .next { s with tgi := hunt } ∧
      (s.tgi.buffer.length < 11 → exec (.tagByteReceived b false) s = .next { s with tgi :=
        { s.tgi with buffer := s.tgi.buffer ++ [b], byteGap := some 5 } })) ∧
    (s.tgi.byteGap ≠ none → exec .byteGapExpiry s = .next { s with tgi := hunt })) ∧
  (∀ (b0 b1 b2 b3 b4 b5 b6 b7 b8 b9 b10 b11 : Byte) (s : State), Runs s → s.tgi.phase = .collect →
    s.tgi.buffer = [b0, b1, b2, b3, b4, b5, b6, b7, b8, b9, b10] →
    let serial : W32 := b0 ++ b1 ++ b2 ++ b3
    let valid : Prop := crc16 [b0, b1, b2, b3, b4, b5, b6, b7, b8, b9] = b10 ++ b11 ∧
      serial ≠ 0 ∧ serial ≠ 0xFFFFFFFF
    let hunt : TagInput := { s.tgi with phase := .hunt, buffer := [], byteGap := none }
    (¬ valid ∨ s.tgi.windowOpen = false → exec (.tagByteReceived b11 false) s = .next { s with tgi := hunt }) ∧
    (valid → s.tgi.windowOpen = true →
      (s.tgi.readSet = [] → exec (.tagByteReceived b11 false) s = .next { s with tgi := { hunt with
        readSet := [serial]
        firstRead := some { account := b4 ++ b5 ++ b6 ++ b7, bagType := b8, sealValue := b9 } } }) ∧
      (∀ x, s.tgi.readSet = [x] → x ≠ serial → exec (.tagByteReceived b11 false) s = .next { s with tgi :=
        { hunt with readSet := [x, serial] } }) ∧
      (s.tgi.readSet = [serial] ∨ s.tgi.readSet.length = 2 →
        exec (.tagByteReceived b11 false) s = .next { s with tgi := hunt })))

/-- R12 to R15, R17, R51, R152 (Table 1-3A): the end of CHECK at the expiry of the tag window, rule by rule
(`CheckJudged`) on the bag as R13 fills it (`BagFilled`), whose values every step keeps absent until then (`BagRight`):
the returns, with a place in the staging queue or with the record deferred, the empty drum, and the claim. A tag window
that ends before the weighing only closes. The busy refusal of a claim asked for while an earlier one is SENDING is log
18, and that a CONFIG_WRITE at the head of the receive queue may be given the array at a staging log 25 (DEDUCED both). -/
def Obligations.CheckOrder : Prop :=
  (∀ (w : WeighOutcome) (s : State), Runs s → s.phase = .service → s.csq.state = .check →
    s.tgi.windowTimer ≠ none → s.csq.weighed = some w →
    ∃ t, exec .tagWindowExpiry s = .next t ∧ CheckJudged w s t ∧
      t = { s with
        csq := t.csq, wch := { s.wch with tareInterval := t.wch.tareInterval }
        tgi := { s.tgi with windowOpen := false, windowTimer := none }
        lkc := t.lkc, shc := t.shc, jnc := t.jnc, lms := t.lms, draws := t.draws }) ∧
  (∀ s : State, Runs s → s.tgi.windowTimer ≠ none → s.csq.weighed = none →
    exec .tagWindowExpiry s = .next { s with
      tgi := { s.tgi with windowOpen := false, windowTimer := none }
      csq := { s.csq with tagEnded := true } }) ∧
  (∀ s t : State, BagRight s → step s = .next t → BagRight t)

/-- R12 to R15, R17, R31, R35 to R38, R152 (Table 1-3A): the end of CHECK by the weighing, after the tag window has
ended: the 16th sample of a stable window or of the fourth gives the mass, and the check order is applied to it
(`CheckJudged`, on the bag as R13 fills it, `BagFilled`); another unstable window is set aside. The sample gap ends the
weighing too, and the bag is returned with WEIGH_FAULT. The busy refusal of a claim asked for while an earlier one is
SENDING is log 18, and that a CONFIG_WRITE at the head of the receive queue may be given the array at a staging log 25
(DEDUCED both). -/
def Obligations.WeighingEndsTheCheck : Prop :=
  (∀ (b first : Byte) (s : State), Runs s → s.phase = .service → s.csq.state = .check →
    s.csq.tagEnded = true → s.wch.heldByte = some first → s.wch.activity = .weighing →
    s.wch.window.length = 15 →
    let w := s.wch.window ++ [first ++ b]
    let recovery : Timer :=
      if s.csq.holds.weigh = true ∧ s.wch.recovery = none then some 1000 else s.wch.recovery
    (StableWindow s.cfg.stability w ∨ 4 ≤ s.wch.windowNumber →
      ∃ (mass : Nat) (overRange unstable : Bool) (t : State), WeighsAs s w mass overRange unstable ∧
        exec (.weighByteReceived b false false) s = .next t ∧
        CheckJudged (.weighed mass overRange unstable) s t ∧
        t = { s with
          csq := t.csq
          wch := { s.wch with
            heldByte := none, gap := some 20, recovery := recovery, window := [], activity := .idle
            settle := none, tareInterval := t.wch.tareInterval }
          lkc := t.lkc, shc := t.shc, jnc := t.jnc, lms := t.lms, draws := t.draws }) ∧
    (¬ StableWindow s.cfg.stability w → s.wch.windowNumber < 4 →
      exec (.weighByteReceived b false false) s = .next { s with wch := { s.wch with
        heldByte := none, gap := some 20, recovery := recovery, window := []
        windowNumber := s.wch.windowNumber + 1 } })) ∧
  (∀ s : State, Runs s → s.phase = .service → s.csq.state = .check → s.csq.tagEnded = true →
    s.wch.gap ≠ none → s.wch.activity = .settle ∨ s.wch.activity = .weighing →
    let bag := fillBag s.csq.bag .gap s.tgi.readSet s.tgi.firstRead
    ∃ t, exec .sampleGapExpiry s = .next t ∧
      BagFilled .gap s bag ∧ Returned .weighFault bag s t ∧
      t.csq = { s.csq with
        state := t.csq.state, lock := t.csq.lock, holds := t.csq.holds, bag := t.csq.bag, weighSeen := true
        weighed := none, tagEnded := false, returnWait := t.csq.returnWait, claimWait := none, retry := none
        awaiting := none } ∧
      (ArrayRight s → s.jnc.staging.length < 8 ∨ s.jnc.seqCounter = 0xFFFFFFFF → JournalKept s.jnc t) ∧
      SameHoldsButJournal { s.csq.holds with weigh := true } t.csq.holds ∧
      t.shc.views = s.shc.views ∧ t.shc.tallies = s.shc.tallies ∧
      (ArrayRight s → t.shc = s.shc ∧ t.draws = s.draws ∧ LinkKept s.lkc t) ∧
      t = { s with
        csq := t.csq
        wch := { s.wch with
          gap := none, recovery := none, window := [], settle := none, activity := .idle
          tareInterval := none }
        lkc := t.lkc, shc := t.shc, jnc := t.jnc, lms := t.lms, draws := t.draws })

/-! ## The drum and the landing -/

/-- R67 to R69: in STOPPED and REVERSE a step of the encoder moves the position by one count, an equal sample moves
nothing, and in STOPPED an invalid transition only becomes the reference. That the command carries the sample of both
lines is log 30 (DEDUCED), and that a part stopped on a bad address counts as well log 28 (DEDUCED). -/
def Obligations.EncoderCounts : Prop :=
  ∀ (p : EncPair) (s : State), Runs s → s.rct.mode = .stopped ∨ s.rct.mode = .reverse →
    (p = s.rct.encRef → exec (.encoderStep p) s = .next s) ∧
    (ForwardStep s.rct.encRef p → ∃ r : Rotor,
      exec (.encoderStep p) s = .next { s with rct := r } ∧
      r = { s.rct with encRef := p, count := r.count, underflow := r.underflow } ∧
      (s.rct.count = 0xFFFF → s.rct.underflow = false → r.position = 0) ∧
      (s.rct.count ≠ 0xFFFF ∨ s.rct.underflow = true → r.position = s.rct.position + 1)) ∧
    (ForwardStep p s.rct.encRef → ∃ r : Rotor,
      exec (.encoderStep p) s = .next { s with rct := r } ∧
      r = { s.rct with encRef := p, count := r.count, underflow := r.underflow } ∧
      (s.rct.count = 0 → s.rct.underflow = true → r.position = -1) ∧
      (s.rct.count ≠ 0 ∨ s.rct.underflow = false → r.position = s.rct.position - 1)) ∧
    (s.rct.mode = .stopped → exec .invalidTransition s = .next { s with rct := { s.rct with
      encRef := { ena := !s.rct.encRef.ena, enb := !s.rct.encRef.enb } } })

/-- R20 to R22, R66, R67, R69, R74, R75: the steps of the encoder in FORWARD and WATCH. A step moves the position by
one count and a forward one may raise the maximum reached. In TURN the step, of either direction, that brings the
position to the drop target stops the motor, captures the clock and enters FALL: with the fall window, if no landing
has been taken; without it, while the landing settle time runs; and with the landing completed at once, if it has
ended (`LandingCompleted`); its record is deferred while 8 are staged (R152). A reverse step below 0 or below the
maximum reached minus the slack is FAULT(REVERSE) before all else (`FaultEntered`). At the staging of a record a
CONFIG_WRITE at the head of the receive queue may be given the array (log 25, DEDUCED). -/
def Obligations.TurnSteps : Prop :=
  ∀ (p : EncPair) (s : State), Runs s → s.phase = .service → s.rct.mode = .forward ∨ s.rct.mode = .watch →
    let ref := s.rct.encRef
    let slack : Int := s.cfg.reverseSlack
    let up : Int := if s.rct.count = 0xFFFF ∧ s.rct.underflow = false then 0 else s.rct.position + 1
    let down : Int := if s.rct.count = 0 then -1 else s.rct.position - 1
    let travels : Prop := (s.rct.count = 0 ∧ s.rct.underflow = false) ∨ down < s.rct.maxReached - slack
    let meets (x : Int) : Prop := s.rct.mode = .forward ∧ x = s.cfg.dropTarget
    (ForwardStep ref p → ¬ meets up → ∃ r : Rotor, exec (.encoderStep p) s = .next { s with rct := r } ∧
      r = { s.rct with
        encRef := p, count := s.rct.count + 1, underflow := r.underflow
        maxReached := max s.rct.maxReached up } ∧ r.position = up) ∧
    (ForwardStep p ref → ¬ travels → ¬ meets down →
      ∃ r : Rotor, exec (.encoderStep p) s = .next { s with rct := r } ∧
        r = { s.rct with encRef := p, count := s.rct.count - 1, underflow := r.underflow } ∧
        r.position = down) ∧
    ((ForwardStep ref p ∧ meets up) ∨ (ForwardStep p ref ∧ ¬ travels ∧ meets down) →
      s.csq.state = .turn →
      let stopped (drum : Rotor) : Prop :=
        drum = { s.rct with
          encRef := p, count := drum.count, underflow := drum.underflow
          maxReached :=
            if ForwardStep ref p then max s.rct.maxReached s.cfg.dropTarget else s.rct.maxReached
          dropTime := some s.nck.clock, mode := .watch, mrun := drum.mrun, deadTime := drum.deadTime
          lastDir := drum.lastDir } ∧
        drum.position = s.cfg.dropTarget ∧ RunEnded s.rct drum
      let falls (t : State) : Prop :=
        stopped t.rct ∧ t = { s with rct := t.rct, csq := t.csq, lms := t.lms }
      (s.ldi.count = 0 → ∃ t, exec (.encoderStep p) s = .next t ∧ falls t ∧
        t.csq = { s.csq with
          state := .fall, lock := .low, turnLimit := none, fallWindow := some s.cfg.fallWindow }) ∧
      (s.ldi.count ≠ 0 → s.csq.landingSettle ≠ none → ∃ t, exec (.encoderStep p) s = .next t ∧ falls t ∧
        t.csq = { s.csq with state := .fall, lock := .low, turnLimit := none }) ∧
      (s.ldi.count ≠ 0 → s.csq.landingSettle = none → LinkRight s → AgesRight s → ArrayRight s →
        ∃ t drum, exec (.encoderStep p) s = .next t ∧ stopped drum ∧ LandingCompleted drum s t ∧
          t.csq.turnLimit = none)) ∧
    (ForwardStep p ref → travels → s.csq.state = .turn ∨ s.csq.state = .fall →
      ∃ t, exec (.encoderStep p) s = .next t ∧ t.csq.state = .fault ∧ t.rct.mode = .stopped ∧
        t.rct.mrun ≠ .high ∧ t.rct.position = down ∧
        (LinkRight s → AgesRight s → ArrayRight s → ∃ drum : Rotor,
          drum = { s.rct with encRef := p, count := s.rct.count - 1, underflow := drum.underflow } ∧
          drum.position = down ∧ FaultEntered .reverse drum s t ∧ t.csq.hatch = s.csq.hatch) ∧
        RecordAsked (generalRecord s 8 3 (shaftByte s.straps.shf)
          s.csq.bag.serial s.csq.bag.account s.csq.bag.bagType s.csq.bag.mass 0xFFFF) s t ∧
        t.shc.tallies = s.shc.tallies ∧ t.csq.bag = s.csq.bag ∧
        t = { s with
          csq := t.csq, rct := t.rct, lkc := t.lkc, shc := t.shc, jnc := t.jnc, wch := t.wch
          lms := t.lms, draws := t.draws })

/-- R7, R70 to R72, R76: the home switch presets the count; in HOME it ends the homing move in IDLE or HELD: MRUN goes
inactive, which starts the dead time if it was active, and MDIR, the encoder reference, the maximum reached and the drop
time stay. Its release changes the filter and the tare eligibility, and the dead time lets a waiting move start. That a
part stopped on a bad address follows the switch and the dead time as well is log 28 (DEDUCED). -/
def Obligations.HomeSwitchAndDeadTime : Prop :=
  ∀ s : State, Runs s →
    (s.phase = .service → s.rct.homeActive = false → s.rct.mode = .reverse → s.csq.state = .home →
      ∃ t, exec .homeSwitchActive s = .next t ∧
        t = { s with
          rct := t.rct, csq := t.csq, lms := t.lms
          wch := { s.wch with tareInterval := if s.csq.holds.weigh then none else some 2000 } } ∧
        t.rct.position = 0 ∧ MotorStopped { s.rct with count := 0, underflow := false, homeActive := true } t.rct ∧
        t.csq = { s.csq with
          homeLimit := none
          state := if s.csq.holds.isEmpty then .idle else .held
          lock := if s.csq.holds.isEmpty then .high else .low }) ∧
    (s.rct.homeActive = false → s.rct.mode ≠ .reverse → exec .homeSwitchActive s = .next { s with
      rct := { s.rct with count := 0, underflow := false, homeActive := true }
      wch := { s.wch with tareInterval :=
        if (s.csq.state = .idle ∨ s.csq.state = .held) ∧ s.csq.hatch = .closed ∧
            s.csq.holds.weigh = false then some 2000
        else none } }) ∧
    exec .homeSwitchInactive s = .next { s with
      rct := { s.rct with homeActive := false }
      wch := { s.wch with
        tareInterval := none
        activity := if s.wch.activity = .tare then .idle else s.wch.activity
        window := if s.wch.activity = .tare then [] else s.wch.window } } ∧
    (s.rct.deadTime ≠ none → exec .deadTimeExpiry s = .next { s with rct := { s.rct with
      deadTime := none
      mrun := if s.rct.mrun = .low ∧ (s.rct.mode = .forward ∨ s.rct.mode = .reverse) then .high
        else s.rct.mrun } })

/-- R79 to R83, R20, R21, R149 to R151: landing events by the view of the own shaft: not taken, another holder's, the
first and the further ones of the own bag, and unclaimed ones, which are staged or coalesced. That an event is
coalesced also while the sequence counter stands at FFFFFFFFh is the model's choice (log 40, DESIGN CHOICE). At a
staging a CONFIG_WRITE at the head of the receive queue may be given the array (log 25, DEDUCED). -/
def Obligations.LandingEvents : Prop :=
  (∀ s : State, Runs s →
    exec .beamClear s = .next { s with ldi := { s.ldi with beamActive := false } } ∧
    (s.ldi.beamActive = false → s.ldi.taking = false →
      exec .landingEvent s = .next { s with ldi := { s.ldi with beamActive := true } }) ∧
    (s.ldi.beamActive = false → s.ldi.taking = true →
      let ldi : Landing := { s.ldi with
        beamActive := true, capture := some s.nck.clock, buffer := s.ldi.capture }
      let counted : Landing := { ldi with count := min 255 (s.ldi.count + 1) }
      (∀ h, ownView s = .held h → h ≠ s.straps.adr → exec .landingEvent s = .next { s with ldi := ldi }) ∧
      (selfHeld s = true → s.csq.state = .turn ∨ s.csq.state = .fall →
        (s.ldi.count = 0 → exec .landingEvent s = .next { s with
          ldi := counted
          csq := { s.csq with
            bag := { s.csq.bag with fall :=
              match s.rct.dropTime with
              | none => 0
              | some d => BitVec.ofNat 16 (min 65534 (s.nck.clock - d).toNat) }
            fallWindow := none, landingSettle := some 200 } }) ∧
        (s.ldi.count ≠ 0 → s.csq.landingSettle ≠ none → exec .landingEvent s = .next { s with
          ldi := counted
          csq := { s.csq with bag := { s.csq.bag with
            flags := { s.csq.bag.flags with multiLanding := true } } } }) ∧
        (s.ldi.count ≠ 0 → s.csq.landingSettle = none →
          exec .landingEvent s = .next { s with ldi := counted })))) ∧
  (∀ s : State, Runs s → s.phase = .service → s.ldi.beamActive = false → s.ldi.taking = true →
    ownView s = .free ∨ ownView s = .jammed →
    let interval : W16 :=
      match s.ldi.capture with
      | none => 0xFFFF
      | some p => BitVec.ofNat 16 (min 65534 (s.nck.clock - p).toNat)
    ∃ t, exec .landingEvent s = .next t ∧
      t.ldi = { s.ldi with beamActive := true, capture := some s.nck.clock, buffer := s.ldi.capture } ∧
      t = { s with ldi := t.ldi, csq := t.csq, jnc := t.jnc, lkc := t.lkc, shc := t.shc, lms := t.lms
                   wch := t.wch, draws := t.draws } ∧
      t.shc.views = s.shc.views ∧ t.shc.tallies = s.shc.tallies ∧ t.csq.bag = s.csq.bag ∧
      SameHoldsButJournal s.csq.holds t.csq.holds ∧
      (ArrayRight s → t.shc = s.shc ∧ t.draws = s.draws ∧ LinkKept s.lkc t) ∧
      (∀ init r, s.jnc.staging = init ++ [r] → r.kind = 4 → r.shaft = shaftByte s.straps.shf →
        ¬(s.jnc.array = .program ∧ init = []) →
        t.jnc = { s.jnc with staging :=
          init ++ [{ r with detail := if r.detail = 0xFF then 0xFF else r.detail + 1 }] }) ∧
      ((s.jnc.staging = [] ∨ (s.jnc.array = .program ∧ s.jnc.staging.length = 1) ∨
          ∃ init r, s.jnc.staging = init ++ [r] ∧ (r.kind ≠ 4 ∨ r.shaft ≠ shaftByte s.straps.shf)) →
        RecordAsked (generalRecord s 4 1 (shaftByte s.straps.shf) 0 0 0xFF 0xFFFF interval) s t))

/-- R22, R23, R56, R124, R131, R132, R144, R149, R152: the end of the landing settle time in FALL completes the landing
(`LandingCompleted`): tally, BIN_FULL raised exactly if it is full, night list, shaft FREE, DEPOSIT record (deferred while
8 are staged), LANDED, the accepted lamp for 5 s, HOME with the drum driven home and its count kept. In TURN only the
timer stops. At the staging of the record a CONFIG_WRITE at the head of the receive queue may be given the array (log 25,
DEDUCED). -/
def Obligations.LandingCompletes : Prop :=
  ∀ s : State, Runs s → s.csq.landingSettle ≠ none →
    (s.csq.state = .turn → exec .landingSettleExpiry s =
      .next { s with csq := { s.csq with landingSettle := none } }) ∧
    (s.csq.state = .fall → s.phase = .service → LinkRight s → AgesRight s → ArrayRight s →
      ∃ t, exec .landingSettleExpiry s = .next t ∧ LandingCompleted s.rct s t ∧
        t.csq.turnLimit = s.csq.turnLimit)

/-- R21, R105, R118, R125, R149, R150, R152: the fall window expires with no landing: a DEPOSIT with NOT_LANDED, no fall
time and the tally unchanged (deferred while 8 records are staged), JAM queued (`FrameQueued`) and raised, with a JAM
record if it was clear and a general place and a sequence number are left after the DEPOSIT, the own shaft JAMMED, HOME;
the tally and the night list stay. A queued CLAIM that the JAM replaces is gone, and the coordinator is back in NONE. At
the staging of the records a CONFIG_WRITE at the head of the receive queue may be given the array (log 25, DEDUCED). -/
def Obligations.FallWindowExpires : Prop :=
  ∀ s : State, Runs s → s.phase = .service → LinkRight s → AgesRight s → ArrayRight s →
    s.csq.fallWindow ≠ none → s.csq.state = .fall →
    let own := s.straps.shf
    let bag : PendingBag :=
      { s.csq.bag with fall := 0xFFFF, flags := { s.csq.bag.flags with notLanded := true } }
    let full : Prop := s.jnc.seqCounter = 0xFFFFFFFF
    let deposit : List Record := if full then [] else [depositStamped s bag (ownTally s).count]
    let jam : List Record :=
      if s.csq.holds.jam = true ∨ 6 ≤ s.jnc.staging.length ∨ 0xFFFFFFFE ≤ s.jnc.seqCounter.toNat then []
      else [{ plainRecord s 5 0 with seq := s.jnc.seqCounter + 2 }]
    ∃ t, exec .fallWindowExpiry s = .next t ∧
      ownView t = .jammed ∧ t.shc.holdAge.get own = none ∧
      SameHoldsButJournal { s.csq.holds with jam := true } t.csq.holds ∧
      t.shc.tallies = s.shc.tallies ∧
      t = { s with
        csq := t.csq, wch := t.wch, rct := t.rct, lkc := t.lkc, shc := t.shc, jnc := t.jnc, lms := t.lms
        draws := if s.lkc.phase = .free then s.draws + 1 else s.draws } ∧
      (∀ i, i ≠ own → t.shc.views.get i = s.shc.views.get i ∧ t.shc.holdAge.get i = s.shc.holdAge.get i) ∧
      t.csq = { s.csq with
        state := t.csq.state, lock := t.csq.lock, holds := t.csq.holds, bag := bag
        homeLimit := t.csq.homeLimit, fallWindow := none } ∧
      (s.jnc.staging.length < 8 ∨ full → JournalKept s.jnc t ∧
        t.jnc.staging = s.jnc.staging ++ deposit ++ jam) ∧
      (8 ≤ s.jnc.staging.length → ¬ full →
        t.jnc = { s.jnc with deferred := some (depositRequest bag (ownTally s).count own) }) ∧
      FrameQueuedWithRecord (.jam own) s.lkc t ∧ ClaimAfterQueuing (.jam own) s t ∧
      HomeEntered s.rct s t

/-! ## The claim's timers, the lamps, the hold ages and the clock -/

/-- R17, R104, R105, R115, R117, R118: the end of the retry interval asks for the claim again, and the end of the
spacing timer queues it (`ClaimAsked`), if the own shaft is FREE and the own bin not full; otherwise the claim is
deferred. A CLAIM that a full queue discards is a busy refusal: the coordinator is back in NONE, and the retry interval
starts. -/
def Obligations.ClaimIsQueuedAgain : Prop :=
  ∀ (c : Instr) (serial : W32) (s : State), Runs s → LinkRight s → AgesRight s → s.lkc.hasClaim = false →
    (c = .retryIntervalExpiry ∧ s.csq.retry ≠ none ∧ s.csq.state = .claim ∧ s.shc.phase = .idle ∧
        serial = s.csq.bag.serial ∨
      c = .spacingTimerExpiry ∧ s.shc.spacing ≠ none ∧ s.shc.phase = .spacing ∧
        s.shc.claimSerial = some serial) →
    ∃ t, exec c s = .next t ∧
      t = { s with csq := { s.csq with retry := t.csq.retry }, shc := t.shc, lkc := t.lkc, draws := t.draws } ∧
      ClaimAsked serial (if c = .retryIntervalExpiry then none else s.csq.retry) s t

/-- R15, R19, R27, R121, R152: the claim wait limit, and POWER raised in CLAIM. With no CLAIM in transmission the claim
is given up, its timers stop and the bag is returned with CLAIM_TIMEOUT or OUT_OF_SERVICE; with one in
transmission its outcome is awaited. POWER that comes while the outcome is already awaited, or while the RETURN record is
deferred, is raised and recorded and leaves the claim as it is; awaited after the claim wait limit, the reason with which
a refusal then returns the bag is free between the two (log 11, DESIGN CHOICE). That POWER with a CLAIM in transmission
stops the claim wait and retry timers as well is log 34 (DEDUCED); that the POWER record is asked for before the RETURN
record is log 37 (DESIGN CHOICE); that a CLAIM in transmission which an earlier bag has given up is not waited for is log
18 (DEDUCED). At a staging a CONFIG_WRITE at the head of the receive queue may be given the array (log 25, DEDUCED). -/
def Obligations.ClaimIsAbandoned : Prop :=
  (∀ s : State, Runs s → s.phase = .service → ArrayRight s → s.csq.claimWait ≠ none →
    s.csq.state = .claim →
    (s.lkc.claimInTx = true → s.shc.givenUp = false → exec .claimWaitExpiry s =
      .next { s with csq := { s.csq with claimWait := none, retry := none, awaiting := some .timeout } }) ∧
    (s.lkc.claimInTx = false ∨ s.shc.givenUp = true → ∃ t, exec .claimWaitExpiry s = .next t ∧
      Returned .claimTimeout s.csq.bag s t ∧ ReturnFrame s.csq.holds s t ∧
      ClaimGivenUp s t ∧ LinkKeptButQueue s.lkc t ∧
      t.shc.views = s.shc.views ∧ t.shc.holdAge = s.shc.holdAge ∧
      t.shc.tallies = s.shc.tallies ∧
      t = { s with csq := t.csq, lkc := t.lkc, shc := t.shc, jnc := t.jnc, lms := t.lms })) ∧
  (∀ s : State, Runs s → s.phase = .service → ArrayRight s → s.supply.level = .normal →
    s.csq.state = .claim → s.csq.awaiting = none → s.csq.returnWait = false →
    let full : Prop := s.jnc.seqCounter = 0xFFFFFFFF
    let power : List Record :=
      if s.jnc.staging.length < 7 ∧ ¬ full then [plainRecord s 9 1] else []
    let seq : W32 := if power = [] then s.jnc.seqCounter else s.jnc.seqCounter + 1
    ∃ t, exec .supplyWarn s = .next t ∧ t.supply = { s.supply with level := .warn, recovery := none } ∧
      t.csq.holds.power = true ∧ t.shc.views = s.shc.views ∧
      t.shc.holdAge = s.shc.holdAge ∧
      t.shc.tallies = s.shc.tallies ∧ SameHoldsButJournal { s.csq.holds with power := true } t.csq.holds ∧
      t = { s with
        supply := t.supply, csq := t.csq, lkc := t.lkc, shc := t.shc, jnc := t.jnc, lms := t.lms } ∧
      (s.lkc.claimInTx = true → s.shc.givenUp = false →
        t.csq = { s.csq with
          holds := t.csq.holds, claimWait := none, retry := none, awaiting := some .power } ∧
        t.jnc.staging = s.jnc.staging ++ power ∧ JournalKept s.jnc t ∧
        t.shc = s.shc ∧ t.lms = s.lms ∧ LinkKept s.lkc t) ∧
      (s.lkc.claimInTx = false ∨ s.shc.givenUp = true →
        ClaimGivenUp s t ∧ LinkKeptButQueue s.lkc t ∧
        ReturnFrame { s.csq.holds with power := true } s t ∧
        t.csq.bag = { s.csq.bag with reason := some .outOfService } ∧
        (s.jnc.staging.length < 8 ∨ full → t.csq.state = .present ∧ t.csq.lock = .high ∧
          t.csq.returnWait = false ∧
          t.jnc.staging = s.jnc.staging ++ power ++ (if seq = 0xFFFFFFFF then [] else
            [{ generalRecord s 3 2 (shaftByte s.straps.shf) s.csq.bag.serial s.csq.bag.account
                s.csq.bag.bagType s.csq.bag.mass 0xFFFF with seq := seq + 1 }])) ∧
        (8 ≤ s.jnc.staging.length → ¬ full → t.csq.state = .claim ∧ t.csq.lock = s.csq.lock ∧
          t.csq.returnWait = true ∧
          t.jnc = { s.jnc with deferred := some (returnRequest .outOfService s.csq.bag s.straps.shf) }))) ∧
  (∀ s : State, Runs s → s.phase = .service → ArrayRight s → s.supply.level = .normal →
    s.csq.state = .claim → s.csq.awaiting ≠ none ∨ s.csq.returnWait = true →
    let reasonOpen : Prop := s.csq.awaiting = some .timeout ∧ s.csq.returnWait = false
    ∃ t, exec .supplyWarn s = .next t ∧
      t = { s with supply := t.supply, csq := t.csq, lkc := t.lkc, jnc := t.jnc, draws := t.draws } ∧
      t.supply = { s.supply with level := .warn, recovery := none } ∧
      t.csq = { s.csq with holds := t.csq.holds, awaiting := t.csq.awaiting } ∧
      SameHoldsButJournal { s.csq.holds with power := true } t.csq.holds ∧
      RecordAsked (plainRecord s 9 1) s t ∧ JournalKept s.jnc t ∧ LinkKept s.lkc t ∧
      (reasonOpen → (t.csq.awaiting = some .timeout ∨ t.csq.awaiting = some .power) ∧ t.draws = s.draws + 1) ∧
      (¬ reasonOpen → t.csq.awaiting = s.csq.awaiting ∧ t.draws = s.draws))

/-- R23, R181, R182, R184, Table 10-1: the accepted lamp goes OFF, READY becomes DIM, a half of a flashing lamp
ends, and the other row is scanned with its columns from the modes as they stand. The halves of the flashing lamps go
on, and a lamp that is not in FLASH has none. Over every command the READY dimming timer starts for 300 s at an entry to
IDLE, whatever state it comes from, runs on while the sequencer stays there, and is stopped outside IDLE, and so by a
start; READY is FULL in IDLE while it runs, DIM in IDLE after it, and OFF elsewhere; and a hatch opening in IDLE opens
for a bag whether READY is FULL or DIM. -/
def Obligations.LampTimers : Prop :=
  (∀ (c : Instr) (s t : State), StartRight s → LampsRight s → (s.csq.state ≠ .idle → s.lms.readyTimer = none) →
    exec c s = .next t → t.phase ≠ .inReset →
    (t.csq.state ≠ .idle → t.lms.readyTimer = none) ∧
    (s.csq.state ≠ .idle → t.csq.state = .idle → t.lms.readyTimer = some 300000) ∧
    (s.csq.state = .idle → t.csq.state = .idle → c ≠ .readyDimmingExpiry →
      t.lms.readyTimer = s.lms.readyTimer) ∧
    (t.csq.state = .idle → t.lms.modes.ready = (if t.lms.readyTimer = none then .dim else .full)) ∧
    (t.csq.state ≠ .idle → t.lms.modes.ready = .off)) ∧
  (∀ s : State, Runs s → s.phase = .service → s.csq.state = .idle → s.csq.hatch = .closed →
    ∃ t, exec .hatchOpening s = .next t ∧ t.csq.state = .opened ∧ t.lms.readyTimer = none) ∧
  ∀ s : State, Runs s → LampsRight s →
    let halvesStand (t : State) : Prop := ∀ l,
      (s.lms.modes.get l = .flash →
        t.lms.fullHalf.get l = s.lms.fullHalf.get l ∧ t.lms.halfTimer.get l = s.lms.halfTimer.get l) ∧
      (s.lms.modes.get l ≠ .flash → t.lms.fullHalf.get l = false ∧ t.lms.halfTimer.get l = none)
    (s.csq.accepted ≠ none → ∃ t, exec .acceptedLampExpiry s = .next t ∧ halvesStand t ∧
      t = { s with
        csq := { s.csq with accepted := none }
        lms := { s.lms with
          modes := { s.lms.modes with accepted := .off }
          fullHalf := t.lms.fullHalf, halfTimer := t.lms.halfTimer } }) ∧
    (s.lms.readyTimer ≠ none → s.csq.state = .idle → ∃ t, exec .readyDimmingExpiry s = .next t ∧
      halvesStand t ∧
      t = { s with lms := { s.lms with
        modes := { s.lms.modes with ready := .dim }, readyTimer := none
        fullHalf := t.lms.fullHalf, halfTimer := t.lms.halfTimer } }) ∧
    (∀ l, s.lms.modes.get l = .flash → ∃ t, exec (.flashHalfExpiry l) s = .next t ∧
      t = { s with lms := { s.lms with fullHalf := t.lms.fullHalf, halfTimer := t.lms.halfTimer } } ∧
      t.lms.fullHalf.get l = !s.lms.fullHalf.get l ∧ t.lms.halfTimer.get l = some 500 ∧
      ∀ k, k ≠ l → t.lms.fullHalf.get k = s.lms.fullHalf.get k ∧
        t.lms.halfTimer.get k = s.lms.halfTimer.get k) ∧
    (∀ r, s.lms.row = some r →
      let drive (l : Lamp) : ColDrive :=
        match s.lms.modes.get l with
        | .off => .off
        | .full => .full
        | .dim => .quarter
        | .flash => if s.lms.fullHalf.get l then .full else .off
      (r = .lr0 → exec .rowTimeExpiry s = .next { s with lms := { s.lms with
        row := some .lr1, rowTimer := some 3
        columns := { lc0 := drive .accepted, lc1 := drive .returned, lc2 := drive .service } } }) ∧
      (r = .lr1 → exec .rowTimeExpiry s = .next { s with lms := { s.lms with
        row := some .lr0, rowTimer := some 3
        columns := { lc0 := drive .ready, lc1 := drive .wait, lc2 := drive .close } } }))

/-- R113, R116, R117: a view HELD by another station lapses to FREE, and the own claim follows (`ClaimFollows`): a
deferred one for the own shaft enters SPACING if the own bin is not full. -/
def Obligations.ViewLapses : Prop :=
  ∀ (i : Fin 4) (h : BitVec 4) (s : State), Runs s → s.shc.views.get i = .held h → h ≠ s.straps.adr →
    s.shc.holdAge.get i ≠ none →
    ∃ t, exec (.lapse i) s = .next t ∧
      t = { s with shc := t.shc, lkc := { s.lkc with queue := t.lkc.queue } } ∧
      t.shc.views.get i = .free ∧ t.shc.holdAge.get i = none ∧
      (∀ k, k ≠ i → t.shc.views.get k = s.shc.views.get k ∧ t.shc.holdAge.get k = s.shc.holdAge.get k) ∧
      t.shc.tallies = s.shc.tallies ∧ ClaimFollows s t

/-- R104, R105, R136 to R139: the clock rises by 1 at the end of each millisecond, wrapping; the sync timer restarts
for the length of the clock flag and the own address, and a SYNC is queued (`FrameQueued`) unless one is in the
queue: at a full queue it replaces a less urgent frame or is discarded, and the drop count rises. That the clock of a
part stopped on a bad address runs as well is log 28 (DEDUCED). The clock field that the SYNC carries until its first
start mark is the model's choice (log 42, DESIGN CHOICE). -/
def Obligations.ClockTimers : Prop :=
  (∀ s : State, Runs s → ∃ t, exec .millisecondEnd s = .next t ∧
    t = { s with nck := { s.nck with clock := t.nck.clock } } ∧
    t.nck.clock.toNat = (s.nck.clock.toNat + 1) % 4294967296) ∧
  (∀ s : State, Runs s → LinkRight s → AgesRight s → s.nck.syncTimer ≠ none →
    let length : Nat :=
      (if s.nck.synced then s.cfg.syncPeriod else 3 * s.cfg.syncPeriod) + (s.straps.adr.toNat - 1) * 20
    let restarted : NightClock := { s.nck with syncTimer := some length }
    (s.lkc.hasSync = true → exec .syncTimerExpiry s = .next { s with nck := restarted }) ∧
    (s.lkc.hasSync = false → ∃ t, exec .syncTimerExpiry s = .next t ∧
      t = { s with
        nck := restarted, lkc := t.lkc, draws := if s.lkc.phase = .free then s.draws + 1 else s.draws } ∧
      FrameQueued (.sync s.nck.clock s.nls.night s.nck.synced) s.lkc t.lkc))

/-! ## The link lines -/

/-- R89, R90, R100, R103, R104, R109, R118, R139: the changes of the link phase by marks, falls and timeouts, the
holding of the clock after a byte of a frame to be taken, and the start of the first frame in transmit order, unless
another start mark has come first (`LinkFreed`; a free value, log 7): a SYNC takes its fields of the moment, and every
other content and every stall attempt in the queue, the receive queue, the clock holding and the drop count stay. That
HOLD_THE_CLOCK carries the bytes of the frame so far, which go on from the bits held, is log 13 (DEDUCED); the settle
times shown are log 27 (DEDUCED). What a claim that had lost contention meets at the link becoming free or at the next start mark is said in ClaimLeavesTheLink. -/
def Obligations.LinkPhases : Prop :=
  (∀ s : State, Runs s →
    (s.lkc.phase = .settling ∨ s.lkc.phase = .free → exec .settleTimeRestart s = .next { s with lkc :=
      { s.lkc with phase := .settling, settleTime := 0, reception := .absent } }) ∧
    (s.lkc.phase = .settling → s.lkc.holding = false → s.lkc.queue = [] → s.shc.lost = false →
      exec .linkFree s = .next { s with lkc := { s.lkc with phase := .free, settleTime := 10 } }) ∧
    (s.lkc.phase = .settling ∨ s.lkc.phase = .free ∨ s.lkc.phase = .receiving → s.lkc.holding = false →
      s.shc.lost = false → exec .startMark s = .next { s with lkc :=
        { s.lkc with phase := .receiving, settleTime := 0, reception := .bits [] } }) ∧
    (s.lkc.phase = .off → exec .startMark s = .next s) ∧
    (s.lkc.phase = .receiving → s.lkc.holding = false → exec .frameTimeout s = .next { s with lkc :=
      { s.lkc with phase := .settling, settleTime := 0, reception := .absent } }) ∧
    (∀ j, s.lkc.phase = .receiving → s.lkc.reception = .judged j →
      exec .overlongFrame s = .next { s with lkc := { s.lkc with reception := .followed } }) ∧
    (∀ kind source dest tail, s.lkc.phase = .receiving →
      let read := bytesBits (kind :: source :: dest :: tail)
      (∀ got, s.lkc.reception = .bits got → got <+: read →
        s.lkc.rx.length = 4 → s.lkc.holding = false → 1 ≤ source.toNat → source.toNat ≤ 15 →
        (dest = 0 ∧ (kind = 0x10 ∨ kind = 0x14 ∨ kind = 0x18 ∨ kind = 0x30 ∨ kind = 0x38 ∨ kind = 0x3C) ∨
          dest ≠ 0 ∧ dest = s.ownByte ∧
            (kind = 0x48 ∨ kind = 0x4C ∨ kind = 0x50 ∨ kind = 0x54 ∨ kind = 0x58)) →
        (tail = [] ∨ ∃ n payload, tail = n :: payload ∧ n.toNat ≤ 32 ∧ payload.length ≤ n.toNat) →
        exec (.holdTheClock kind source dest tail) s = .next { s with lkc :=
          { s.lkc with reception := .bits read, holding := true } }) ∧
      (∀ j, s.lkc.reception = .judged j → j.take ≠ none → s.lkc.rx.length = 4 → s.lkc.holding = false →
        bytesBits (j.frame.kind :: j.frame.source :: j.frame.dest ::
          BitVec.ofNat 8 j.frame.payload.length :: (j.frame.payload ++ [j.frame.check])) = read →
        exec (.holdTheClock kind source dest tail) s = .next { s with lkc := { s.lkc with holding := true } }) ∧
      (∀ got, s.lkc.reception = .bits got →
        s.lkc.rx.length < 4 ∨ kind = 0x20 ∨ (dest ≠ 0 ∧ dest ≠ s.ownByte) ∨ ¬ got <+: read →
        exec (.holdTheClock kind source dest tail) s = .next s))) ∧
  (∀ s : State, Runs s → s.lkc.phase = .settling → s.lkc.holding = false → s.lkc.queue ≠ [] →
    s.shc.lost = false →
    ∃ t, exec .linkFree s = .next t ∧
      t = { s with lkc := t.lkc, shc := { s.shc with phase := t.shc.phase }, draws := t.draws } ∧
      LinkFreed s.lkc.queue s.shc.phase s t)

/-- R87, R91, R97 to R99, R122, R170, R186, R187: the bits of a frame, each byte from its most significant bit, are
held as they come, and the frame that they make up is judged at its check byte, row by row of Table 5-6: followed
only above 32 bytes; a CLAIM with its objections; what is taken of every other kind, and acknowledged. That the bits
come with CHECK_BYTE, and that one whose bits do not yet make up a frame only adds them, is log 13 (DEDUCED). -/
def Obligations.CheckByteJudgement : Prop :=
  ∀ (f : Frame) (got more : List Bool) (s : State), Runs s → s.lkc.phase = .receiving →
    s.lkc.reception = .bits got → s.lkc.holding = false →
    ((got ++ more).length < 32 → exec (.checkByte more) s = .next { s with lkc :=
      { s.lkc with reception := .bits (got ++ more) } }) ∧
    (f.payload.length ≤ 255 →
    got ++ more = bytesBits (f.kind :: f.source :: f.dest :: BitVec.ofNat 8 f.payload.length ::
      (f.payload ++ [f.check])) →
    let judged (j : Judged) : Prop :=
      exec (.checkByte more) s = .next { s with lkc := { s.lkc with reception := .judged j } }
    let good : Bool := Frame.crcGood f
    let nobody : Judged :=
      { frame := f, crcGood := good, claimShaft := none, take := none, driveA := false, driveB := false }
    let taken (m : RxMsg) : Prop := judged { nobody with take := some m }
    let answered (m : RxMsg) : Prop := judged { nobody with take := some m, driveA := true }
    (32 < f.payload.length →
      exec (.checkByte more) s = .next { s with lkc := { s.lkc with reception := .followed } }) ∧
    (f.payload.length ≤ 32 →
      (f.kind = 0x20 → f.dest = 0 →
        (good = false → judged { nobody with driveA := true }) ∧
        (good = true → ¬(1 ≤ f.source.toNat ∧ f.source.toNat ≤ 15 ∧ f.payload.length = 5) →
          judged nobody) ∧
        (∀ shaft b1 b2 b3 b4, good = true → 1 ≤ f.source.toNat → f.source.toNat ≤ 15 →
          f.payload = [shaft, b1, b2, b3, b4] →
          ∃ busy : Bool, judged { nobody with
              claimShaft := some shaft, driveA := busy
              driveB := decide ((b1 ++ b2 ++ b3 ++ b4 : W32) ∈ s.nls.entries) } ∧
            (3 < shaft.toNat → busy = true) ∧ (f.source = s.ownByte → busy = true) ∧
            (∀ i : Fin 4, shaft.toNat = i.val → f.source ≠ s.ownByte →
              (busy = true ↔ s.shc.views.get i = .jammed ∨
                (∃ h, s.shc.views.get i = .held h ∧ h.setWidth 8 ≠ f.source) ∨
                tallyFull s.cfg (s.shc.tallies.get i) = true)))) ∧
      ((f.kind ≠ 0x20 ∨ f.dest ≠ 0) →
        (f.dest ≠ 0 ∧ f.dest ≠ s.ownByte ∨ good = false ∨ f.source.toNat = 0 ∨ 15 < f.source.toNat ∨
            kindTaken f.kind (f.dest == 0) = false ∨ lengthPermitted f.kind f.payload.length = false →
          judged nobody) ∧
        (good = true → 1 ≤ f.source.toNat → f.source.toNat ≤ 15 →
          (f.dest = 0 →
            (∀ shaft, f.kind = 0x10 → f.payload = [shaft] → taken (.jam shaft)) ∧
            (∀ shaft b1 b2 b3 b4 b5 b6 b7 b8 b9 b10 b11 b12, f.kind = 0x14 →
              f.payload = [shaft, b1, b2, b3, b4, b5, b6, b7, b8, b9, b10, b11, b12] →
              taken (.landed shaft (b1 ++ b2 ++ b3 ++ b4 : W32) (b5 ++ b6 : W16) (b7 ++ b8 : W16)
                (b9 ++ b10 ++ b11 ++ b12 : W32))) ∧
            (∀ b0, f.kind = 0x18 → f.payload = [b0] → taken (.release (b0.setWidth 4))) ∧
            (∀ b0 b1 b2 b3 b4 b5 b6, f.kind = 0x30 → f.payload = [b0, b1, b2, b3, b4, b5, b6] →
              taken (.sync (b0 ++ b1 ++ b2 ++ b3 : W32) (b4 ++ b5 : W16) b6)) ∧
            (∀ b0 b1, f.kind = 0x38 → f.payload = [b0, b1] → taken (.close (b0 ++ b1 : W16))) ∧
            (∀ target index, f.kind = 0x3C → f.payload = [target, index] → taken (.clear target index))) ∧
          (f.dest ≠ 0 → f.dest = s.ownByte →
            (∀ arg, f.kind = 0x48 → f.payload = [arg] → answered (.hold arg)) ∧
            (∀ b0 b1 b2 b3, f.kind = 0x4C → f.payload = [b0, b1, b2, b3] →
              answered (.auditMark (b0 ++ b1 ++ b2 ++ b3 : W32))) ∧
            (∀ b0 b1 b2 b3 count, f.kind = 0x50 → f.payload = [b0, b1, b2, b3, count] →
              answered (.readJournal f.source (b0 ++ b1 ++ b2 ++ b3 : W32) count)) ∧
            (f.kind = 0x54 → f.payload = [] → answered (.readState f.source)) ∧
            (∀ offset d data, f.kind = 0x58 → f.payload = offset :: d :: data → f.payload.length ≤ 25 →
              (s.straps.srv = true → s.csq.state = .idle ∨ s.csq.state = .held → offset.toNat ≤ 73 →
                answered (.configWrite offset (d :: data))) ∧
              (s.straps.srv = false ∨ (s.csq.state ≠ .idle ∧ s.csq.state ≠ .held) ∨ 73 < offset.toNat →
                judged nobody)))))))

/-- R96, R100, R101, R108: the end mark of a judged frame that is no CLAIM, or a CLAIM with the own source address,
to which the station has objected (R122): a taken frame joins the receive queue, a good frame with the own
source address raises ADDRESS_CLASH, which takes IDLE to HELD (R8), and the phase becomes SETTLING. A frame whose end
mark comes before its slot, or that is followed only, is discarded. -/
def Obligations.EndMarkTakesFrame : Prop :=
  ∀ (slot : Option SlotLevels) (s : State), Runs s → StartRight s → s.lkc.phase = .receiving →
    s.lkc.holding = false →
    let settling : Link := { s.lkc with phase := .settling, settleTime := 0, reception := .absent }
    (s.lkc.reception = .absent ∨ (∃ got, s.lkc.reception = .bits got) ∨ s.lkc.reception = .followed →
      exec (.endMark slot) s = .next { s with lkc := settling }) ∧
    (∀ j, s.lkc.reception = .judged j →
      (j.claimShaft = none ∨ (j.frame.source = s.ownByte ∧ j.driveA = true)) →
      (j.take = none ∨ s.lkc.rx.length < 4) →
      (slot = none → exec (.endMark slot) s = .next { s with lkc := settling }) ∧
      (∀ levels, slot = some levels → ∃ t, exec (.endMark slot) s = .next t ∧
        t = { s with lkc := t.lkc, csq := t.csq, lms := t.lms } ∧
        t.lkc = { settling with rx := match j.take with
          | none => s.lkc.rx
          | some m => s.lkc.rx ++ [m] } ∧
        (j.crcGood = true → j.frame.source = s.ownByte →
          t.csq = { s.csq with
            holds := { s.csq.holds with addressClash := true }
            state := if s.csq.state = .idle then .held else s.csq.state
            lock := if s.csq.state = .idle then .low else s.csq.lock } ∧
          (s.csq.state ≠ .idle → t.lms = s.lms)) ∧
        (j.crcGood = false ∨ j.frame.source ≠ s.ownByte → t.csq = s.csq ∧ t.lms = s.lms)))

/-- R98, R113, R116, R117, R123: a CLAIM that completes with a clean slot sets a FREE view of its shaft, or one
HELD by the claimer, to HELD by the claimer with the hold age from 0; any other slot or view leaves it. The own
claim follows (`ClaimFollows`): as the own view becomes HELD by another station a queued one is withdrawn and deferred,
and one in SPACING goes back to DEFERRED. -/
def Obligations.CleanSlotSetsView : Prop :=
  ∀ (j : Judged) (i : Fin 4) (levels : SlotLevels) (s : State), Runs s → s.lkc.phase = .receiving →
    s.lkc.holding = false → s.lkc.reception = .judged j → j.take = none →
    j.claimShaft = some (BitVec.ofNat 8 i.val) → j.frame.source ≠ s.ownByte →
    let claimer : BitVec 4 := j.frame.source.setWidth 4
    let clean : Prop := levels.a = true ∧ levels.b = true ∧ j.driveA = false ∧ j.driveB = false
    let yields : Prop := s.shc.views.get i = .free ∨ s.shc.views.get i = .held claimer
    ∃ t, exec (.endMark (some levels)) s = .next t ∧
      t = { s with
        shc := t.shc
        lkc := { s.lkc with
          phase := .settling, settleTime := 0, reception := .absent, queue := t.lkc.queue } } ∧
      t.shc.tallies = s.shc.tallies ∧
      (clean → yields → t.shc.views.get i = .held claimer ∧
        t.shc.holdAge.get i = some s.cfg.holdLimit ∧
        (∀ k, k ≠ i → t.shc.views.get k = s.shc.views.get k ∧
          t.shc.holdAge.get k = s.shc.holdAge.get k) ∧ ClaimFollows s t) ∧
      (¬ clean ∨ ¬ yields → t.shc = s.shc ∧ t.lkc.queue = s.lkc.queue)

/-- R87, R89, R92 to R95, R107, R137, R139: the transmitter holds the bits that it has read as it sent them, and goes
on. A frame that is no CLAIM, at a bit that it sent as 1 and reads as 0, loses contention and goes back as it is, the
bits read so far and the losing 0 held in reception. A stall or abandonment counts one attempt, and the fourth drops
it; completed it leaves the queue, and a SYNC makes the clock SYNCED. The bits of a transmitter come with CHECK_BYTE,
which takes none that differ from those sent, since a differing bit has commands of its own: the model's reading (log
13, DEDUCED). That a start mark of another station leaves no frame in reception is log 14 (DEDUCED). The settle time
shown in RECEIVING is log 27 (DEDUCED). -/
def Obligations.FrameLeavesTheLink : Prop :=
  (∀ (e : TxEntry) (s : State), Runs s → s.lkc.phase = .transmitting → s.lkc.current = some e →
    let sent : List Bool := Frame.bits (TxFrame.toFrame s.ownByte e.content)
    (∀ got more, s.lkc.reception = .bits got →
      (got ++ more <+: sent → exec (.checkByte more) s = .next { s with lkc :=
        { s.lkc with reception := .bits (got ++ more) } }) ∧
      (¬ got ++ more <+: sent → exec (.checkByte more) s = .next s)) ∧
    (∀ k, e.content.isClaim = false → sent[k]? = some true → s.lkc.reception = .bits (sent.take k) →
      exec .lossOfContention s = .next { s with lkc :=
        { s.lkc with
          phase := .receiving, settleTime := 0, reception := .bits (sent.take k ++ [false])
          inTx := none } }) ∧
    ((∀ k, sent[k]? = some true → s.lkc.reception ≠ .bits (sent.take k)) →
      exec .lossOfContention s = .next s) ∧
    (∀ c, c = .stall ∨ c = .abandonment ∨ c = .startMark ∧ s.lkc.holding = false →
      e.content.isClaim = false →
      let following : Link :=
        { s.lkc with phase := .receiving, settleTime := 0, reception := .absent, inTx := none }
      (e.attempts < 3 → exec c s = .next { s with lkc := { following with
        queue := s.lkc.queue.map (fun f => if f.age = e.age then { f with attempts := e.attempts + 1 } else f) } }) ∧
      (3 ≤ e.attempts → exec c s = .next { s with lkc := { following with
        queue := s.lkc.queue.filter (fun f => f.age != e.age)
        dropCount := min 255 (s.lkc.dropCount + 1) } }))) ∧
  (∀ (e : TxEntry) (slot : SlotLevels) (s : State), Runs s → s.lkc.phase = .transmitting →
    s.lkc.current = some e → e.content.isClaim = false →
    let left : Link := { s.lkc with
      phase := .settling, settleTime := 0, reception := .absent, inTx := none
      queue := s.lkc.queue.filter (fun f => f.age != e.age) }
    (e.content.isSync = false → exec (.completed slot) s = .next { s with lkc := left }) ∧
    (e.content.isSync = true → exec (.completed slot) s = .next { s with
      lkc := left
      nck := { s.nck with
        synced := true, syncTimer := some (s.cfg.syncPeriod + (s.straps.adr.toNat - 1) * 20) } }))

/-- R17, R19, R27, R92 to R94, R116, R118, R121: what becomes of the own CLAIM in transmission. Lost in contention it
is QUEUED again with its attempts unchanged, and the withdraw conditions are judged only after the frame that won: at
the latest as the link becomes free (`LinkFreed`) or the next start mark comes. Stalled below the fourth attempt it is
QUEUED again and judged at once (both moments: log 18, DEDUCED). Dropped at the fourth stall it is a busy refusal, which
starts the retry interval. Where the outcome was only awaited, each of these returns the bag, and of the sequencer and
the journal controller nothing else changes (`ReturnFrame`); where the sequencer has given the claim up (R121), each only
removes the CLAIM. A start mark of another station counts as an abandonment (R94; log 14, DEDUCED). The settle time shown
in RECEIVING is log 27, and that a claim given up is not sought by a later bag log 18 (DEDUCED both); that a CONFIG_WRITE
at the head of the receive queue may be given the array at the staging of the return is log 25 (DEDUCED). -/
def Obligations.ClaimLeavesTheLink : Prop :=
  (∀ (e : TxEntry) (s : State), Runs s → s.phase = .service → ArrayRight s → LinkRight s → AgesRight s →
    s.lkc.phase = .transmitting → s.lkc.current = some e → e.content.isClaim = true →
    s.csq.state = .claim → s.shc.givenUp = false →
    let sent : List Bool := Frame.bits (TxFrame.toFrame s.ownByte e.content)
    let following : Link :=
      { s.lkc with phase := .receiving, settleTime := 0, reception := .absent, inTx := none }
    (s.csq.awaiting = none → ∀ k, sent[k]? = some true → s.lkc.reception = .bits (sent.take k) →
      exec .lossOfContention s = .next { s with
        lkc := { following with reception := .bits (sent.take k ++ [false]) }
        shc := { s.shc with phase := .queued, spacing := none, lost := true } }) ∧
    (s.csq.awaiting = none → ∀ c, c = .stall ∨ c = .abandonment ∨ c = .startMark ∧ s.lkc.holding = false →
      (e.attempts < 3 → ¬ WithdrawStands s → exec c s = .next { s with
        lkc := { following with queue := s.lkc.queue.map (fun f =>
          if f.age = e.age then { f with attempts := e.attempts + 1 } else f) }
        shc := { s.shc with phase := .queued, spacing := none, lost := false } }) ∧
      (e.attempts < 3 → WithdrawStands s → exec c s = .next { s with
        lkc := { following with queue := s.lkc.queue.filter (fun f => f.age != e.age) }
        shc := { s.shc with phase := .deferred, spacing := none, lost := false } }) ∧
      (3 ≤ e.attempts → exec c s = .next { s with
        lkc := { following with
          queue := s.lkc.queue.filter (fun f => f.age != e.age)
          dropCount := min 255 (s.lkc.dropCount + 1) }
        shc := { s.shc with
          phase := .idle, claimSerial := none, spacing := none, givenUp := false, lost := false }
        csq := { s.csq with retry := some s.cfg.retryInterval } })) ∧
    (∀ cause, s.csq.awaiting = some cause → ∀ c,
      (c = .lossOfContention ∧ ∃ k, sent[k]? = some true ∧ s.lkc.reception = .bits (sent.take k)) ∨
        c = .stall ∨ c = .abandonment ∨ c = .startMark ∧ s.lkc.holding = false →
      ∃ t, exec c s = .next t ∧ Returned cause.reason s.csq.bag s t ∧ ReturnFrame s.csq.holds s t ∧
        t.shc = noClaim s.shc ∧
        LinkKept { following with
          reception := t.lkc.reception, queue := s.lkc.queue.filter (fun f => f.age != e.age)
          dropCount := if c ≠ .lossOfContention ∧ 3 ≤ e.attempts then min 255 (s.lkc.dropCount + 1)
            else s.lkc.dropCount } t ∧
        t = { s with
          csq := t.csq, lkc := t.lkc, shc := t.shc, jnc := t.jnc, lms := t.lms })) ∧
  (∀ (e : TxEntry) (s : State), Runs s → LinkRight s → s.lkc.phase = .transmitting → s.lkc.current = some e →
    e.content.isClaim = true → s.csq.state ≠ .claim ∨ s.shc.givenUp = true →
    let sent : List Bool := Frame.bits (TxFrame.toFrame s.ownByte e.content)
    let left : Link := { s.lkc with
      phase := .receiving, settleTime := 0, reception := .absent, inTx := none
      queue := s.lkc.queue.filter (fun f => f.age != e.age) }
    (∀ k, sent[k]? = some true → s.lkc.reception = .bits (sent.take k) →
      exec .lossOfContention s = .next { s with
        lkc := { left with reception := .bits (sent.take k ++ [false]) }, shc := noClaim s.shc }) ∧
    (∀ c, c = .stall ∨ c = .abandonment ∨ c = .startMark ∧ s.lkc.holding = false →
      exec c s = .next { s with
        lkc := { left with dropCount :=
          if 3 ≤ e.attempts then min 255 (s.lkc.dropCount + 1) else s.lkc.dropCount }
        shc := noClaim s.shc })) ∧
  (∀ s : State, Runs s → LinkRight s → AgesRight s → s.shc.phase = .queued → s.shc.lost = true →
    s.lkc.inTx = none → s.lkc.holding = false →
    (s.lkc.phase = .settling ∨ s.lkc.phase = .receiving →
      (¬ WithdrawStands s → exec .startMark s = .next { s with
        lkc := { s.lkc with phase := .receiving, settleTime := 0, reception := .bits [] }
        shc := { s.shc with spacing := none, lost := false } }) ∧
      (WithdrawStands s → exec .startMark s = .next { s with
        lkc := { s.lkc with
          phase := .receiving, settleTime := 0, reception := .bits []
          queue := s.lkc.queue.filter (fun e => !e.content.isClaim) }
        shc := { s.shc with phase := .deferred, spacing := none, lost := false } })) ∧
    (s.lkc.phase = .settling → ∃ t, exec .linkFree s = .next t ∧
      t = { s with lkc := t.lkc, shc := t.shc, draws := t.draws } ∧
      t.shc = { s.shc with phase := t.shc.phase, spacing := none, lost := false } ∧
      (¬ WithdrawStands s → LinkFreed s.lkc.queue .queued s t) ∧
      (WithdrawStands s →
        LinkFreed (s.lkc.queue.filter (fun e => !e.content.isClaim)) .deferred s t)))

/-- R17 to R20, R73, R74, R107, R119 to R121, R126: the outcome of the own CLAIM from the levels of bits A and B: bit
B low is a duplicate refusal whatever bit A is; bit A low alone is a busy refusal; both high are a grant, which turns
the drum unless the night list has the serial by now, and goes on to FALL at once from the drop target, where MDIR is
high and MRUN stays inactive (log 19, DEDUCED); the count, the encoder reference and the home switch filter stay. A RETURN
record for which the staging queue has no place is deferred, and the sequencer waits in CLAIM (R152). An outcome that
the sequencer no longer seeks only releases the shaft, if it is a grant; that a claim given up is not sought by a
later bag is log 18 (DEDUCED). At the staging of a record a CONFIG_WRITE at the head of the receive queue may be given
the array (log 25, DEDUCED). -/
def Obligations.ClaimOutcome : Prop :=
  (∀ (e : TxEntry) (slot : SlotLevels) (s : State), Runs s → s.phase = .service → LinkRight s →
    ArrayRight s → s.lkc.phase = .transmitting → s.lkc.current = some e → e.content.isClaim = true →
    s.csq.state = .claim → s.shc.givenUp = false →
    let left : Link := { s.lkc with
      phase := .settling, settleTime := 0, reception := .absent, inTx := none
      queue := s.lkc.queue.filter (fun f => f.age != e.age) }
    let own := s.straps.shf
    ∃ t, exec (.completed slot) s = .next t ∧ ClaimAs (noClaim s.shc) t ∧ t.shc.tallies = s.shc.tallies ∧
      (∀ k, k ≠ own → t.shc.views.get k = s.shc.views.get k ∧ t.shc.holdAge.get k = s.shc.holdAge.get k) ∧
      t = { s with
        csq := t.csq, rct := t.rct, ldi := t.ldi, lkc := t.lkc, shc := t.shc, jnc := t.jnc, lms := t.lms } ∧
      (t.csq.state ≠ .turn → t.csq.state ≠ .fall → t.rct = s.rct ∧ t.ldi = s.ldi) ∧
      (slot.b = false → Returned .duplicate s.csq.bag s t ∧ ReturnFrame s.csq.holds s t ∧
        t.shc.views = s.shc.views ∧ t.shc.holdAge = s.shc.holdAge ∧ LinkKept left t) ∧
      (slot.a = false → slot.b = true → s.csq.awaiting = none →
        t.csq = { s.csq with retry := some s.cfg.retryInterval } ∧ t.shc.views = s.shc.views ∧
        t.shc.holdAge = s.shc.holdAge ∧ t.lkc = left ∧ t.jnc = s.jnc ∧ t.lms = s.lms) ∧
      (∀ cause, slot.a = false → slot.b = true → s.csq.awaiting = some cause →
        Returned cause.reason s.csq.bag s t ∧ ReturnFrame s.csq.holds s t ∧ t.shc.views = s.shc.views ∧
        t.shc.holdAge = s.shc.holdAge ∧ LinkKept left t) ∧
      (slot.a = true → slot.b = true → s.csq.bag.serial ∈ s.nls.entries →
        Returned .duplicate s.csq.bag s t ∧ ReturnFrame s.csq.holds s t ∧ ownView t = .free ∧
        t.shc.holdAge.get own = none ∧ FrameQueuedWithRecord (.release own .duplicate) left t) ∧
      (slot.a = true → slot.b = true → s.csq.bag.serial ∉ s.nls.entries →
        s.rct.position ≠ s.cfg.dropTarget →
        t.csq = { s.csq with
          state := .turn, lock := .low, claimWait := none, retry := none, awaiting := none
          turnLimit := some s.cfg.turnLimit } ∧
        selfHeld t = true ∧ t.shc.holdAge.get own = none ∧ t.lkc = left ∧
        t.ldi = { s.ldi with count := 0 } ∧ t.jnc = s.jnc ∧
        t.rct = { s.rct with
          mode := .forward, maxReached := s.rct.position, dropTime := none, mdir := .high
          mrun := if s.rct.deadTime ≠ none ∧ s.rct.lastDir = some .rev then .low else .high }) ∧
      (slot.a = true → slot.b = true → s.csq.bag.serial ∉ s.nls.entries →
        s.rct.position = s.cfg.dropTarget →
        t.csq = { s.csq with
          state := .fall, lock := .low, claimWait := none, retry := none, awaiting := none
          turnLimit := none, fallWindow := some s.cfg.fallWindow } ∧
        selfHeld t = true ∧ t.shc.holdAge.get own = none ∧ t.lkc = left ∧
        t.ldi = { s.ldi with count := 0 } ∧ t.jnc = s.jnc ∧
        t.rct = { s.rct with
          mode := .watch, maxReached := s.rct.position, dropTime := some s.nck.clock, mdir := .high
          mrun := t.rct.mrun, deadTime := t.rct.deadTime, lastDir := t.rct.lastDir } ∧
        RunEnded { s.rct with mdir := .high } t.rct)) ∧
  (∀ (e : TxEntry) (slot : SlotLevels) (s : State), Runs s → s.phase = .service → LinkRight s →
    s.lkc.phase = .transmitting → s.lkc.current = some e → e.content.isClaim = true →
    s.csq.state ≠ .claim ∨ s.shc.givenUp = true →
    let left : Link := { s.lkc with
      phase := .settling, settleTime := 0, reception := .absent, inTx := none
      queue := s.lkc.queue.filter (fun f => f.age != e.age) }
    let own := s.straps.shf
    ∃ t, exec (.completed slot) s = .next t ∧ t = { s with lkc := t.lkc, shc := t.shc } ∧
      ClaimAs (noClaim s.shc) t ∧ t.shc.tallies = s.shc.tallies ∧
      (slot.a = true → slot.b = true → ownView t = .free ∧ t.shc.holdAge.get own = none ∧
        (∀ k, k ≠ own → t.shc.views.get k = s.shc.views.get k ∧
          t.shc.holdAge.get k = s.shc.holdAge.get k) ∧
        FrameQueued (.release own .fault) left t.lkc) ∧
      (slot.a = false ∨ slot.b = false → t.shc = noClaim s.shc ∧ t.lkc = left))

/-! ## Frames taken from the receive queue -/

/-- R102, R114, R116, R117, R128, R129, R187: JAM makes a FREE view, or one HELD by another station, JAMMED and
RELEASE frees one HELD by another; a self-held view stays; a shaft above 3 has no effect; a JAM for the own
shaft raises JAM with its record. The own claim follows (`ClaimFollows`): a JAM of the own shaft withdraws and defers a
queued one and takes one in SPACING back to DEFERRED; a RELEASE lets a deferred one go on. IDLE and HELD follow the
hold set, every other state stays (`StateByHolds`), and so do the journal controller but for the record staged and the
rest of the receive queue; that a CONFIG_WRITE which comes to its head may be given the array at the staging of the record is log 25
(DEDUCED). -/
def Obligations.JamAndReleaseTaken : Prop :=
  ∀ (rest : List RxMsg) (s : State), Runs s → s.phase = .service → ArrayRight s →
    let left : Link := { s.lkc with rx := rest, holding := false }
    (∀ shaft, s.lkc.rx = .jam shaft :: rest →
      (3 < shaft.toNat → exec .jamTaken s = .next { s with lkc := left }) ∧
      (∀ i : Fin 4, shaft.toNat = i.val → ∃ t, exec .jamTaken s = .next t ∧
        t = { s with csq := t.csq, shc := t.shc, lkc := t.lkc, jnc := t.jnc, lms := t.lms } ∧
        LinkKeptButQueue left t ∧ ClaimFollows s t ∧
        (s.shc.views.get i = .free → t.shc.views.get i = .jammed ∧ t.shc.holdAge.get i = none) ∧
        (∀ h, s.shc.views.get i = .held h → t.shc.views.get i =
          (if h = s.straps.adr then .held h else .jammed) ∧
          t.shc.holdAge.get i = (if h = s.straps.adr then s.shc.holdAge.get i else none)) ∧
        (s.shc.views.get i = .jammed →
          t.shc.views.get i = .jammed ∧ t.shc.holdAge.get i = s.shc.holdAge.get i) ∧
        (∀ k, k ≠ i → t.shc.views.get k = s.shc.views.get k ∧
          t.shc.holdAge.get k = s.shc.holdAge.get k) ∧ t.shc.tallies = s.shc.tallies ∧
        (i = s.straps.shf → SameHoldsButJournal { s.csq.holds with jam := true } t.csq.holds ∧
          SameSequencerBut s.csq t.csq ∧ StateByHolds s t ∧ JournalKept s.jnc t ∧
          (s.csq.holds.jam = false → RecordAsked (plainRecord s 5 0) s t)) ∧
        (i ≠ s.straps.shf ∨ s.csq.holds.jam = true →
          t.csq = s.csq ∧ t.jnc = s.jnc ∧ t.lms = s.lms ∧ t.lkc.rx = rest))) ∧
    (∀ shaft, s.lkc.rx = .release shaft :: rest →
      (3 < shaft.toNat → exec .releaseTaken s = .next { s with lkc := left }) ∧
      (∀ i : Fin 4, shaft.toNat = i.val → ∃ t, exec .releaseTaken s = .next t ∧
        t = { s with shc := t.shc, lkc := { left with queue := t.lkc.queue } } ∧
        t.shc.tallies = s.shc.tallies ∧ ClaimFollows s t ∧
        (∀ h, s.shc.views.get i = .held h → h ≠ s.straps.adr →
          t.shc.views.get i = .free ∧ t.shc.holdAge.get i = none) ∧
        ((∀ h, s.shc.views.get i = .held h → h = s.straps.adr) →
          t.shc.views.get i = s.shc.views.get i ∧ t.shc.holdAge.get i = s.shc.holdAge.get i) ∧
        (∀ k, k ≠ i → t.shc.views.get k = s.shc.views.get k ∧
          t.shc.holdAge.get k = s.shc.holdAge.get k)))

/-- R56, R102, R116, R117, R130 to R132: a LANDED taken frees a view HELD by another station, gives the night list its
serial, and max-merges the tally of its bin; an own bin that is full then raises BIN_FULL. The own claim follows
(`ClaimFollows`): an own bin that becomes full withdraws a queued one, or takes one in SPACING back to DEFERRED; a
deferred one whose shaft it frees goes to SPACING. IDLE and HELD follow the hold set, every other state stays
(`StateByHolds`; a part stopped on a bad address is in START, `StartRight`). One that names a shaft above 3 only gives the night list its serial: R56
and R130 step 2 have no shaft condition, and 6.6 and R187 deny such a frame an effect at the coordinator (log 38,
DEDUCED). -/
def Obligations.LandedTaken : Prop :=
  ∀ (shaft : Byte) (serial : W32) (mass count : W16) (binMass : W32) (rest : List RxMsg) (s : State),
    Runs s → s.lkc.rx = .landed shaft serial mass count binMass :: rest →
    let given : NightList := { s.nls with entries :=
      if serial = 0 ∨ serial = 0xFFFFFFFF ∨ serial ∈ s.nls.entries ∨ 256 ≤ s.nls.entries.length then
        s.nls.entries
      else s.nls.entries ++ [serial] }
    (3 < shaft.toNat → exec .landedTaken s = .next { s with
      lkc := { s.lkc with rx := rest, holding := false }, nls := given }) ∧
    (∀ i : Fin 4, shaft.toNat = i.val →
      let before := s.shc.tallies.get i
      let after : Tally :=
        { count := max (min 65535 (before.count + 1)) count.toNat
          mass := max (min 4294967295 (before.mass + min 9999 mass.toNat)) binMass.toNat }
      ∃ t, exec .landedTaken s = .next t ∧
        t = { s with
          csq := t.csq, shc := t.shc, nls := t.nls, lms := t.lms
          lkc := { s.lkc with rx := rest, holding := false, queue := t.lkc.queue } } ∧
        t.shc.tallies.get i = after ∧
        (∀ k, k ≠ i → t.shc.tallies.get k = s.shc.tallies.get k ∧
          t.shc.views.get k = s.shc.views.get k ∧ t.shc.holdAge.get k = s.shc.holdAge.get k) ∧
        (∀ h, s.shc.views.get i = .held h → h ≠ s.straps.adr →
          t.shc.views.get i = .free ∧ t.shc.holdAge.get i = none) ∧
        ((∀ h, s.shc.views.get i = .held h → h = s.straps.adr) →
          t.shc.views.get i = s.shc.views.get i ∧ t.shc.holdAge.get i = s.shc.holdAge.get i) ∧
        t.nls = given ∧
        (i = s.straps.shf → tallyFull s.cfg after = true →
          t.csq.holds = { s.csq.holds with binFull := true } ∧ SameSequencerBut s.csq t.csq ∧
          (StartRight s → StateByHolds s t)) ∧
        (i ≠ s.straps.shf ∨ tallyFull s.cfg after = false → t.csq = s.csq ∧ t.lms = s.lms) ∧
        ClaimFollows s t)

/-- R59 to R63, R104, R105, R139 to R143 (Table 7-3): a valid SYNC restarts the sync timer. A greater night closes the
present one and its clock is adopted, if the CLOSE record can be staged; an equal night is adopted unless a FREE sender
meets a SYNCED clock; otherwise no close actions are taken, and the own SYNC is queued unless one is in the queue
(`FrameQueued`: at a full queue it replaces a less urgent frame or is discarded). At a close IDLE and HELD follow the hold
set, every other state stays (`StateByHolds`), and so does the journal controller but for the record staged. That no close is taken either when no
sequence number is left is log 17 (DEDUCED), that the milliseconds since the start mark come as the operand is log 22
(DEDUCED), and that a CONFIG_WRITE which comes to the head may be given the array at the staging is log 25 (DEDUCED).
The clock field of the own SYNC until its first start mark, and that a SYNC which waits in the queue takes the new night
and flag at its start mark and not before, are the model's choice (log 42, DESIGN CHOICE). -/
def Obligations.SyncTaken : Prop :=
  ∀ (elapsed clock : W32) (night : W16) (flag : Byte) (rest : List RxMsg) (s : State),
    Runs s → s.phase = .service → ArrayRight s → LinkRight s → AgesRight s →
    s.lkc.rx = .sync clock night flag :: rest →
    let left : Link := { s.lkc with rx := rest, holding := false }
    let length (synced : Bool) : Nat :=
      (if synced then s.cfg.syncPeriod else 3 * s.cfg.syncPeriod) + (s.straps.adr.toNat - 1) * 20
    let adopted : NightClock :=
      { s.nck with clock := clock + elapsed, synced := true, syncTimer := some (length true) }
    let kept : NightClock := { s.nck with syncTimer := some (length s.nck.synced) }
    (flag ≠ 0 → flag ≠ 1 → exec (.syncTaken elapsed) s = .next { s with lkc := left }) ∧
    (flag = 0 ∨ flag = 1 →
      (s.nls.night.toNat < night.toNat → s.jnc.staging.length < 7 → s.jnc.seqCounter ≠ 0xFFFFFFFF →
        ∃ t, exec (.syncTaken elapsed) s = .next t ∧ t.nck = adopted ∧
          t.nls = { entries := [], night := night, closeSinceStart := true } ∧
          t.jnc.staging = s.jnc.staging ++
            [{ plainRecord s 7 2 with night := night, clock := clock + elapsed }] ∧
          t = { s with nls := t.nls, nck := t.nck, csq := t.csq, jnc := t.jnc, lkc := t.lkc, lms := t.lms } ∧
          LinkKept left t ∧ SameSequencerBut s.csq t.csq ∧ SameHoldsButJournal s.csq.holds t.csq.holds ∧
          StateByHolds s t ∧ JournalKept s.jnc t) ∧
      (s.nls.night.toNat < night.toNat → 7 ≤ s.jnc.staging.length ∨ s.jnc.seqCounter = 0xFFFFFFFF →
        exec (.syncTaken elapsed) s = .next { s with lkc := left, nck := kept }) ∧
      (night = s.nls.night → flag = 1 ∨ s.nck.synced = false →
        exec (.syncTaken elapsed) s = .next { s with lkc := left, nck := adopted }) ∧
      (night.toNat < s.nls.night.toNat ∨ (night = s.nls.night ∧ flag = 0 ∧ s.nck.synced = true) →
        (s.lkc.hasSync = true → exec (.syncTaken elapsed) s = .next { s with lkc := left, nck := kept }) ∧
        (s.lkc.hasSync = false → ∃ t, exec (.syncTaken elapsed) s = .next t ∧
          t = { s with
            lkc := t.lkc, nck := kept, draws := if s.lkc.phase = .free then s.draws + 1 else s.draws } ∧
          FrameQueued (.sync s.nck.clock s.nls.night s.nck.synced) left t.lkc)))

/-- R59, R60, R62, R143: a CLOSE is judged at its check byte whatever its source address, without an answer, and
this part sends none. One for a greater night sets the night, empties the list, sets the clock to 0 with
its flag kept, and stages a CLOSE record; IDLE and HELD follow the hold set, every other state stays (`StateByHolds`), and
so does the journal controller but for that record; one for no greater night, or without a general place, is ignored.
That one is
ignored too when no sequence number is left is log 17 (DEDUCED), that the bits of a frame come with CHECK_BYTE is log 13
(DEDUCED), and that a CONFIG_WRITE which comes to the head may be given the array at the staging is log 25
(DEDUCED). That a SYNC which waits in the queue takes the new night at its start mark, and not before, is the model's
choice (log 42, DESIGN CHOICE). -/
def Obligations.CloseTaken : Prop :=
  (∀ (b0 b1 : Byte) (f : Frame) (got more : List Bool) (s : State), Runs s → s.lkc.phase = .receiving →
    s.lkc.reception = .bits got → s.lkc.holding = false → got ++ more = Frame.bits f → f.kind = 0x38 →
    f.dest = 0 → f.payload = [b0, b1] → Frame.crcGood f = true → 1 ≤ f.source.toNat →
    f.source.toNat ≤ 15 →
    let judged : Judged :=
      { frame := f, crcGood := true, claimShaft := none, take := some (.close (b0 ++ b1)), driveA := false
        driveB := false }
    exec (.checkByte more) s = .next { s with lkc := { s.lkc with reception := .judged judged } }) ∧
  (∀ c : TxFrame, c.kindCode ≠ 0x38) ∧
  (∀ (night : W16) (rest : List RxMsg) (s : State), Runs s → s.phase = .service → ArrayRight s →
    s.lkc.rx = .close night :: rest →
    (night.toNat ≤ s.nls.night.toNat ∨ 7 ≤ s.jnc.staging.length ∨ s.jnc.seqCounter = 0xFFFFFFFF →
      exec .closeTaken s = .next { s with lkc := { s.lkc with rx := rest, holding := false } }) ∧
    (s.nls.night.toNat < night.toNat → s.jnc.staging.length < 7 → s.jnc.seqCounter ≠ 0xFFFFFFFF →
      ∃ t, exec .closeTaken s = .next t ∧
        t.nls = { entries := [], night := night, closeSinceStart := true } ∧
        t.nck = { s.nck with clock := 0 } ∧
        t.jnc.staging = s.jnc.staging ++ [{ plainRecord s 7 1 with night := night, clock := 0 }] ∧
        t = { s with nls := t.nls, nck := t.nck, csq := t.csq, jnc := t.jnc, lkc := t.lkc, lms := t.lms } ∧
        LinkKept { s.lkc with rx := rest, holding := false } t ∧ SameSequencerBut s.csq t.csq ∧
        SameHoldsButJournal s.csq.holds t.csq.holds ∧ StateByHolds s t ∧ JournalKept s.jnc t))

/-- R7, R25, R77, R116, R117, R133, R134, R187: CLEAR of a shaft, a bin or the station. After a CLEAR of a shaft or a
bin the own claim follows (`ClaimFollows`): a deferred one goes to SPACING where the own view is FREE and the own bin
not full by then; IDLE and HELD follow the hold set, every other state stays (`StateByHolds`). A CLEAR of the station ends
FAULT: its record is asked for and HOME entered; with the hatch OPEN, which the entry to HOME judges before an active home
switch (log 15, DEDUCED), FAULT is entered again, whose record follows the CLEAR record (for an own shaft that is not
self-held, as `SelfHeldRight` gives it outside TURN and FALL). An unknown target kind or an index above 3 has no effect
(log 16 says which command takes an unknown kind). A CONFIG_WRITE that comes to the
head of the receive queue may be given the array at the staging of the record (log 25, DEDUCED). -/
def Obligations.ClearTaken : Prop :=
  (∀ (index : Byte) (rest : List RxMsg) (s : State), Runs s → s.phase = .service → ArrayRight s →
    let left : Link := { s.lkc with rx := rest, holding := false }
    (∀ target : Byte, s.lkc.rx = .clear target index :: rest → target = 0 ∨ 3 < target.toNat →
      exec .clearShaft s = .next { s with lkc := left } ∧ exec .clearBin s = .next { s with lkc := left } ∧
      exec .clearStation s = .next { s with lkc := left }) ∧
    (s.lkc.rx = .clear 1 index :: rest →
      (3 < index.toNat → exec .clearShaft s = .next { s with lkc := left }) ∧
      (∀ i : Fin 4, index.toNat = i.val → ∃ t, exec .clearShaft s = .next t ∧
        t.shc.views.get i = (if s.shc.views.get i = .jammed then .free else s.shc.views.get i) ∧
        t.shc.holdAge.get i = (if s.shc.views.get i = .jammed then none else s.shc.holdAge.get i) ∧
        (∀ k, k ≠ i → t.shc.views.get k = s.shc.views.get k ∧
          t.shc.holdAge.get k = s.shc.holdAge.get k) ∧ t.shc.tallies = s.shc.tallies ∧
        ClaimFollows s t ∧ LinkKeptButQueue left t ∧
        (i = s.straps.shf → SameHoldsButJournal { s.csq.holds with jam := false } t.csq.holds ∧
          SameSequencerBut s.csq t.csq ∧ StateByHolds s t ∧ JournalKept s.jnc t ∧
          RecordAsked (generalRecord s 6 1 index 0 0 0xFF 0xFFFF 0xFFFF) s t) ∧
        (i ≠ s.straps.shf → t.csq = s.csq ∧ t.jnc = s.jnc ∧ t.lms = s.lms ∧ t.lkc.rx = rest) ∧
        t = { s with csq := t.csq, lkc := t.lkc, shc := t.shc, jnc := t.jnc, lms := t.lms })) ∧
    (s.lkc.rx = .clear 2 index :: rest →
      (3 < index.toNat → exec .clearBin s = .next { s with lkc := left }) ∧
      (∀ i : Fin 4, index.toNat = i.val → ∃ t, exec .clearBin s = .next t ∧
        t.shc.tallies.get i = { count := 0, mass := 0 } ∧
        (∀ k, k ≠ i → t.shc.tallies.get k = s.shc.tallies.get k) ∧ t.shc.views = s.shc.views ∧
        t.shc.holdAge = s.shc.holdAge ∧ ClaimFollows s t ∧ LinkKeptButQueue left t ∧
        (i = s.straps.shf → SameHoldsButJournal { s.csq.holds with binFull := false } t.csq.holds ∧
          SameSequencerBut s.csq t.csq ∧ StateByHolds s t ∧ JournalKept s.jnc t ∧
          RecordAsked (generalRecord s 6 2 index 0 0 0xFF 0xFFFF 0xFFFF) s t) ∧
        (i ≠ s.straps.shf → t.csq = s.csq ∧ t.jnc = s.jnc ∧ t.lms = s.lms ∧ t.lkc.rx = rest) ∧
        t = { s with csq := t.csq, lkc := t.lkc, shc := t.shc, jnc := t.jnc, lms := t.lms }))) ∧
  (∀ (index : Byte) (rest : List RxMsg) (s : State), Runs s → s.phase = .service → ArrayRight s →
    s.lkc.rx = .clear 3 index :: rest →
    (index ≠ s.ownByte ∨ s.csq.state ≠ .fault → exec .clearStation s =
      .next { s with lkc := { s.lkc with rx := rest, holding := false } }) ∧
    let left : Link := { s.lkc with rx := rest, holding := false }
    (index = s.ownByte → s.csq.state = .fault → s.csq.hatch = .closed →
      ∃ t, exec .clearStation s = .next t ∧
        RecordAsked (generalRecord s 6 3 index 0 0 0xFF 0xFFFF 0xFFFF) s t ∧ JournalKept s.jnc t ∧
        t.csq = { s.csq with
          state := t.csq.state, lock := t.csq.lock, holds := t.csq.holds, bag := PendingBag.absent
          homeLimit := t.csq.homeLimit } ∧
        t = { s with
          csq := t.csq, rct := t.rct, jnc := t.jnc, lkc := t.lkc, wch := t.wch, lms := t.lms } ∧
        LinkKept left t ∧ SameHoldsButJournal s.csq.holds t.csq.holds ∧
        ∃ drum, MotorStopped s.rct drum ∧ HomeEntered drum s t) ∧
    (index = s.ownByte → s.csq.state = .fault → s.csq.hatch = .opened → selfHeld s = false →
      let clear : List Record :=
        if s.jnc.staging.length < 7 ∧ s.jnc.seqCounter ≠ 0xFFFFFFFF then
          [generalRecord s 6 3 index 0 0 0xFF 0xFFFF 0xFFFF]
        else []
      let seq : W32 := if clear = [] then s.jnc.seqCounter else s.jnc.seqCounter + 1
      ∃ t, exec .clearStation s = .next t ∧
        t.jnc.staging = s.jnc.staging ++ clear ++
          (if s.jnc.staging.length + clear.length < 7 ∧ seq ≠ 0xFFFFFFFF then
            [{ plainRecord s 8 4 with seq := seq + 1 }]
          else []) ∧ JournalKept s.jnc t ∧
        t.csq = { s.csq with
          state := .fault, lock := .low, holds := t.csq.holds, bag := PendingBag.absent, claimWait := none
          accepted := none, retry := none, homeLimit := none, turnLimit := none, fallWindow := none
          landingSettle := none, weighed := none, tagEnded := false, returnWait := false, awaiting := none } ∧
        t = { s with csq := t.csq, rct := t.rct, jnc := t.jnc, lkc := t.lkc, lms := t.lms } ∧
        LinkKept left t ∧ SameHoldsButJournal s.csq.holds t.csq.holds ∧
        ∃ drum home, MotorStopped s.rct drum ∧ HomeAsked drum home ∧ MotorStopped home t.rct))

/-- R8, R11, R28, R187: HOLD with 00h is off and any other argument on. A change of AUDIT asks for a HOLD record
and takes IDLE to HELD, or a HELD whose set empties to IDLE, and leaves every other state (`StateByHolds`) and, but for
that record, the journal controller; a HOLD that changes nothing is only taken. A CONFIG_WRITE that comes to the head of
the receive queue may be given the array at the staging of the record (log 25, DEDUCED). -/
def Obligations.HoldTaken : Prop :=
  ∀ (arg : Byte) (rest : List RxMsg) (s : State), Runs s → s.phase = .service → ArrayRight s →
    s.lkc.rx = .hold arg :: rest →
    let on : Bool := decide (arg ≠ 0)
    (s.csq.holds.audit = on → exec .hold s = .next { s with lkc :=
      { s.lkc with rx := rest, holding := false } }) ∧
    (s.csq.holds.audit ≠ on → ∃ t, exec .hold s = .next t ∧ t.csq.holds.audit = on ∧
      RecordAsked (plainRecord s 11 (if on then 1 else 0)) s t ∧
      t = { s with csq := t.csq, jnc := t.jnc, lkc := t.lkc, lms := t.lms } ∧
      SameSequencerBut s.csq t.csq ∧ SameHoldsButJournal { s.csq.holds with audit := on } t.csq.holds ∧
      LinkKept { s.lkc with rx := rest, holding := false } t ∧ StateByHolds s t ∧ JournalKept s.jnc t)

/-- R104, R105, R154, R161, R163, R164, R171: AUDIT_MARK advances the mark to at most the newest written sequence, with
its record, and IDLE and HELD then follow the hold set (`StateByHolds`); READ_JOURNAL is served at once by an idle array (`ReadServed`), with one frame for each of up to 8 records
from the requested sequence on, the lowest first, queued one after another, and waits otherwise; a CONFIG_WRITE waits at
the head until the array is given to it, which a page-ahead erase may delay (logs 25 and 31, DEDUCED). -/
def Obligations.JournalFramesTaken : Prop :=
  (∀ (m : W32) (rest : List RxMsg) (s : State), Runs s → s.phase = .service → ArrayRight s →
    s.lkc.rx = .auditMark m :: rest →
    let mark : Nat := min m.toNat s.jnc.newest.toNat
    (mark ≤ s.jnc.auditMark.toNat → exec .auditMark s = .next { s with lkc :=
      { s.lkc with rx := rest, holding := false } }) ∧
    (s.jnc.auditMark.toNat < mark → ∃ t, exec .auditMark s = .next t ∧
      t.jnc.auditMark.toNat = mark ∧ t.jnc.newest = s.jnc.newest ∧
      RecordAsked (generalRecord s 10 0 (shaftByte s.straps.shf) (BitVec.ofNat 32 mark) 0 0xFF 0xFFFF
        0xFFFF) s t ∧
      t = { s with csq := t.csq, lkc := t.lkc, jnc := t.jnc, lms := t.lms } ∧
      LinkKept { s.lkc with rx := rest, holding := false } t ∧ SameSequencerBut s.csq t.csq ∧
      SameHoldsButJournal s.csq.holds t.csq.holds ∧ StateByHolds s t ∧
      JournalKept { s.jnc with auditMark := t.jnc.auditMark } t)) ∧
  (∀ (source count : Byte) (first : W32) (rest : List RxMsg) (s : State), Runs s → LinkRight s → AgesRight s →
    s.lkc.rx = .readJournal source first count :: rest →
    (s.jnc.array ≠ .idle → exec .readJournal s = .next { s with
      lkc := { s.lkc with rx := rest, holding := false }
      jnc := { s.jnc with pendingRead := some { source := source, from_ := first, count := count } } }) ∧
    (s.jnc.array = .idle → ∃ t, exec .readJournal s = .next t ∧
      t = { s with
        lkc := t.lkc, shc := { s.shc with phase := t.shc.phase }, draws := t.draws } ∧
      ReadServed { source := source, from_ := first, count := count } s.flash
        { s.lkc with rx := rest, holding := false } t.lkc)) ∧
  (∀ (offset : Byte) (data : List Byte) (rest : List RxMsg) (s : State), Runs s → s.phase = .service →
    s.lkc.rx = .configWrite offset data :: rest →
    (s.jnc.array ≠ .idle → exec .configWrite s = .next s) ∧
    (s.jnc.array = .idle → s.jnc.pendingRead = none → eraseWanted s = true →
      exec .configWrite s = .next { s with jnc := { s.jnc with
        array := .erase (pageAhead s.jnc.writePtr) } }) ∧
    (s.jnc.array = .idle → s.jnc.pendingRead = none → eraseWanted s = false →
      exec .configWrite s = .next { s with
        lkc := { s.lkc with rx := rest, holding := false }
        jnc := { s.jnc with array := .info offset data } }))

/-- R104, R105, R172, Table 9-2, Table 11-5: READ_STATE queues a STATE frame of 32 bytes for its source
(`FrameQueued`), with the contents of the moment at their offsets. At a full queue the frame, whose kind is the least
urgent of all, is discarded, and the drop count rises. -/
def Obligations.ReadStateTaken : Prop :=
  ∀ (source : Byte) (rest : List RxMsg) (s : State), Runs s → LinkRight s → AgesRight s →
    s.lkc.rx = .readState source :: rest →
    ∃ t p, exec .readState s = .next t ∧
      t = { s with lkc := t.lkc, draws := if s.lkc.phase = .free then s.draws + 1 else s.draws } ∧
      FrameQueued (.stateReport source p) { s.lkc with rx := rest, holding := false } t.lkc ∧
      p.length = 32 ∧ p[0]? = some (s.csq.state.code ||| if s.nck.synced then 0x80 else 0) ∧
      (∀ k : Fin 16, (wordAt16 p 1).getLsbD k.val =
        ([s.csq.holds.binFull, s.csq.holds.jam, s.csq.holds.journalFull, s.csq.holds.journalBusy,
          s.csq.holds.power, s.csq.holds.audit, s.csq.holds.zero, s.csq.holds.weigh,
          s.csq.holds.unconfigured, s.csq.holds.addressClash].getD k.val false)) ∧
      wordAt16 p 3 = s.nls.night ∧ wordAt32 p 5 = s.nck.clock ∧ wordAt32 p 9 = s.jnc.newest ∧
      wordAt32 p 13 = s.jnc.auditMark ∧
      p[17]? = some (BitVec.ofNat 8 (freeSlots s.flash s.jnc.writePtr)) ∧
      p[18]? = some (BitVec.ofNat 8 s.jnc.staging.length) ∧
      wordAt16 p 19 = BitVec.ofNat 16 s.nls.entries.length ∧
      wordAt16 p 21 = BitVec.ofNat 16 (ownTally s).count ∧
      wordAt32 p 23 = BitVec.ofNat 32 (ownTally s).mass ∧
      (∀ i : Fin 4, p[27 + i.val]? = some (match s.shc.views.get i with
        | .free => 0
        | .held h => h.setWidth 8
        | .jammed => 0xFF)) ∧
      p[31]? = some (BitVec.ofNat 8 s.lkc.dropCount)

/-! ## The flash array -/

/-- R15, R145, R149, R152 to R155, R163, R188: the completion of a programming writes the 32 bytes of the oldest
staged record at the write pointer (bits only from 1 to 0) and no other byte; the record leaves the queue, newest
written takes its sequence, the pointer advances to the next slot, and a deferred record takes the place it leaves, every
field of it stamped at this moment (R149: a DEPOSIT with CLOCK_FREE and NIGHT_PARTIAL of the moment); a sequencer that
waited for it in CHECK, or in CLAIM, enters PRESENT, and otherwise only IDLE and HELD follow the hold set. A READ_JOURNAL that waits is served
(`ReadServed`). That the bytes show at the completion is log 20 (DEDUCED), that a CONFIG_WRITE at the head of the
receive queue may then be given the array log 25 (DEDUCED). -/
def Obligations.ProgramCompletes : Prop :=
  ∀ (r : Record) (rest : List Record) (s : State), Runs s → s.phase = .service → FlashRight s →
    s.jnc.array = .program →
    s.jnc.staging = r :: rest → rest.length < 8 →
    ∃ t, exec .programCompletion s = .next t ∧ t.jnc.newest = r.seq ∧
      (rest = [] → s.jnc.deferred = none → t.jnc.writePtr = (s.jnc.writePtr + 1) % 512) ∧
      (∀ k, k < 32 → flashRead t.flash (32 * s.jnc.writePtr + k) =
        flashRead s.flash (32 * s.jnc.writePtr + k) &&& byteAt r.toBytes k) ∧
      (∀ a, a < 32 * s.jnc.writePtr ∨ 32 * s.jnc.writePtr + 32 ≤ a →
        flashRead t.flash a = flashRead s.flash a) ∧
      t.jnc = { s.jnc with
        staging := t.jnc.staging, newest := r.seq, writePtr := t.jnc.writePtr, deferred := none
        pendingRead := none, array := t.jnc.array
        seqCounter :=
          if s.jnc.deferred = none ∨ s.jnc.seqCounter = 0xFFFFFFFF then s.jnc.seqCounter
          else s.jnc.seqCounter + 1 } ∧
      t.shc.views = s.shc.views ∧ t.shc.holdAge = s.shc.holdAge ∧ t.shc.tallies = s.shc.tallies ∧
      t.csq = { s.csq with
        state := t.csq.state, lock := t.csq.lock, holds := t.csq.holds, returnWait := t.csq.returnWait } ∧
      SameHoldsButJournal s.csq.holds t.csq.holds ∧
      t = { s with
        csq := t.csq, lkc := t.lkc, shc := t.shc, jnc := t.jnc, lms := t.lms, flash := t.flash
        draws := t.draws } ∧
      (s.jnc.deferred = none ∨ s.jnc.seqCounter = 0xFFFFFFFF → t.jnc.staging = rest) ∧
      (∀ req, s.jnc.deferred = some req → s.jnc.seqCounter ≠ 0xFFFFFFFF →
        t.jnc.staging = rest ++
          [{ seq := s.jnc.seqCounter + 1, night := s.nls.night, clock := s.nck.clock, station := s.ownByte
             kind := req.kind.code, detail := req.detail
             flags := (if req.kind = .deposit then
                 { req.flags with clockFree := !s.nck.synced, nightPartial := !s.nls.closeSinceStart }
               else ExcFlags.empty).toByte
             shaft := req.shaft, serial := req.serial, account := req.account, bagType := req.bagType
             mass := req.mass, fall := req.fall, binCount := req.binCount }]) ∧
      (∀ req, s.jnc.deferred = some req → s.csq.returnWait = true →
        s.csq.state = .check ∨ s.csq.state = .claim →
        t.csq.state = .present ∧ t.csq.lock = .high ∧ t.csq.returnWait = false) ∧
      (s.jnc.deferred = none ∨ s.csq.returnWait = false ∨ (s.csq.state ≠ .check ∧ s.csq.state ≠ .claim) →
        t.csq.returnWait = s.csq.returnWait ∧ StateByHolds s t) ∧
      (s.jnc.pendingRead = none → t.shc = s.shc ∧ t.draws = s.draws ∧ LinkKept s.lkc t) ∧
      (∀ req, s.jnc.pendingRead = some req → LinkRight s → AgesRight s →
        ReadServed req t.flash s.lkc { t.lkc with rx := s.lkc.rx, holding := s.lkc.holding } ∧
        HeadKept s.lkc t) ∧
      t.csq.holds.journalBusy = decide (4 ≤ t.jnc.staging.length)

/-- R145, R154, R157, R163, R171: at the completion of an erase every byte of the page reads FFh and every other as
before; at that of an information-page operation the bytes up to place 73 have been programmed, after an erase of the
page at offset 0, and the journal pages read as before. JOURNAL_FULL is judged (R160), which may take HELD to IDLE or IDLE
to HELD. A READ_JOURNAL that waits is then served (`ReadServed`). That
the bytes show at the completion is log 20 (DEDUCED), that a CONFIG_WRITE at the head of the receive queue may then be
given the array log 25 (DEDUCED). -/
def Obligations.EraseAndInfoComplete : Prop :=
  ∀ s : State, Runs s → flashWf s.flash = true →
    (∀ page, s.jnc.array = .erase page → ∃ t, exec .eraseCompletion s = .next t ∧
      (∀ k, k < 1024 → flashRead t.flash (1024 * page + k) = 0xFF) ∧
      (∀ a, a < 1024 * page ∨ 1024 * page + 1024 ≤ a → flashRead t.flash a = flashRead s.flash a) ∧
      ArrayFreed s t ∧
      t.csq.holds.journalFull =
        (decide (freeSlots t.flash t.jnc.writePtr < 8) || t.jnc.seqCounter == 0xFFFFFFFF)) ∧
    (∀ offset data, s.jnc.array = .info offset data → ∃ t, exec .infoCompletion s = .next t ∧
      (∀ a, a < 16384 → flashRead t.flash a = flashRead s.flash a) ∧
      (∀ k, offset.toNat + k ≤ 73 → k < data.length →
        flashRead t.flash (16384 + offset.toNat + k) =
          (if offset = 0 then 0xFF else flashRead s.flash (16384 + offset.toNat + k)) &&& byteAt data k) ∧
      (offset = 0 → ∀ k, k < 1024 → 73 < k ∨ data.length ≤ k → flashRead t.flash (16384 + k) = 0xFF) ∧
      (offset ≠ 0 → ∀ a, a < 16384 + offset.toNat ∨ 16384 + 73 < a ∨
        16384 + offset.toNat + data.length ≤ a → flashRead t.flash a = flashRead s.flash a) ∧
      ArrayFreed s t ∧
      (t.csq.holds.journalFull = s.csq.holds.journalFull ∨ t.csq.holds.journalFull =
        (decide (freeSlots t.flash t.jnc.writePtr < 8) || t.jnc.seqCounter == 0xFFFFFFFF)))
end

