-- ==== Sys2Proof/Laws/Frames.lean ====
section
/-! SUPPORT. What the shared operations leave alone, said once for each: `QueueOp` for the operations of the
transmit queue, `JournalOp` for those of the journal controller. -/

namespace Sys2Proof.Machine

/-! ## The transmit queue -/

/-- From s to t only the link's queue and phase, the claim's fields of the coordinator, the retry interval
timer and the count of free values may have changed. -/
structure QueueOp (s t : State) : Prop where
  supply : t.supply = s.supply
  rstLow : t.rstLow = s.rstLow
  phase : t.phase = s.phase
  startKind : t.startKind = s.startKind
  straps : t.straps = s.straps
  cfg : t.cfg = s.cfg
  csq : t.csq = { s.csq with retry := t.csq.retry }
  wch : t.wch = s.wch
  tgi : t.tgi = s.tgi
  nls : t.nls = s.nls
  rct : t.rct = s.rct
  ldi : t.ldi = s.ldi
  rx : t.lkc.rx = s.lkc.rx
  holding : t.lkc.holding = s.lkc.holding
  views : t.shc.views = s.shc.views
  holdAge : t.shc.holdAge = s.shc.holdAge
  tallies : t.shc.tallies = s.shc.tallies
  nck : t.nck = s.nck
  jnc : t.jnc = s.jnc
  lms : t.lms = s.lms
  flash : t.flash = s.flash
  pending : t.pending = s.pending

theorem QueueOp.refl (s : State) : QueueOp s s := by constructor <;> rfl

theorem QueueOp.trans {s t u : State} (h : QueueOp s t) (k : QueueOp t u) : QueueOp s u where
  supply := k.supply.trans h.supply
  rstLow := k.rstLow.trans h.rstLow
  phase := k.phase.trans h.phase
  startKind := k.startKind.trans h.startKind
  straps := k.straps.trans h.straps
  cfg := k.cfg.trans h.cfg
  csq := by rw [k.csq, h.csq]
  wch := k.wch.trans h.wch
  tgi := k.tgi.trans h.tgi
  nls := k.nls.trans h.nls
  rct := k.rct.trans h.rct
  ldi := k.ldi.trans h.ldi
  rx := k.rx.trans h.rx
  holding := k.holding.trans h.holding
  views := k.views.trans h.views
  holdAge := k.holdAge.trans h.holdAge
  tallies := k.tallies.trans h.tallies
  nck := k.nck.trans h.nck
  jnc := k.jnc.trans h.jnc
  lms := k.lms.trans h.lms
  flash := k.flash.trans h.flash
  pending := k.pending.trans h.pending

theorem claimIdle_op (s : State) : QueueOp s (claimIdle s) := by constructor <;> rfl

theorem startRetry_op (s : State) : QueueOp s (startRetry s) := by constructor <;> rfl

theorem claimRefusedAtQueue_op (s : State) : QueueOp s (claimRefusedAtQueue s) := by
  unfold claimRefusedAtQueue
  dsimp only
  split
  · exact (claimIdle_op s).trans (startRetry_op _)
  · exact claimIdle_op s

theorem startFrame_op (s : State) : QueueOp s (startFrame s) := by
  unfold startFrame
  split
  · exact QueueOp.refl s
  · split
    · constructor <;> rfl
    · unfold sendStart
      constructor <;> (dsimp only; try split) <;> rfl

theorem startIfFree_op (s : State) : QueueOp s (startIfFree s) := by
  unfold startIfFree
  split
  · exact startFrame_op s
  · exact QueueOp.refl s

theorem joinQueue_op (c : TxFrame) (s : State) : QueueOp s (joinQueue c s) :=
  QueueOp.trans (by constructor <;> rfl) (startIfFree_op _)

theorem refuseQueue_op (c : TxFrame) (s : State) : QueueOp s (refuseQueue c s) := by
  unfold refuseQueue
  split
  · exact claimRefusedAtQueue_op s
  · exact QueueOp.refl s

theorem replaceEntry_op (c : TxFrame) (e : TxEntry) (s : State) : QueueOp s (replaceEntry c e s) := by
  unfold replaceEntry
  have h : QueueOp s { s with lkc := s.lkc.without e.age } := by constructor <;> rfl
  dsimp only
  split
  · exact h.trans ((claimRefusedAtQueue_op _).trans (joinQueue_op c _))
  · exact h.trans (joinQueue_op c _)

/-- R104, R105: whatever becomes of a frame that is queued, no more than the link's queue, the claim and the
free values change. -/
theorem queueFrame_op (c : TxFrame) (s : State) : QueueOp s (queueFrame c s) := by
  unfold queueFrame
  have h : QueueOp s { s with lkc := s.lkc.dropped } := by constructor <;> rfl
  split
  · exact refuseQueue_op c s
  · split
    · exact joinQueue_op c s
    · dsimp only
      split
      · exact h.trans (refuseQueue_op c _)
      · split
        · exact h.trans (replaceEntry_op c _ _)
        · exact h.trans (refuseQueue_op c _)

theorem queueSync_op (s : State) : QueueOp s (queueSync s) := by
  unfold queueSync
  split
  · exact QueueOp.refl s
  · exact queueFrame_op _ s

theorem withdrawClaim_op (s : State) : QueueOp s (withdrawClaim s) := by
  unfold withdrawClaim
  split
  · exact QueueOp.refl s
  · constructor <;> rfl

theorem foldl_queueFrame_op {α : Type} (f : α → TxFrame) (l : List α) (s : State) :
    QueueOp s (l.foldl (fun t r => queueFrame (f r) t) s) := by
  induction l generalizing s with
  | nil => exact QueueOp.refl s
  | cons a l ih => exact (queueFrame_op (f a) s).trans (ih _)

theorem serveRead_op (req : ReadReq) (s : State) : QueueOp s (serveRead req s) := by
  unfold serveRead
  split
  · exact queueFrame_op _ s
  · exact foldl_queueFrame_op (fun (r : Nat × Record) => TxFrame.journal req.source (slotBytes s.flash r.1)) _ s

/-! ## The journal controller -/

/-- No READ_JOURNAL waits at an idle array (R163). -/
abbrev NoReadWaits (s : State) : Prop := s.jnc.array = .idle → s.jnc.pendingRead = none

/-- From s to t only the journal controller, its two hold reasons, the receive queue and what serving a read
may touch have changed; without a read that waits, the transmit queue and the coordinator stay as well. -/
structure JournalOp (s t : State) : Prop where
  supply : t.supply = s.supply
  rstLow : t.rstLow = s.rstLow
  phase : t.phase = s.phase
  startKind : t.startKind = s.startKind
  straps : t.straps = s.straps
  cfg : t.cfg = s.cfg
  csq : t.csq = { s.csq with
    retry := t.csq.retry
    holds := { s.csq.holds with
      journalFull := t.csq.holds.journalFull, journalBusy := t.csq.holds.journalBusy } }
  wch : t.wch = s.wch
  tgi : t.tgi = s.tgi
  nls : t.nls = s.nls
  rct : t.rct = s.rct
  ldi : t.ldi = s.ldi
  views : t.shc.views = s.shc.views
  holdAge : t.shc.holdAge = s.shc.holdAge
  tallies : t.shc.tallies = s.shc.tallies
  nck : t.nck = s.nck
  auditMark : t.jnc.auditMark = s.jnc.auditMark
  newest : t.jnc.newest = s.jnc.newest
  lms : t.lms = s.lms
  flash : t.flash = s.flash
  pending : t.pending = s.pending
  rx : ∃ n, t.lkc.rx = s.lkc.rx.drop n
  holding : t.lkc.holding = s.lkc.holding ∨ t.lkc.holding = false
  quiet : NoReadWaits s → NoReadWaits t ∧ t.shc = s.shc ∧ t.draws = s.draws ∧
    t.csq.retry = s.csq.retry ∧ t.lkc = { s.lkc with rx := t.lkc.rx, holding := t.lkc.holding }

theorem QueueOp.journal {s t : State} (h : QueueOp s t)
    (hq : NoReadWaits s → t.shc = s.shc ∧ t.draws = s.draws ∧ t.csq.retry = s.csq.retry ∧
      t.lkc = { s.lkc with rx := t.lkc.rx, holding := t.lkc.holding }) : JournalOp s t where
  supply := h.supply
  rstLow := h.rstLow
  phase := h.phase
  startKind := h.startKind
  straps := h.straps
  cfg := h.cfg
  csq := by rw [h.csq]
  wch := h.wch
  tgi := h.tgi
  nls := h.nls
  rct := h.rct
  ldi := h.ldi
  views := h.views
  holdAge := h.holdAge
  tallies := h.tallies
  nck := h.nck
  auditMark := by rw [h.jnc]
  newest := by rw [h.jnc]
  lms := h.lms
  flash := h.flash
  pending := h.pending
  rx := ⟨0, h.rx⟩
  holding := Or.inl h.holding
  quiet := fun hn => ⟨by unfold NoReadWaits; rw [h.jnc]; exact hn, hq hn⟩

theorem JournalOp.refl (s : State) : JournalOp s s :=
  (QueueOp.refl s).journal (fun _ => ⟨rfl, rfl, rfl, rfl⟩)

theorem JournalOp.trans {s t u : State} (h : JournalOp s t) (k : JournalOp t u) : JournalOp s u where
  supply := k.supply.trans h.supply
  rstLow := k.rstLow.trans h.rstLow
  phase := k.phase.trans h.phase
  startKind := k.startKind.trans h.startKind
  straps := k.straps.trans h.straps
  cfg := k.cfg.trans h.cfg
  csq := by rw [k.csq, h.csq]
  wch := k.wch.trans h.wch
  tgi := k.tgi.trans h.tgi
  nls := k.nls.trans h.nls
  rct := k.rct.trans h.rct
  ldi := k.ldi.trans h.ldi
  views := k.views.trans h.views
  holdAge := k.holdAge.trans h.holdAge
  tallies := k.tallies.trans h.tallies
  nck := k.nck.trans h.nck
  auditMark := k.auditMark.trans h.auditMark
  newest := k.newest.trans h.newest
  lms := k.lms.trans h.lms
  flash := k.flash.trans h.flash
  pending := k.pending.trans h.pending
  rx := by
    obtain ⟨m, hm⟩ := h.rx
    obtain ⟨n, hn⟩ := k.rx
    exact ⟨m + n, by rw [hn, hm, List.drop_drop]⟩
  holding := by
    rcases k.holding with hk | hk
    · rw [hk]; exact h.holding
    · exact Or.inr hk
  quiet := fun hn => by
    obtain ⟨n1, a1, a2, a3, a4⟩ := h.quiet hn
    obtain ⟨n2, b1, b2, b3, b4⟩ := k.quiet n1
    exact ⟨n2, b1.trans a1, b2.trans a2, b3.trans a3, by rw [b4, a4]⟩

theorem judgeFull_op (s : State) : JournalOp s (judgeFull s) := by
  constructor <;> first | rfl | exact ⟨0, rfl⟩ | exact Or.inl rfl | exact fun h => ⟨h, rfl, rfl, rfl, rfl⟩

theorem judgeBusy_op (s : State) : JournalOp s (judgeBusy s) := by
  constructor <;> first | rfl | exact ⟨0, rfl⟩ | exact Or.inl rfl | exact fun h => ⟨h, rfl, rfl, rfl, rfl⟩

theorem takeRx_op (s : State) : JournalOp s (takeRx s) := by
  constructor <;>
    first | rfl | exact ⟨1, (List.drop_one).symm⟩ | exact Or.inr rfl | exact fun h => ⟨h, rfl, rfl, rfl, rfl⟩

theorem pushRecord_op (req : RecordReq) (s : State) : JournalOp s (pushRecord req s) := by
  constructor <;> first | rfl | exact ⟨0, rfl⟩ | exact Or.inl rfl | exact fun h => ⟨h, rfl, rfl, rfl, rfl⟩

/-- The array is given to an operation: no read waits at an idle array after it. -/
theorem startArray_op (a : FlashState) (h : a ≠ .idle) (s : State) :
    JournalOp s { s with jnc := { s.jnc with array := a } } := by
  constructor <;>
    first | rfl | exact ⟨0, rfl⟩ | exact Or.inl rfl | exact fun _ => ⟨fun e => absurd e h, rfl, rfl, rfl, rfl⟩

theorem startProgram_op (s : State) : JournalOp s (startProgram s) := by
  unfold startProgram
  have h : JournalOp s { s with jnc := { s.jnc with writePtr := skipSlots s.flash 32 s.jnc.writePtr } } := by
    constructor <;> first | rfl | exact ⟨0, rfl⟩ | exact Or.inl rfl | exact fun h => ⟨h, rfl, rfl, rfl, rfl⟩
  dsimp only
  split
  · exact (h.trans (judgeFull_op _)).trans (startArray_op _ (by simp) _)
  · exact h.trans (judgeFull_op _)

theorem giveOperation_op (s : State) : JournalOp s (giveOperation s) := by
  unfold giveOperation
  split
  · exact startArray_op _ (by simp) s
  · split
    · exact (takeRx_op s).trans (startArray_op _ (by simp) _)
    · split
      · exact JournalOp.refl s
      · exact startProgram_op s

theorem servePending_op {s : State} (h : s.jnc.array = .idle) : JournalOp s (servePending s) := by
  unfold servePending
  split
  · exact JournalOp.refl s
  · next req hr =>
    have h1 : JournalOp s { s with jnc := { s.jnc with pendingRead := none } } := by
      constructor <;>
        first | rfl | exact ⟨0, rfl⟩ | exact Or.inl rfl | exact fun _ => ⟨fun _ => rfl, rfl, rfl, rfl, rfl⟩
    have h2 := (serveRead_op req { s with jnc := { s.jnc with pendingRead := none } })
    exact
      { supply := h2.supply, rstLow := h2.rstLow, phase := h2.phase, startKind := h2.startKind
        straps := h2.straps, cfg := h2.cfg, csq := by rw [h2.csq], wch := h2.wch, tgi := h2.tgi
        nls := h2.nls, rct := h2.rct, ldi := h2.ldi, views := h2.views, holdAge := h2.holdAge
        tallies := h2.tallies, nck := h2.nck, auditMark := by rw [h2.jnc], newest := by rw [h2.jnc]
        lms := h2.lms, flash := h2.flash, pending := h2.pending, rx := ⟨0, h2.rx⟩
        holding := Or.inl h2.holding
        quiet := fun hn => by rw [hn h] at hr; cases hr }

/-- R154: what the giving of the array may change. -/
theorem giveArray_op (s : State) : JournalOp s (giveArray s) := by
  unfold giveArray
  split
  · next h => exact (servePending_op h.2).trans (giveOperation_op _)
  · exact JournalOp.refl s

theorem afterStaging_op (s : State) : JournalOp s (afterStaging s) :=
  ((judgeBusy_op s).trans (judgeFull_op _)).trans (giveArray_op _)

theorem stageNow_op (req : RecordReq) (s : State) : JournalOp s (stageNow req s) := by
  unfold stageNow
  split
  · exact JournalOp.refl s
  · exact (pushRecord_op req s).trans (afterStaging_op _)

/-- R150, R151, R180: what a record of a general kind may change. -/
theorem askGeneral_op (req : RecordReq) (s : State) : JournalOp s (askGeneral req s) := by
  unfold askGeneral holdForStart
  split
  · split
    · constructor <;> first | rfl | exact ⟨0, rfl⟩ | exact Or.inl rfl | exact fun h => ⟨h, rfl, rfl, rfl, rfl⟩
    · exact JournalOp.refl s
  · split
    · constructor <;> first | rfl | exact ⟨0, rfl⟩ | exact Or.inl rfl | exact fun h => ⟨h, rfl, rfl, rfl, rfl⟩
    · split
      · exact stageNow_op req s
      · exact JournalOp.refl s

/-- R150, R152: what a record of a bag kind may change. -/
theorem askBag_op (req : RecordReq) (s : State) : JournalOp s (askBag req s) := by
  unfold askBag
  split
  · exact stageNow_op req s
  · constructor <;> first | rfl | exact ⟨0, rfl⟩ | exact Or.inl rfl | exact fun h => ⟨h, rfl, rfl, rfl, rfl⟩

/-! ## What the staging queue holds afterwards -/

theorem startProgram_staging (s : State) : (startProgram s).jnc.staging = s.jnc.staging := by
  unfold startProgram
  dsimp only
  split <;> rfl

theorem giveOperation_staging (s : State) : (giveOperation s).jnc.staging = s.jnc.staging := by
  unfold giveOperation
  split
  · rfl
  · split
    · rfl
    · split
      · rfl
      · exact startProgram_staging s

theorem servePending_staging (s : State) : (servePending s).jnc.staging = s.jnc.staging := by
  unfold servePending
  split
  · rfl
  · rw [(serveRead_op _ _).jnc]

/-- R154: the giving of the array leaves the staging queue: a record leaves it only when it is written. -/
theorem giveArray_staging (s : State) : (giveArray s).jnc.staging = s.jnc.staging := by
  unfold giveArray
  split
  · rw [giveOperation_staging, servePending_staging]
  · rfl

theorem stageNow_staging (req : RecordReq) (s : State) :
    (stageNow req s).jnc.staging =
      if s.jnc.seqCounter = seqMax then s.jnc.staging else s.jnc.staging ++ [stamped s req] := by
  unfold stageNow
  split
  · rfl
  · unfold afterStaging
    rw [giveArray_staging]
    rfl

/-- R149 to R151: a record of a general kind in service, if it is not coalesced. -/
theorem askGeneral_staging (req : RecordReq) {s : State} (hp : s.phase = .service)
    (hc : coalesces s req = false) :
    (askGeneral req s).jnc.staging =
      if s.jnc.staging.length < 7 ∧ s.jnc.seqCounter ≠ seqMax then s.jnc.staging ++ [stamped s req]
      else s.jnc.staging := by
  unfold askGeneral
  rw [if_neg (by simp [hp]), if_neg (by simp [hc])]
  split
  · next h =>
    rw [stageNow_staging]
    by_cases hs : s.jnc.seqCounter = seqMax <;> simp [hs, h]
  · next h => rw [if_neg (by simp [h])]

/-- R151: only an UNCLAIMED record coalesces. -/
theorem coalesces_eq_false {req : RecordReq} (h : req.kind ≠ .unclaimed) (s : State) :
    coalesces s req = false := by
  simp [coalesces, h]

/-- R150, R152: a record of a bag kind joins the queue where it has a place and a sequence number is left. -/
theorem askBag_staging (req : RecordReq) (s : State) :
    (askBag req s).jnc.staging =
      if s.jnc.staging.length < 8 ∧ s.jnc.seqCounter ≠ seqMax then s.jnc.staging ++ [stamped s req]
      else s.jnc.staging := by
  unfold askBag bagPlace
  split
  · next h =>
    rw [stageNow_staging]
    simp only [Bool.or_eq_true, decide_eq_true_eq, beq_iff_eq] at h
    by_cases hs : s.jnc.seqCounter = seqMax
    · simp [hs]
    · simp only [hs, or_false] at h
      simp [hs, h]
  · next h =>
    simp only [Bool.or_eq_true, decide_eq_true_eq, beq_iff_eq, not_or] at h
    rw [if_neg (by simp [h.1])]

/-! ## The receive queue where the array is given -/

/-- From s to t the array has been given at most once, and a CONFIG_WRITE at the head of the receive queue has left it
only as the array was given to it. -/
structure HeadOp (s t : State) : Prop where
  busy : s.jnc.array ≠ .idle →
    t.jnc.array = s.jnc.array ∧ t.lkc.rx = s.lkc.rx ∧ t.lkc.holding = s.lkc.holding
  kept : HeadKept s.lkc t

theorem HeadOp.of_eq {s t : State} (ha : t.jnc.array = s.jnc.array) (hr : t.lkc.rx = s.lkc.rx)
    (hh : t.lkc.holding = s.lkc.holding) : HeadOp s t :=
  ⟨fun _ => ⟨ha, hr, hh⟩, .inl ⟨hr, hh⟩⟩

theorem HeadOp.refl (s : State) : HeadOp s s := .of_eq rfl rfl rfl

theorem HeadOp.trans {s t u : State} (h : HeadOp s t) (k : HeadOp t u) : HeadOp s u where
  busy hb := by
    obtain ⟨a, b, c⟩ := h.busy hb
    obtain ⟨a', b', c'⟩ := k.busy (a ▸ hb)
    exact ⟨a'.trans a, b'.trans b, c'.trans c⟩
  kept := by
    rcases h.kept with ⟨b, c⟩ | ⟨o, d, hr, hh, ha⟩
    · rcases k.kept with ⟨b', c'⟩ | ⟨o, d, hr, hh, ha⟩
      · exact .inl ⟨b'.trans b, c'.trans c⟩
      · exact .inr ⟨o, d, b ▸ hr, hh, ha⟩
    · obtain ⟨a', b', c'⟩ := k.busy (by rw [ha]; exact FlashState.noConfusion)
      exact .inr ⟨o, d, by rw [b']; exact hr, c'.trans hh, a'.trans ha⟩

theorem QueueOp.head {s t : State} (h : QueueOp s t) : HeadOp s t :=
  .of_eq (by rw [h.jnc]) h.rx h.holding

theorem startProgram_head {s : State} (hi : s.jnc.array = .idle) : HeadOp s (startProgram s) := by
  refine ⟨fun hb => absurd hi hb, .inl ?_⟩
  unfold startProgram
  dsimp only
  split <;> exact ⟨rfl, rfl⟩

/-- R154, R171: an idle array is given to a CONFIG_WRITE at the head of the receive queue, or the queue stands. -/
theorem giveOperation_head {s : State} (hi : s.jnc.array = .idle) : HeadOp s (giveOperation s) := by
  unfold giveOperation
  split
  · exact ⟨fun hb => absurd hi hb, .inl ⟨rfl, rfl⟩⟩
  · split
    · next o d hr =>
      refine ⟨fun hb => absurd hi hb, .inr ⟨o, d, ?_, rfl, rfl⟩⟩
      cases hx : s.lkc.rx with
      | nil => rw [hx] at hr; cases hr
      | cons a rest =>
        rw [hx] at hr
        cases hr
        simp [takeRx, hx]
    · split
      · exact .refl s
      · exact startProgram_head hi

theorem servePending_head (s : State) : HeadOp s (servePending s) := by
  unfold servePending
  split
  · exact .refl s
  · next req hr =>
    exact HeadOp.trans (t := { s with jnc := { s.jnc with pendingRead := none } }) (.of_eq rfl rfl rfl)
      (serveRead_op _ _).head

theorem servePending_array (s : State) : (servePending s).jnc.array = s.jnc.array := by
  unfold servePending
  split
  · rfl
  · rw [(serveRead_op _ _).jnc]

theorem giveArray_head (s : State) : HeadOp s (giveArray s) := by
  unfold giveArray
  split
  · next h => exact (servePending_head s).trans (giveOperation_head ((servePending_array s).trans h.2))
  · exact .refl s

theorem stageNow_head (req : RecordReq) (s : State) : HeadOp s (stageNow req s) := by
  unfold stageNow
  split
  · exact .refl s
  · exact HeadOp.trans (t := judgeFull (judgeBusy (pushRecord req s))) (.of_eq rfl rfl rfl) (giveArray_head _)

theorem askGeneral_head (req : RecordReq) (s : State) : HeadOp s (askGeneral req s) := by
  unfold askGeneral holdForStart
  split
  · split <;> exact .of_eq rfl rfl rfl
  · split
    · exact .of_eq rfl rfl rfl
    · split
      · exact stageNow_head req s
      · exact .refl s

theorem askBag_head (req : RecordReq) (s : State) : HeadOp s (askBag req s) := by
  unfold askBag
  split
  · exact stageNow_head req s
  · exact .of_eq rfl rfl rfl

/-- Where no READ_JOURNAL waits at an idle array, a journal operation leaves the link, but for a CONFIG_WRITE that has
been given the array. -/
theorem JournalOp.linkKept {s t : State} (h : JournalOp s t) (k : HeadOp s t) (hn : NoReadWaits s) :
    LinkKept s.lkc t := ⟨(h.quiet hn).2.2.2.2, k.kept⟩

theorem ArrayRight.noReadWaits {s : State} (h : ArrayRight s) : NoReadWaits s := fun hi => by
  by_contra hp
  exact h.2.2.1 hp hi

/-! ## What a staging leaves of the journal controller -/

theorem JournalKept.refl (s : State) : JournalKept s.jnc s := ⟨rfl, rfl, fun _ => ⟨rfl, rfl⟩⟩

theorem JournalKept.trans {j : Journal} {s t : State} (h : JournalKept j s) (k : JournalKept s.jnc t) :
    JournalKept j t := by
  obtain ⟨h1, h2, h3⟩ := h
  obtain ⟨k1, k2, k3⟩ := k
  refine ⟨by rw [k1, h1], by omega, fun hb => ?_⟩
  obtain ⟨hw, ha⟩ := h3 hb
  obtain ⟨kw, ka⟩ := k3 (by rw [ha]; exact hb)
  exact ⟨kw.trans hw, ka.trans ha⟩

theorem startProgram_journal {s : State} (hi : s.jnc.array = .idle) : JournalKept s.jnc (startProgram s) := by
  refine ⟨?_, ?_, fun hb => absurd hi hb⟩ <;> (unfold startProgram; dsimp only; split <;> rfl)

theorem giveOperation_journal {s : State} (hi : s.jnc.array = .idle) : JournalKept s.jnc (giveOperation s) := by
  unfold giveOperation
  split
  · exact ⟨rfl, rfl, fun hb => absurd hi hb⟩
  · split
    · exact ⟨rfl, rfl, fun hb => absurd hi hb⟩
    · split
      · exact .refl s
      · exact startProgram_journal hi

/-- R154: where no READ_JOURNAL waits, the giving of the array changes the operation and the write pointer only. -/
theorem giveArray_journal {s : State} (hn : NoReadWaits s) : JournalKept s.jnc (giveArray s) := by
  unfold giveArray
  split
  · next h => unfold servePending; rw [hn h.2]; exact giveOperation_journal h.2
  · exact .refl s

theorem stageNow_journal (req : RecordReq) {s : State} (hn : NoReadWaits s) :
    JournalKept s.jnc (stageNow req s) := by
  unfold stageNow
  split
  · exact .refl s
  · next hs =>
    have hp : JournalKept s.jnc (judgeFull (judgeBusy (pushRecord req s))) := by
      refine ⟨rfl, ?_, fun _ => ⟨rfl, rfl⟩⟩
      have hl : (s.jnc.seqCounter + 1).toNat = s.jnc.seqCounter.toNat + 1 := by
        have h1 := s.jnc.seqCounter.isLt
        have h2 : s.jnc.seqCounter.toNat ≠ 4294967295 := fun h => hs (BitVec.eq_of_toNat_eq (by simpa [seqMax] using h))
        rw [BitVec.toNat_add]
        simp
        omega
      simp only [judgeFull, judgeBusy, judgeHold, pushRecord, hl, List.length_append, List.length_singleton]
      omega
    exact hp.trans (giveArray_journal (s := judgeFull (judgeBusy (pushRecord req s))) hn)

theorem bumpLast_length : ∀ l : List Record, (bumpLast l).length = l.length
  | [] => rfl
  | [_] => rfl
  | _ :: q :: rest => congrArg (· + 1) (bumpLast_length (q :: rest))

/-- R149 to R151: what a record of a general kind leaves of the journal controller of a part in service. -/
theorem askGeneral_journal (req : RecordReq) {s : State} (hp : s.phase = .service) (hn : NoReadWaits s) :
    JournalKept s.jnc (askGeneral req s) := by
  unfold askGeneral
  rw [if_neg (by simp [hp])]
  split
  · exact ⟨rfl, by simp only [bumpLast_length], fun _ => ⟨rfl, rfl⟩⟩
  · split
    · exact stageNow_journal req hn
    · exact .refl s

/-- R149, R150: what a record of a bag kind that is not deferred leaves of the journal controller. -/
theorem askBag_journal (req : RecordReq) {s : State} (hb : bagPlace s = true) (hn : NoReadWaits s) :
    JournalKept s.jnc (askBag req s) := by
  unfold askBag
  rw [if_pos hb]
  exact stageNow_journal req hn

/-! ## The queued CLAIM withdrawn -/

theorem claimIdle_shc (s : State) : (claimIdle s).shc = noClaim s.shc := rfl

/-- R106: the withdrawal of the queued CLAIM. -/
theorem withdrawClaim_withdrawn (s : State) : ClaimWithdrawn s (withdrawClaim s) := by
  unfold withdrawClaim
  exact ⟨fun e he => by rw [he]; rfl, fun he => by rw [he]⟩

theorem withdrawClaim_shc (s : State) : (withdrawClaim s).shc = s.shc := by
  unfold withdrawClaim
  split <;> rfl

theorem withdrawClaim_lkc (s : State) :
    (withdrawClaim s).lkc = { s.lkc with queue := (withdrawClaim s).lkc.queue } := by
  unfold withdrawClaim
  split <;> rfl

end Sys2Proof.Machine
end

