-- ==== Sys2Proof/Laws/Queue.lean ====
section
/-! SUPPORT. What the queuing of a frame does to the link (`queueFrame_queued`) and to the own claim
(`queueFrame_claim`), said once, and of frames queued one after another. -/

namespace Sys2Proof.Machine

theorem txLast_spec (q : List TxEntry) (h : q ≠ []) :
    ∃ e, txLast q = some e ∧ e ∈ q ∧ ∀ f ∈ q, f.content.kindCode.toNat < e.content.kindCode.toNat ∨
      (f.content.kindCode = e.content.kindCode ∧ f.age ≤ e.age) := by
  induction q with
  | nil => exact absurd rfl h
  | cons a rest ih =>
    by_cases hr : rest = []
    · subst hr
      exact ⟨a, rfl, by simp, by simp⟩
    · obtain ⟨b, hb, hm, hmax⟩ := ih hr
      by_cases hab : a.before b = true
      · refine ⟨b, by simp [txLast, hb, hab], by simp [hm], ?_⟩
        intro f hf
        rcases List.mem_cons.1 hf with rfl | hf
        · simp only [TxEntry.before, Bool.or_eq_true, decide_eq_true_eq, Bool.and_eq_true, beq_iff_eq] at hab
          rcases hab with hab | ⟨hk, hag⟩
          · exact .inl hab
          · exact .inr ⟨hk, hag.le⟩
        · exact hmax f hf
      · refine ⟨a, by simp [txLast, hb, hab], by simp, ?_⟩
        have hba : b.content.kindCode.toNat < a.content.kindCode.toNat ∨
            (b.content.kindCode = a.content.kindCode ∧ b.age ≤ a.age) := by
          simp only [TxEntry.before, Bool.or_eq_true, decide_eq_true_eq, Bool.and_eq_true, beq_iff_eq,
            not_or, not_lt, not_and] at hab
          rcases hab.1.lt_or_eq with hk | hk
          · exact .inl hk
          · have he : a.content.kindCode = b.content.kindCode := BitVec.eq_of_toNat_eq hk.symm
            exact .inr ⟨he.symm, hab.2 he⟩
        intro f hf
        rcases List.mem_cons.1 hf with rfl | hf
        · exact .inr ⟨rfl, le_rfl⟩
        · rcases hmax f hf with h1 | ⟨h1, h2⟩ <;> rcases hba with h3 | ⟨h3, h4⟩
          · exact .inl (h1.trans h3)
          · exact .inl (h3 ▸ h1)
          · exact .inl (h1 ▸ h3)
          · exact .inr ⟨h1.trans h3, h2.trans h4⟩

theorem txHead_spec (q : List TxEntry) (h : q ≠ []) : ∃ e, txHead q = some e ∧ FirstInOrder e q := by
  induction q with
  | nil => exact absurd rfl h
  | cons a rest ih =>
    by_cases hr : rest = []
    · subst hr
      exact ⟨a, rfl, by simp, by simp⟩
    · obtain ⟨b, hb, hm, hmin⟩ := ih hr
      by_cases hba : b.before a = true
      · refine ⟨b, by simp [txHead, hb, hba], by simp [hm], ?_⟩
        intro f hf
        rcases List.mem_cons.1 hf with rfl | hf
        · simp only [TxEntry.before, Bool.or_eq_true, decide_eq_true_eq, Bool.and_eq_true, beq_iff_eq] at hba
          rcases hba with hba | ⟨hk, hag⟩
          · exact .inl hba
          · exact .inr ⟨hk, hag.le⟩
        · exact hmin f hf
      · refine ⟨a, by simp [txHead, hb, hba], by simp, ?_⟩
        have hab : a.content.kindCode.toNat < b.content.kindCode.toNat ∨
            (a.content.kindCode = b.content.kindCode ∧ a.age ≤ b.age) := by
          simp only [TxEntry.before, Bool.or_eq_true, decide_eq_true_eq, Bool.and_eq_true, beq_iff_eq,
            not_or, not_lt, not_and] at hba
          rcases hba.1.lt_or_eq with hk | hk
          · exact .inl hk
          · have he : b.content.kindCode = a.content.kindCode := BitVec.eq_of_toNat_eq hk.symm
            exact .inr ⟨he.symm, hba.2 he⟩
        intro f hf
        rcases List.mem_cons.1 hf with rfl | hf
        · exact .inr ⟨rfl, le_rfl⟩
        · rcases hmin f hf with h1 | ⟨h1, h2⟩ <;> rcases hab with h3 | ⟨h3, h4⟩
          · exact .inl (h3.trans h1)
          · exact .inl (h3 ▸ h1)
          · exact .inl (h1 ▸ h3)
          · exact .inr ⟨h3.trans h1, h4.trans h2⟩

/-- R90, R92, R118, R139: what the start of a frame does to the link, the claim phase and the count of free values. -/
theorem startFrame_started {s : State} {e : TxEntry} (he : txHead s.lkc.queue = some e) :
    FrameStarted e s s.lkc (startFrame s).lkc ∧
    (startFrame s).shc = { s.shc with phase :=
      if (startFrame s).lkc.phase = .transmitting ∧ e.content.isClaim = true then .sending else s.shc.phase } ∧
    (startFrame s).draws = s.draws + 1 := by
  unfold startFrame
  rw [he]
  dsimp only
  split
  · exact ⟨.inl rfl, rfl, rfl⟩
  · refine ⟨.inr ?_, ?_, rfl⟩
    · unfold sendStart loadEntry loadedContent State.draw
      rfl
    · cases h : e.content.isClaim <;> simp [sendStart, h, State.draw]

/-- R105: a full queue has a candidate, since at most one of its entries is in transmission. -/
theorem txCandidate_leastUrgent {s : State} (ha : AgesRight s) (hf : s.lkc.queue.length = 8) :
    ∃ e, txCandidate s.lkc = some e ∧ LeastUrgent e s.lkc := by
  have hne : s.lkc.queue.filter (fun e => some e.age != s.lkc.inTx) ≠ [] := by
    obtain ⟨hnd, -⟩ := ha
    match hq : s.lkc.queue, hf with
    | a :: b :: rest, _ =>
      rw [hq] at hnd
      have hab : a.age ≠ b.age := by
        simp only [List.map_cons, List.nodup_cons, List.mem_cons, not_or] at hnd
        exact hnd.1.1
      intro h
      have h1 := List.filter_eq_nil_iff.1 h a (by simp)
      have h2 := List.filter_eq_nil_iff.1 h b (by simp)
      simp only [bne_iff_ne, ne_eq, not_not] at h1 h2
      exact hab (Option.some.inj (h1.trans h2.symm))
  obtain ⟨e, he, hm, hmax⟩ := txLast_spec _ hne
  simp only [List.mem_filter, bne_iff_ne, ne_eq] at hm hmax
  exact ⟨e, he, hm.1, hm.2, fun f hq hi => hmax f ⟨hq, hi⟩⟩

/-- R104: in FREE nothing waits, so the entry that joins is started, unless another start mark has come first. -/
theorem startFrame_single {s : State} {c : TxFrame} {n : Nat} (hq : s.lkc.queue = [⟨c, 0, n⟩]) (hc : loadedContent s c = c) :
    (startFrame s).lkc = { s.lkc with phase := .receiving, settleTime := 0, reception := .bits [] } ∨
    (startFrame s).lkc =
      { s.lkc with phase := .transmitting, settleTime := 0, reception := .bits [], inTx := some n } := by
  unfold startFrame
  rw [hq]
  simp only [txHead]
  split
  · exact .inl rfl
  · right
    have hl : loadEntry s.draw n = s.lkc.queue := by
      simp only [loadEntry, State.draw, hq, List.map_cons, List.map_nil, if_true]
      cases c <;> first | rfl | exact congrArg (fun x => [(⟨x, 0, n⟩ : TxEntry)]) hc
    show { s.draw.lkc with
      phase := .transmitting, settleTime := 0, reception := .bits [], inTx := some n
      queue := loadEntry s.draw n } = _
    rw [hl]
    rfl

/-- R104, R105: what queuing a frame does to the link, for every frame but a second CLAIM. -/
theorem queueFrame_queued {c : TxFrame} {s : State} (hl : LinkRight s) (ha : AgesRight s)
    (hc : c.isClaim = true → s.lkc.hasClaim = false) (hs : loadedContent s c = c) :
    FrameQueued c s.lkc (queueFrame c s).lkc := by
  have h2 : (c.isClaim && s.lkc.hasClaim) = false := by
    cases h : c.isClaim with
    | false => rfl
    | true => simp [hc h]
  unfold queueFrame
  rw [h2]
  refine ⟨fun h8 hp => ?_, fun h8 hp => ?_, fun h8 => ?_⟩
  · simp [h8, joinQueue, startIfFree, hp, Link.push]
  · have hq : s.lkc.queue = [] := hl.2.2.2 hp
    rw [if_neg (by simp), if_pos h8, joinQueue, startIfFree, if_pos (show (s.lkc.push c).phase = .free from hp)]
    exact startFrame_single (c := c) (s := { s with lkc := s.lkc.push c }) (by simp [Link.push, hq])
      (by cases c <;> first | rfl | exact hs)
  · obtain ⟨e, he, hu⟩ := txCandidate_leastUrgent ha h8
    have hp : s.lkc.phase ≠ .free := fun hp => by simp [hl.2.2.2 hp] at h8
    refine ⟨e, hu, fun hk => ?_, fun hk => ?_⟩
    · simp [h8, he, hk, replaceEntry, joinQueue, startIfFree, Link.dropped, Link.without, Link.push, saturate]
      split
      · unfold claimRefusedAtQueue
        split <;> simp [claimIdle, startRetry, hp]
      · simp
    · simp [h8, he, Nat.not_lt.2 hk, refuseQueue, Link.dropped, saturate]
      split
      · unfold claimRefusedAtQueue
        split <;> simp [claimIdle, startRetry]
      · rfl

/-- R105: a full queue has one candidate: no two entries are of one age. -/
theorem txCandidate_eq {s : State} {e : TxEntry} (ha : AgesRight s) (hf : s.lkc.queue.length = 8)
    (hu : LeastUrgent e s.lkc) : txCandidate s.lkc = some e := by
  obtain ⟨e', he', hm', hi', hmax'⟩ := txCandidate_leastUrgent ha hf
  obtain ⟨hm, hi, hmax⟩ := hu
  have hage : e'.age = e.age := by
    rcases hmax e' hm' hi' with h1 | ⟨h1, h1'⟩ <;> rcases hmax' e hm hi with h2 | ⟨h2, h2'⟩
    · omega
    · rw [h2] at h1; omega
    · rw [h1] at h2; omega
    · omega
  rw [he', List.inj_on_of_nodup_map ha.1 hm' hm hage]

/-- R105, R118: what the queuing of a frame that is no CLAIM does to the own claim. -/
theorem queueFrame_claim {c : TxFrame} {s : State} (hl : LinkRight s) (ha : AgesRight s)
    (hc : c.isClaim = false) : ClaimAfterQueuing c s (queueFrame c s) := by
  unfold queueFrame
  simp only [hc, Bool.false_and, Bool.false_eq_true, if_false]
  refine ⟨fun h8 => ?_, fun e h8 hu => ?_⟩
  · rw [if_pos h8]
    unfold joinQueue startIfFree
    split
    · next hp =>
      have hq : s.lkc.queue = [] := hl.2.2.2 hp
      unfold startFrame
      simp only [Link.push, hq, List.nil_append, txHead]
      split
      · rfl
      · simp [sendStart, State.draw, hc]
    · rfl
  · have hp : s.lkc.phase ≠ .free := fun hp => by simp [hl.2.2.2 hp] at h8
    have he := txCandidate_eq ha h8 hu
    simp only [h8, lt_irrefl, if_false, he]
    refine ⟨fun ⟨hk, hlt⟩ => ?_, fun h => ?_⟩
    · rw [if_pos hlt]
      unfold replaceEntry joinQueue startIfFree claimRefusedAtQueue
      simp only [hk, if_true]
      split <;> split <;> first | rfl | (next hx => exact absurd hx hp)
    · split
      · next hlt =>
        have hk : e.content.isClaim = false := h.resolve_right (by omega)
        unfold replaceEntry joinQueue startIfFree
        simp only [hk, Bool.false_eq_true, if_false]
        split
        · next hx => exact absurd hx hp
        · rfl
      · simp only [refuseQueue, hc, Bool.false_eq_true, if_false]

/-- R104: a frame queued leaves the transmit queue within its length, with at most one CLAIM and ages of their own. -/
theorem FrameQueued.keeps {c : TxFrame} {s t : State} (h : FrameQueued c s.lkc t.lkc) (hl : LinkRight s)
    (ha : AgesRight s) (hc : c.isClaim = true → s.lkc.hasClaim = false) (hrx : t.lkc.rx = s.lkc.rx) :
    LinkRight t ∧ AgesRight t := by
  obtain ⟨hr, h8, h1, hfree⟩ := hl
  obtain ⟨hnd, hlt⟩ := ha
  have joined {q : List TxEntry} (hq : q.Sublist s.lkc.queue) (hlen : q.length < 8)
      (htq : t.lkc.queue = q ++ [{ content := c, attempts := 0, age := s.lkc.nextAge }])
      (hta : t.lkc.nextAge = s.lkc.nextAge + 1) (hp : t.lkc.phase ≠ .free) : LinkRight t ∧ AgesRight t := by
    refine ⟨⟨hrx ▸ hr, by simp [htq]; omega, ?_, fun h => absurd h hp⟩, ?_, fun e he => ?_⟩
    · rw [htq, List.filter_append, List.length_append]
      cases hcc : c.isClaim with
      | false =>
        have := (hq.filter (fun e => e.content.isClaim)).length_le
        simp [hcc]
        omega
      | true =>
        have hn : q.filter (fun e => e.content.isClaim) = [] := by
          rw [List.filter_eq_nil_iff]
          intro e he
          exact List.any_eq_false.1 (hc hcc) e (hq.subset he)
        simp [hn, hcc]
    · rw [htq, List.map_append, List.map_cons, List.map_nil, List.nodup_append]
      refine ⟨(hq.map _).nodup hnd, List.nodup_singleton _, fun a ha b hb => ?_⟩
      obtain ⟨e, he, rfl⟩ := List.mem_map.1 ha
      rw [List.mem_singleton.1 hb]
      exact (hlt e (hq.subset he)).ne
    · rw [hta]
      rw [htq] at he
      rcases List.mem_append.1 he with he | he
      · exact (hlt e (hq.subset he)).trans (Nat.lt_succ_self _)
      · rw [List.mem_singleton.1 he]
        exact Nat.lt_succ_self _
  obtain ⟨ha', hb', hc'⟩ := h
  rcases Nat.lt_or_ge s.lkc.queue.length 8 with hlen | hlen
  · by_cases hp : s.lkc.phase = .free
    · rcases hb' hlen hp with e | e <;>
        exact joined (List.Sublist.refl _) hlen (by rw [e]) (by rw [e]) (by rw [e]; exact LinkPhase.noConfusion)
    · have e := ha' hlen hp
      exact joined (List.Sublist.refl _) hlen (by rw [e]) (by rw [e]) (by rw [e]; exact hp)
  · have h8' : s.lkc.queue.length = 8 := le_antisymm h8 hlen
    have hp : s.lkc.phase ≠ .free := fun hp => by simp [hfree hp] at h8'
    obtain ⟨e, hu, hk, hd⟩ := hc' h8'
    rcases Nat.lt_or_ge c.kindCode.toNat e.content.kindCode.toNat with hlt' | hge
    · have ht := hk hlt'
      have hlen' : (s.lkc.queue.filter (fun f => f.age != e.age)).length < 8 := by
        rw [← h8', List.length_filter_lt_length_iff_exists]
        exact ⟨e, hu.1, by simp⟩
      exact joined List.filter_sublist hlen' (by rw [ht]) (by rw [ht]) (by rw [ht]; exact hp)
    · have ht := hd hge
      refine ⟨⟨hrx ▸ hr, by rw [ht]; exact h8, by rw [ht]; exact h1, by rw [ht]; exact hfree⟩, ?_, ?_⟩
      · rw [ht]; exact hnd
      · rw [ht]; exact hlt

/-- R104, R105: frames that are no CLAIM, queued one after another. -/
theorem foldl_framesQueued {α : Type} (f : α → TxFrame) (hf : ∀ a, (f a).isClaim = false)
    (hs : ∀ a u, loadedContent u (f a) = f a) (l : List α) {s : State} (hl : LinkRight s) (ha : AgesRight s) :
    FramesQueued (l.map f) s.lkc (l.foldl (fun t r => queueFrame (f r) t) s).lkc := by
  induction l generalizing s with
  | nil => rfl
  | cons a l ih =>
    have hn : (f a).isClaim = true → s.lkc.hasClaim = false := by simp [hf a]
    have hq := queueFrame_queued hl ha hn (hs a s)
    obtain ⟨h1, h2⟩ := hq.keeps hl ha hn (queueFrame_op _ _).rx
    exact ⟨_, hq, ih h1 h2⟩

end Sys2Proof.Machine
end

