-- ==== Sys2Proof/Laws/State.lean ====
section
/-! SUPPORT. One lemma for each field that a named update of the state leaves or sets: a later proof unfolds no
record update. Generated from the updates' definitions, every lemma true by rfl,
but for the last section, on entering reset. -/

namespace Sys2Proof.Machine


/-! `State.draw` -/

@[simp] theorem State.draw_supply (s : State) : s.draw.supply = s.supply := rfl
@[simp] theorem State.draw_rstLow (s : State) : s.draw.rstLow = s.rstLow := rfl
@[simp] theorem State.draw_phase (s : State) : s.draw.phase = s.phase := rfl
@[simp] theorem State.draw_startKind (s : State) : s.draw.startKind = s.startKind := rfl
@[simp] theorem State.draw_straps (s : State) : s.draw.straps = s.straps := rfl
@[simp] theorem State.draw_cfg (s : State) : s.draw.cfg = s.cfg := rfl
@[simp] theorem State.draw_csq (s : State) : s.draw.csq = s.csq := rfl
@[simp] theorem State.draw_wch (s : State) : s.draw.wch = s.wch := rfl
@[simp] theorem State.draw_tgi (s : State) : s.draw.tgi = s.tgi := rfl
@[simp] theorem State.draw_nls (s : State) : s.draw.nls = s.nls := rfl
@[simp] theorem State.draw_rct (s : State) : s.draw.rct = s.rct := rfl
@[simp] theorem State.draw_ldi (s : State) : s.draw.ldi = s.ldi := rfl
@[simp] theorem State.draw_lkc (s : State) : s.draw.lkc = s.lkc := rfl
@[simp] theorem State.draw_shc (s : State) : s.draw.shc = s.shc := rfl
@[simp] theorem State.draw_nck (s : State) : s.draw.nck = s.nck := rfl
@[simp] theorem State.draw_jnc (s : State) : s.draw.jnc = s.jnc := rfl
@[simp] theorem State.draw_lms (s : State) : s.draw.lms = s.lms := rfl
@[simp] theorem State.draw_flash (s : State) : s.draw.flash = s.flash := rfl
@[simp] theorem State.draw_draws (s : State) : s.draw.draws = s.draws + 1 := rfl
@[simp] theorem State.draw_pending (s : State) : s.draw.pending = s.pending := rfl

/-! `raiseHold` -/

@[simp] theorem raiseHold_supply (r : HoldReason) (s : State) : (raiseHold r s).supply = s.supply := rfl
@[simp] theorem raiseHold_rstLow (r : HoldReason) (s : State) : (raiseHold r s).rstLow = s.rstLow := rfl
@[simp] theorem raiseHold_phase (r : HoldReason) (s : State) : (raiseHold r s).phase = s.phase := rfl
@[simp] theorem raiseHold_startKind (r : HoldReason) (s : State) : (raiseHold r s).startKind = s.startKind := rfl
@[simp] theorem raiseHold_straps (r : HoldReason) (s : State) : (raiseHold r s).straps = s.straps := rfl
@[simp] theorem raiseHold_cfg (r : HoldReason) (s : State) : (raiseHold r s).cfg = s.cfg := rfl
@[simp] theorem raiseHold_csq_state (r : HoldReason) (s : State) : (raiseHold r s).csq.state = s.csq.state := rfl
@[simp] theorem raiseHold_csq_holds (r : HoldReason) (s : State) : (raiseHold r s).csq.holds = s.csq.holds.put r true := rfl
@[simp] theorem raiseHold_csq_bag (r : HoldReason) (s : State) : (raiseHold r s).csq.bag = s.csq.bag := rfl
@[simp] theorem raiseHold_csq_claimWait (r : HoldReason) (s : State) : (raiseHold r s).csq.claimWait = s.csq.claimWait := rfl
@[simp] theorem raiseHold_csq_accepted (r : HoldReason) (s : State) : (raiseHold r s).csq.accepted = s.csq.accepted := rfl
@[simp] theorem raiseHold_csq_retry (r : HoldReason) (s : State) : (raiseHold r s).csq.retry = s.csq.retry := rfl
@[simp] theorem raiseHold_csq_homeLimit (r : HoldReason) (s : State) : (raiseHold r s).csq.homeLimit = s.csq.homeLimit := rfl
@[simp] theorem raiseHold_csq_turnLimit (r : HoldReason) (s : State) : (raiseHold r s).csq.turnLimit = s.csq.turnLimit := rfl
@[simp] theorem raiseHold_csq_fallWindow (r : HoldReason) (s : State) : (raiseHold r s).csq.fallWindow = s.csq.fallWindow := rfl
@[simp] theorem raiseHold_csq_landingSettle (r : HoldReason) (s : State) : (raiseHold r s).csq.landingSettle = s.csq.landingSettle := rfl
@[simp] theorem raiseHold_csq_weighSeen (r : HoldReason) (s : State) : (raiseHold r s).csq.weighSeen = (s.csq.weighSeen || (r == .weigh && s.csq.state == .check)) := rfl
@[simp] theorem raiseHold_csq_hatch (r : HoldReason) (s : State) : (raiseHold r s).csq.hatch = s.csq.hatch := rfl
@[simp] theorem raiseHold_csq_lock (r : HoldReason) (s : State) : (raiseHold r s).csq.lock = s.csq.lock := rfl
@[simp] theorem raiseHold_csq_weighed (r : HoldReason) (s : State) : (raiseHold r s).csq.weighed = s.csq.weighed := rfl
@[simp] theorem raiseHold_csq_tagEnded (r : HoldReason) (s : State) : (raiseHold r s).csq.tagEnded = s.csq.tagEnded := rfl
@[simp] theorem raiseHold_csq_returnWait (r : HoldReason) (s : State) : (raiseHold r s).csq.returnWait = s.csq.returnWait := rfl
@[simp] theorem raiseHold_csq_awaiting (r : HoldReason) (s : State) : (raiseHold r s).csq.awaiting = s.csq.awaiting := rfl
@[simp] theorem raiseHold_wch (r : HoldReason) (s : State) : (raiseHold r s).wch = s.wch := rfl
@[simp] theorem raiseHold_tgi (r : HoldReason) (s : State) : (raiseHold r s).tgi = s.tgi := rfl
@[simp] theorem raiseHold_nls (r : HoldReason) (s : State) : (raiseHold r s).nls = s.nls := rfl
@[simp] theorem raiseHold_rct (r : HoldReason) (s : State) : (raiseHold r s).rct = s.rct := rfl
@[simp] theorem raiseHold_ldi (r : HoldReason) (s : State) : (raiseHold r s).ldi = s.ldi := rfl
@[simp] theorem raiseHold_lkc (r : HoldReason) (s : State) : (raiseHold r s).lkc = s.lkc := rfl
@[simp] theorem raiseHold_shc (r : HoldReason) (s : State) : (raiseHold r s).shc = s.shc := rfl
@[simp] theorem raiseHold_nck (r : HoldReason) (s : State) : (raiseHold r s).nck = s.nck := rfl
@[simp] theorem raiseHold_jnc (r : HoldReason) (s : State) : (raiseHold r s).jnc = s.jnc := rfl
@[simp] theorem raiseHold_lms (r : HoldReason) (s : State) : (raiseHold r s).lms = s.lms := rfl
@[simp] theorem raiseHold_flash (r : HoldReason) (s : State) : (raiseHold r s).flash = s.flash := rfl
@[simp] theorem raiseHold_draws (r : HoldReason) (s : State) : (raiseHold r s).draws = s.draws := rfl
@[simp] theorem raiseHold_pending (r : HoldReason) (s : State) : (raiseHold r s).pending = s.pending := rfl

/-! `clearHold` -/

@[simp] theorem clearHold_supply (r : HoldReason) (s : State) : (clearHold r s).supply = s.supply := rfl
@[simp] theorem clearHold_rstLow (r : HoldReason) (s : State) : (clearHold r s).rstLow = s.rstLow := rfl
@[simp] theorem clearHold_phase (r : HoldReason) (s : State) : (clearHold r s).phase = s.phase := rfl
@[simp] theorem clearHold_startKind (r : HoldReason) (s : State) : (clearHold r s).startKind = s.startKind := rfl
@[simp] theorem clearHold_straps (r : HoldReason) (s : State) : (clearHold r s).straps = s.straps := rfl
@[simp] theorem clearHold_cfg (r : HoldReason) (s : State) : (clearHold r s).cfg = s.cfg := rfl
@[simp] theorem clearHold_csq_state (r : HoldReason) (s : State) : (clearHold r s).csq.state = s.csq.state := rfl
@[simp] theorem clearHold_csq_holds (r : HoldReason) (s : State) : (clearHold r s).csq.holds = s.csq.holds.put r false := rfl
@[simp] theorem clearHold_csq_bag (r : HoldReason) (s : State) : (clearHold r s).csq.bag = s.csq.bag := rfl
@[simp] theorem clearHold_csq_claimWait (r : HoldReason) (s : State) : (clearHold r s).csq.claimWait = s.csq.claimWait := rfl
@[simp] theorem clearHold_csq_accepted (r : HoldReason) (s : State) : (clearHold r s).csq.accepted = s.csq.accepted := rfl
@[simp] theorem clearHold_csq_retry (r : HoldReason) (s : State) : (clearHold r s).csq.retry = s.csq.retry := rfl
@[simp] theorem clearHold_csq_homeLimit (r : HoldReason) (s : State) : (clearHold r s).csq.homeLimit = s.csq.homeLimit := rfl
@[simp] theorem clearHold_csq_turnLimit (r : HoldReason) (s : State) : (clearHold r s).csq.turnLimit = s.csq.turnLimit := rfl
@[simp] theorem clearHold_csq_fallWindow (r : HoldReason) (s : State) : (clearHold r s).csq.fallWindow = s.csq.fallWindow := rfl
@[simp] theorem clearHold_csq_landingSettle (r : HoldReason) (s : State) : (clearHold r s).csq.landingSettle = s.csq.landingSettle := rfl
@[simp] theorem clearHold_csq_weighSeen (r : HoldReason) (s : State) : (clearHold r s).csq.weighSeen = s.csq.weighSeen := rfl
@[simp] theorem clearHold_csq_hatch (r : HoldReason) (s : State) : (clearHold r s).csq.hatch = s.csq.hatch := rfl
@[simp] theorem clearHold_csq_lock (r : HoldReason) (s : State) : (clearHold r s).csq.lock = s.csq.lock := rfl
@[simp] theorem clearHold_csq_weighed (r : HoldReason) (s : State) : (clearHold r s).csq.weighed = s.csq.weighed := rfl
@[simp] theorem clearHold_csq_tagEnded (r : HoldReason) (s : State) : (clearHold r s).csq.tagEnded = s.csq.tagEnded := rfl
@[simp] theorem clearHold_csq_returnWait (r : HoldReason) (s : State) : (clearHold r s).csq.returnWait = s.csq.returnWait := rfl
@[simp] theorem clearHold_csq_awaiting (r : HoldReason) (s : State) : (clearHold r s).csq.awaiting = s.csq.awaiting := rfl
@[simp] theorem clearHold_wch (r : HoldReason) (s : State) : (clearHold r s).wch = s.wch := rfl
@[simp] theorem clearHold_tgi (r : HoldReason) (s : State) : (clearHold r s).tgi = s.tgi := rfl
@[simp] theorem clearHold_nls (r : HoldReason) (s : State) : (clearHold r s).nls = s.nls := rfl
@[simp] theorem clearHold_rct (r : HoldReason) (s : State) : (clearHold r s).rct = s.rct := rfl
@[simp] theorem clearHold_ldi (r : HoldReason) (s : State) : (clearHold r s).ldi = s.ldi := rfl
@[simp] theorem clearHold_lkc (r : HoldReason) (s : State) : (clearHold r s).lkc = s.lkc := rfl
@[simp] theorem clearHold_shc (r : HoldReason) (s : State) : (clearHold r s).shc = s.shc := rfl
@[simp] theorem clearHold_nck (r : HoldReason) (s : State) : (clearHold r s).nck = s.nck := rfl
@[simp] theorem clearHold_jnc (r : HoldReason) (s : State) : (clearHold r s).jnc = s.jnc := rfl
@[simp] theorem clearHold_lms (r : HoldReason) (s : State) : (clearHold r s).lms = s.lms := rfl
@[simp] theorem clearHold_flash (r : HoldReason) (s : State) : (clearHold r s).flash = s.flash := rfl
@[simp] theorem clearHold_draws (r : HoldReason) (s : State) : (clearHold r s).draws = s.draws := rfl
@[simp] theorem clearHold_pending (r : HoldReason) (s : State) : (clearHold r s).pending = s.pending := rfl

/-! `judgeHold` -/

@[simp] theorem judgeHold_supply (r : HoldReason) (v : Bool) (s : State) : (judgeHold r v s).supply = s.supply := rfl
@[simp] theorem judgeHold_rstLow (r : HoldReason) (v : Bool) (s : State) : (judgeHold r v s).rstLow = s.rstLow := rfl
@[simp] theorem judgeHold_phase (r : HoldReason) (v : Bool) (s : State) : (judgeHold r v s).phase = s.phase := rfl
@[simp] theorem judgeHold_startKind (r : HoldReason) (v : Bool) (s : State) : (judgeHold r v s).startKind = s.startKind := rfl
@[simp] theorem judgeHold_straps (r : HoldReason) (v : Bool) (s : State) : (judgeHold r v s).straps = s.straps := rfl
@[simp] theorem judgeHold_cfg (r : HoldReason) (v : Bool) (s : State) : (judgeHold r v s).cfg = s.cfg := rfl
@[simp] theorem judgeHold_csq_state (r : HoldReason) (v : Bool) (s : State) : (judgeHold r v s).csq.state = s.csq.state := rfl
@[simp] theorem judgeHold_csq_holds (r : HoldReason) (v : Bool) (s : State) : (judgeHold r v s).csq.holds = s.csq.holds.put r v := rfl
@[simp] theorem judgeHold_csq_bag (r : HoldReason) (v : Bool) (s : State) : (judgeHold r v s).csq.bag = s.csq.bag := rfl
@[simp] theorem judgeHold_csq_claimWait (r : HoldReason) (v : Bool) (s : State) : (judgeHold r v s).csq.claimWait = s.csq.claimWait := rfl
@[simp] theorem judgeHold_csq_accepted (r : HoldReason) (v : Bool) (s : State) : (judgeHold r v s).csq.accepted = s.csq.accepted := rfl
@[simp] theorem judgeHold_csq_retry (r : HoldReason) (v : Bool) (s : State) : (judgeHold r v s).csq.retry = s.csq.retry := rfl
@[simp] theorem judgeHold_csq_homeLimit (r : HoldReason) (v : Bool) (s : State) : (judgeHold r v s).csq.homeLimit = s.csq.homeLimit := rfl
@[simp] theorem judgeHold_csq_turnLimit (r : HoldReason) (v : Bool) (s : State) : (judgeHold r v s).csq.turnLimit = s.csq.turnLimit := rfl
@[simp] theorem judgeHold_csq_fallWindow (r : HoldReason) (v : Bool) (s : State) : (judgeHold r v s).csq.fallWindow = s.csq.fallWindow := rfl
@[simp] theorem judgeHold_csq_landingSettle (r : HoldReason) (v : Bool) (s : State) : (judgeHold r v s).csq.landingSettle = s.csq.landingSettle := rfl
@[simp] theorem judgeHold_csq_weighSeen (r : HoldReason) (v : Bool) (s : State) : (judgeHold r v s).csq.weighSeen = s.csq.weighSeen := rfl
@[simp] theorem judgeHold_csq_hatch (r : HoldReason) (v : Bool) (s : State) : (judgeHold r v s).csq.hatch = s.csq.hatch := rfl
@[simp] theorem judgeHold_csq_lock (r : HoldReason) (v : Bool) (s : State) : (judgeHold r v s).csq.lock = s.csq.lock := rfl
@[simp] theorem judgeHold_csq_weighed (r : HoldReason) (v : Bool) (s : State) : (judgeHold r v s).csq.weighed = s.csq.weighed := rfl
@[simp] theorem judgeHold_csq_tagEnded (r : HoldReason) (v : Bool) (s : State) : (judgeHold r v s).csq.tagEnded = s.csq.tagEnded := rfl
@[simp] theorem judgeHold_csq_returnWait (r : HoldReason) (v : Bool) (s : State) : (judgeHold r v s).csq.returnWait = s.csq.returnWait := rfl
@[simp] theorem judgeHold_csq_awaiting (r : HoldReason) (v : Bool) (s : State) : (judgeHold r v s).csq.awaiting = s.csq.awaiting := rfl
@[simp] theorem judgeHold_wch (r : HoldReason) (v : Bool) (s : State) : (judgeHold r v s).wch = s.wch := rfl
@[simp] theorem judgeHold_tgi (r : HoldReason) (v : Bool) (s : State) : (judgeHold r v s).tgi = s.tgi := rfl
@[simp] theorem judgeHold_nls (r : HoldReason) (v : Bool) (s : State) : (judgeHold r v s).nls = s.nls := rfl
@[simp] theorem judgeHold_rct (r : HoldReason) (v : Bool) (s : State) : (judgeHold r v s).rct = s.rct := rfl
@[simp] theorem judgeHold_ldi (r : HoldReason) (v : Bool) (s : State) : (judgeHold r v s).ldi = s.ldi := rfl
@[simp] theorem judgeHold_lkc (r : HoldReason) (v : Bool) (s : State) : (judgeHold r v s).lkc = s.lkc := rfl
@[simp] theorem judgeHold_shc (r : HoldReason) (v : Bool) (s : State) : (judgeHold r v s).shc = s.shc := rfl
@[simp] theorem judgeHold_nck (r : HoldReason) (v : Bool) (s : State) : (judgeHold r v s).nck = s.nck := rfl
@[simp] theorem judgeHold_jnc (r : HoldReason) (v : Bool) (s : State) : (judgeHold r v s).jnc = s.jnc := rfl
@[simp] theorem judgeHold_lms (r : HoldReason) (v : Bool) (s : State) : (judgeHold r v s).lms = s.lms := rfl
@[simp] theorem judgeHold_flash (r : HoldReason) (v : Bool) (s : State) : (judgeHold r v s).flash = s.flash := rfl
@[simp] theorem judgeHold_draws (r : HoldReason) (v : Bool) (s : State) : (judgeHold r v s).draws = s.draws := rfl
@[simp] theorem judgeHold_pending (r : HoldReason) (v : Bool) (s : State) : (judgeHold r v s).pending = s.pending := rfl

/-! `refreshLamps` -/

@[simp] theorem refreshLamps_supply (s : State) : (refreshLamps s).supply = s.supply := rfl
@[simp] theorem refreshLamps_rstLow (s : State) : (refreshLamps s).rstLow = s.rstLow := rfl
@[simp] theorem refreshLamps_phase (s : State) : (refreshLamps s).phase = s.phase := rfl
@[simp] theorem refreshLamps_startKind (s : State) : (refreshLamps s).startKind = s.startKind := rfl
@[simp] theorem refreshLamps_straps (s : State) : (refreshLamps s).straps = s.straps := rfl
@[simp] theorem refreshLamps_cfg (s : State) : (refreshLamps s).cfg = s.cfg := rfl
@[simp] theorem refreshLamps_csq (s : State) : (refreshLamps s).csq = s.csq := rfl
@[simp] theorem refreshLamps_wch (s : State) : (refreshLamps s).wch = s.wch := rfl
@[simp] theorem refreshLamps_tgi (s : State) : (refreshLamps s).tgi = s.tgi := rfl
@[simp] theorem refreshLamps_nls (s : State) : (refreshLamps s).nls = s.nls := rfl
@[simp] theorem refreshLamps_rct (s : State) : (refreshLamps s).rct = s.rct := rfl
@[simp] theorem refreshLamps_ldi (s : State) : (refreshLamps s).ldi = s.ldi := rfl
@[simp] theorem refreshLamps_lkc (s : State) : (refreshLamps s).lkc = s.lkc := rfl
@[simp] theorem refreshLamps_shc (s : State) : (refreshLamps s).shc = s.shc := rfl
@[simp] theorem refreshLamps_nck (s : State) : (refreshLamps s).nck = s.nck := rfl
@[simp] theorem refreshLamps_jnc (s : State) : (refreshLamps s).jnc = s.jnc := rfl
@[simp] theorem refreshLamps_lms_modes (s : State) : (refreshLamps s).lms.modes = PerLamp.ofFn (lampMode s) := rfl
@[simp] theorem refreshLamps_lms_readyTimer (s : State) : (refreshLamps s).lms.readyTimer = s.lms.readyTimer := rfl
@[simp] theorem refreshLamps_lms_row (s : State) : (refreshLamps s).lms.row = s.lms.row := rfl
@[simp] theorem refreshLamps_lms_rowTimer (s : State) : (refreshLamps s).lms.rowTimer = s.lms.rowTimer := rfl
@[simp] theorem refreshLamps_lms_columns (s : State) : (refreshLamps s).lms.columns = s.lms.columns := rfl
@[simp] theorem refreshLamps_flash (s : State) : (refreshLamps s).flash = s.flash := rfl
@[simp] theorem refreshLamps_draws (s : State) : (refreshLamps s).draws = s.draws := rfl
@[simp] theorem refreshLamps_pending (s : State) : (refreshLamps s).pending = s.pending := rfl

/-! `enterState` -/

@[simp] theorem enterState_supply (st : SeqState) (s : State) : (enterState st s).supply = s.supply := rfl
@[simp] theorem enterState_rstLow (st : SeqState) (s : State) : (enterState st s).rstLow = s.rstLow := rfl
@[simp] theorem enterState_phase (st : SeqState) (s : State) : (enterState st s).phase = s.phase := rfl
@[simp] theorem enterState_startKind (st : SeqState) (s : State) : (enterState st s).startKind = s.startKind := rfl
@[simp] theorem enterState_straps (st : SeqState) (s : State) : (enterState st s).straps = s.straps := rfl
@[simp] theorem enterState_cfg (st : SeqState) (s : State) : (enterState st s).cfg = s.cfg := rfl
@[simp] theorem enterState_csq_state (st : SeqState) (s : State) : (enterState st s).csq.state = st := rfl
@[simp] theorem enterState_csq_holds (st : SeqState) (s : State) : (enterState st s).csq.holds = s.csq.holds := rfl
@[simp] theorem enterState_csq_bag (st : SeqState) (s : State) : (enterState st s).csq.bag = s.csq.bag := rfl
@[simp] theorem enterState_csq_claimWait (st : SeqState) (s : State) : (enterState st s).csq.claimWait = s.csq.claimWait := rfl
@[simp] theorem enterState_csq_accepted (st : SeqState) (s : State) : (enterState st s).csq.accepted = s.csq.accepted := rfl
@[simp] theorem enterState_csq_retry (st : SeqState) (s : State) : (enterState st s).csq.retry = s.csq.retry := rfl
@[simp] theorem enterState_csq_homeLimit (st : SeqState) (s : State) : (enterState st s).csq.homeLimit = s.csq.homeLimit := rfl
@[simp] theorem enterState_csq_turnLimit (st : SeqState) (s : State) : (enterState st s).csq.turnLimit = s.csq.turnLimit := rfl
@[simp] theorem enterState_csq_fallWindow (st : SeqState) (s : State) : (enterState st s).csq.fallWindow = s.csq.fallWindow := rfl
@[simp] theorem enterState_csq_landingSettle (st : SeqState) (s : State) : (enterState st s).csq.landingSettle = s.csq.landingSettle := rfl
@[simp] theorem enterState_csq_weighSeen (st : SeqState) (s : State) : (enterState st s).csq.weighSeen = s.csq.weighSeen := rfl
@[simp] theorem enterState_csq_hatch (st : SeqState) (s : State) : (enterState st s).csq.hatch = s.csq.hatch := rfl
@[simp] theorem enterState_csq_lock (st : SeqState) (s : State) : (enterState st s).csq.lock = lockLine s.phase st := rfl
@[simp] theorem enterState_csq_weighed (st : SeqState) (s : State) : (enterState st s).csq.weighed = s.csq.weighed := rfl
@[simp] theorem enterState_csq_tagEnded (st : SeqState) (s : State) : (enterState st s).csq.tagEnded = s.csq.tagEnded := rfl
@[simp] theorem enterState_csq_returnWait (st : SeqState) (s : State) : (enterState st s).csq.returnWait = s.csq.returnWait := rfl
@[simp] theorem enterState_csq_awaiting (st : SeqState) (s : State) : (enterState st s).csq.awaiting = s.csq.awaiting := rfl
@[simp] theorem enterState_wch (st : SeqState) (s : State) : (enterState st s).wch = s.wch := rfl
@[simp] theorem enterState_tgi (st : SeqState) (s : State) : (enterState st s).tgi = s.tgi := rfl
@[simp] theorem enterState_nls (st : SeqState) (s : State) : (enterState st s).nls = s.nls := rfl
@[simp] theorem enterState_rct (st : SeqState) (s : State) : (enterState st s).rct = s.rct := rfl
@[simp] theorem enterState_ldi (st : SeqState) (s : State) : (enterState st s).ldi = s.ldi := rfl
@[simp] theorem enterState_lkc (st : SeqState) (s : State) : (enterState st s).lkc = s.lkc := rfl
@[simp] theorem enterState_shc (st : SeqState) (s : State) : (enterState st s).shc = s.shc := rfl
@[simp] theorem enterState_nck (st : SeqState) (s : State) : (enterState st s).nck = s.nck := rfl
@[simp] theorem enterState_jnc (st : SeqState) (s : State) : (enterState st s).jnc = s.jnc := rfl
@[simp] theorem enterState_lms_readyTimer (st : SeqState) (s : State) : (enterState st s).lms.readyTimer = (if st = .idle then some 300000 else none) := rfl
@[simp] theorem enterState_lms_row (st : SeqState) (s : State) : (enterState st s).lms.row = s.lms.row := rfl
@[simp] theorem enterState_lms_rowTimer (st : SeqState) (s : State) : (enterState st s).lms.rowTimer = s.lms.rowTimer := rfl
@[simp] theorem enterState_lms_columns (st : SeqState) (s : State) : (enterState st s).lms.columns = s.lms.columns := rfl
@[simp] theorem enterState_flash (st : SeqState) (s : State) : (enterState st s).flash = s.flash := rfl
@[simp] theorem enterState_draws (st : SeqState) (s : State) : (enterState st s).draws = s.draws := rfl
@[simp] theorem enterState_pending (st : SeqState) (s : State) : (enterState st s).pending = s.pending := rfl

/-! `claimIdle` -/

@[simp] theorem claimIdle_supply (s : State) : (claimIdle s).supply = s.supply := rfl
@[simp] theorem claimIdle_rstLow (s : State) : (claimIdle s).rstLow = s.rstLow := rfl
@[simp] theorem claimIdle_phase (s : State) : (claimIdle s).phase = s.phase := rfl
@[simp] theorem claimIdle_startKind (s : State) : (claimIdle s).startKind = s.startKind := rfl
@[simp] theorem claimIdle_straps (s : State) : (claimIdle s).straps = s.straps := rfl
@[simp] theorem claimIdle_cfg (s : State) : (claimIdle s).cfg = s.cfg := rfl
@[simp] theorem claimIdle_csq (s : State) : (claimIdle s).csq = s.csq := rfl
@[simp] theorem claimIdle_wch (s : State) : (claimIdle s).wch = s.wch := rfl
@[simp] theorem claimIdle_tgi (s : State) : (claimIdle s).tgi = s.tgi := rfl
@[simp] theorem claimIdle_nls (s : State) : (claimIdle s).nls = s.nls := rfl
@[simp] theorem claimIdle_rct (s : State) : (claimIdle s).rct = s.rct := rfl
@[simp] theorem claimIdle_ldi (s : State) : (claimIdle s).ldi = s.ldi := rfl
@[simp] theorem claimIdle_lkc (s : State) : (claimIdle s).lkc = s.lkc := rfl
@[simp] theorem claimIdle_shc_views (s : State) : (claimIdle s).shc.views = s.shc.views := rfl
@[simp] theorem claimIdle_shc_holdAge (s : State) : (claimIdle s).shc.holdAge = s.shc.holdAge := rfl
@[simp] theorem claimIdle_shc_tallies (s : State) : (claimIdle s).shc.tallies = s.shc.tallies := rfl
@[simp] theorem claimIdle_shc_phase (s : State) : (claimIdle s).shc.phase = .idle := rfl
@[simp] theorem claimIdle_shc_claimSerial (s : State) : (claimIdle s).shc.claimSerial = none := rfl
@[simp] theorem claimIdle_shc_spacing (s : State) : (claimIdle s).shc.spacing = none := rfl
@[simp] theorem claimIdle_shc_givenUp (s : State) : (claimIdle s).shc.givenUp = false := rfl
@[simp] theorem claimIdle_shc_lost (s : State) : (claimIdle s).shc.lost = false := rfl
@[simp] theorem claimIdle_nck (s : State) : (claimIdle s).nck = s.nck := rfl
@[simp] theorem claimIdle_jnc (s : State) : (claimIdle s).jnc = s.jnc := rfl
@[simp] theorem claimIdle_lms (s : State) : (claimIdle s).lms = s.lms := rfl
@[simp] theorem claimIdle_flash (s : State) : (claimIdle s).flash = s.flash := rfl
@[simp] theorem claimIdle_draws (s : State) : (claimIdle s).draws = s.draws := rfl
@[simp] theorem claimIdle_pending (s : State) : (claimIdle s).pending = s.pending := rfl

/-! `startRetry` -/

@[simp] theorem startRetry_supply (s : State) : (startRetry s).supply = s.supply := rfl
@[simp] theorem startRetry_rstLow (s : State) : (startRetry s).rstLow = s.rstLow := rfl
@[simp] theorem startRetry_phase (s : State) : (startRetry s).phase = s.phase := rfl
@[simp] theorem startRetry_startKind (s : State) : (startRetry s).startKind = s.startKind := rfl
@[simp] theorem startRetry_straps (s : State) : (startRetry s).straps = s.straps := rfl
@[simp] theorem startRetry_cfg (s : State) : (startRetry s).cfg = s.cfg := rfl
@[simp] theorem startRetry_csq_state (s : State) : (startRetry s).csq.state = s.csq.state := rfl
@[simp] theorem startRetry_csq_holds (s : State) : (startRetry s).csq.holds = s.csq.holds := rfl
@[simp] theorem startRetry_csq_bag (s : State) : (startRetry s).csq.bag = s.csq.bag := rfl
@[simp] theorem startRetry_csq_claimWait (s : State) : (startRetry s).csq.claimWait = s.csq.claimWait := rfl
@[simp] theorem startRetry_csq_accepted (s : State) : (startRetry s).csq.accepted = s.csq.accepted := rfl
@[simp] theorem startRetry_csq_retry (s : State) : (startRetry s).csq.retry = some s.cfg.retryInterval := rfl
@[simp] theorem startRetry_csq_homeLimit (s : State) : (startRetry s).csq.homeLimit = s.csq.homeLimit := rfl
@[simp] theorem startRetry_csq_turnLimit (s : State) : (startRetry s).csq.turnLimit = s.csq.turnLimit := rfl
@[simp] theorem startRetry_csq_fallWindow (s : State) : (startRetry s).csq.fallWindow = s.csq.fallWindow := rfl
@[simp] theorem startRetry_csq_landingSettle (s : State) : (startRetry s).csq.landingSettle = s.csq.landingSettle := rfl
@[simp] theorem startRetry_csq_weighSeen (s : State) : (startRetry s).csq.weighSeen = s.csq.weighSeen := rfl
@[simp] theorem startRetry_csq_hatch (s : State) : (startRetry s).csq.hatch = s.csq.hatch := rfl
@[simp] theorem startRetry_csq_lock (s : State) : (startRetry s).csq.lock = s.csq.lock := rfl
@[simp] theorem startRetry_csq_weighed (s : State) : (startRetry s).csq.weighed = s.csq.weighed := rfl
@[simp] theorem startRetry_csq_tagEnded (s : State) : (startRetry s).csq.tagEnded = s.csq.tagEnded := rfl
@[simp] theorem startRetry_csq_returnWait (s : State) : (startRetry s).csq.returnWait = s.csq.returnWait := rfl
@[simp] theorem startRetry_csq_awaiting (s : State) : (startRetry s).csq.awaiting = s.csq.awaiting := rfl
@[simp] theorem startRetry_wch (s : State) : (startRetry s).wch = s.wch := rfl
@[simp] theorem startRetry_tgi (s : State) : (startRetry s).tgi = s.tgi := rfl
@[simp] theorem startRetry_nls (s : State) : (startRetry s).nls = s.nls := rfl
@[simp] theorem startRetry_rct (s : State) : (startRetry s).rct = s.rct := rfl
@[simp] theorem startRetry_ldi (s : State) : (startRetry s).ldi = s.ldi := rfl
@[simp] theorem startRetry_lkc (s : State) : (startRetry s).lkc = s.lkc := rfl
@[simp] theorem startRetry_shc (s : State) : (startRetry s).shc = s.shc := rfl
@[simp] theorem startRetry_nck (s : State) : (startRetry s).nck = s.nck := rfl
@[simp] theorem startRetry_jnc (s : State) : (startRetry s).jnc = s.jnc := rfl
@[simp] theorem startRetry_lms (s : State) : (startRetry s).lms = s.lms := rfl
@[simp] theorem startRetry_flash (s : State) : (startRetry s).flash = s.flash := rfl
@[simp] theorem startRetry_draws (s : State) : (startRetry s).draws = s.draws := rfl
@[simp] theorem startRetry_pending (s : State) : (startRetry s).pending = s.pending := rfl

/-! `takeRx` -/

@[simp] theorem takeRx_supply (s : State) : (takeRx s).supply = s.supply := rfl
@[simp] theorem takeRx_rstLow (s : State) : (takeRx s).rstLow = s.rstLow := rfl
@[simp] theorem takeRx_phase (s : State) : (takeRx s).phase = s.phase := rfl
@[simp] theorem takeRx_startKind (s : State) : (takeRx s).startKind = s.startKind := rfl
@[simp] theorem takeRx_straps (s : State) : (takeRx s).straps = s.straps := rfl
@[simp] theorem takeRx_cfg (s : State) : (takeRx s).cfg = s.cfg := rfl
@[simp] theorem takeRx_csq (s : State) : (takeRx s).csq = s.csq := rfl
@[simp] theorem takeRx_wch (s : State) : (takeRx s).wch = s.wch := rfl
@[simp] theorem takeRx_tgi (s : State) : (takeRx s).tgi = s.tgi := rfl
@[simp] theorem takeRx_nls (s : State) : (takeRx s).nls = s.nls := rfl
@[simp] theorem takeRx_rct (s : State) : (takeRx s).rct = s.rct := rfl
@[simp] theorem takeRx_ldi (s : State) : (takeRx s).ldi = s.ldi := rfl
@[simp] theorem takeRx_lkc_phase (s : State) : (takeRx s).lkc.phase = s.lkc.phase := rfl
@[simp] theorem takeRx_lkc_settleTime (s : State) : (takeRx s).lkc.settleTime = s.lkc.settleTime := rfl
@[simp] theorem takeRx_lkc_reception (s : State) : (takeRx s).lkc.reception = s.lkc.reception := rfl
@[simp] theorem takeRx_lkc_queue (s : State) : (takeRx s).lkc.queue = s.lkc.queue := rfl
@[simp] theorem takeRx_lkc_inTx (s : State) : (takeRx s).lkc.inTx = s.lkc.inTx := rfl
@[simp] theorem takeRx_lkc_nextAge (s : State) : (takeRx s).lkc.nextAge = s.lkc.nextAge := rfl
@[simp] theorem takeRx_lkc_rx (s : State) : (takeRx s).lkc.rx = s.lkc.rx.tail := rfl
@[simp] theorem takeRx_lkc_holding (s : State) : (takeRx s).lkc.holding = false := rfl
@[simp] theorem takeRx_lkc_dropCount (s : State) : (takeRx s).lkc.dropCount = s.lkc.dropCount := rfl
@[simp] theorem takeRx_shc (s : State) : (takeRx s).shc = s.shc := rfl
@[simp] theorem takeRx_nck (s : State) : (takeRx s).nck = s.nck := rfl
@[simp] theorem takeRx_jnc (s : State) : (takeRx s).jnc = s.jnc := rfl
@[simp] theorem takeRx_lms (s : State) : (takeRx s).lms = s.lms := rfl
@[simp] theorem takeRx_flash (s : State) : (takeRx s).flash = s.flash := rfl
@[simp] theorem takeRx_draws (s : State) : (takeRx s).draws = s.draws := rfl
@[simp] theorem takeRx_pending (s : State) : (takeRx s).pending = s.pending := rfl

/-! `setView` -/

@[simp] theorem setView_supply (i : Fin 4) (v : View) (a : Timer) (s : State) : (setView i v a s).supply = s.supply := rfl
@[simp] theorem setView_rstLow (i : Fin 4) (v : View) (a : Timer) (s : State) : (setView i v a s).rstLow = s.rstLow := rfl
@[simp] theorem setView_phase (i : Fin 4) (v : View) (a : Timer) (s : State) : (setView i v a s).phase = s.phase := rfl
@[simp] theorem setView_startKind (i : Fin 4) (v : View) (a : Timer) (s : State) : (setView i v a s).startKind = s.startKind := rfl
@[simp] theorem setView_straps (i : Fin 4) (v : View) (a : Timer) (s : State) : (setView i v a s).straps = s.straps := rfl
@[simp] theorem setView_cfg (i : Fin 4) (v : View) (a : Timer) (s : State) : (setView i v a s).cfg = s.cfg := rfl
@[simp] theorem setView_csq (i : Fin 4) (v : View) (a : Timer) (s : State) : (setView i v a s).csq = s.csq := rfl
@[simp] theorem setView_wch (i : Fin 4) (v : View) (a : Timer) (s : State) : (setView i v a s).wch = s.wch := rfl
@[simp] theorem setView_tgi (i : Fin 4) (v : View) (a : Timer) (s : State) : (setView i v a s).tgi = s.tgi := rfl
@[simp] theorem setView_nls (i : Fin 4) (v : View) (a : Timer) (s : State) : (setView i v a s).nls = s.nls := rfl
@[simp] theorem setView_rct (i : Fin 4) (v : View) (a : Timer) (s : State) : (setView i v a s).rct = s.rct := rfl
@[simp] theorem setView_ldi (i : Fin 4) (v : View) (a : Timer) (s : State) : (setView i v a s).ldi = s.ldi := rfl
@[simp] theorem setView_lkc (i : Fin 4) (v : View) (a : Timer) (s : State) : (setView i v a s).lkc = s.lkc := rfl
@[simp] theorem setView_shc_views (i : Fin 4) (v : View) (a : Timer) (s : State) : (setView i v a s).shc.views = s.shc.views.set i v := rfl
@[simp] theorem setView_shc_holdAge (i : Fin 4) (v : View) (a : Timer) (s : State) : (setView i v a s).shc.holdAge = s.shc.holdAge.set i a := rfl
@[simp] theorem setView_shc_tallies (i : Fin 4) (v : View) (a : Timer) (s : State) : (setView i v a s).shc.tallies = s.shc.tallies := rfl
@[simp] theorem setView_shc_phase (i : Fin 4) (v : View) (a : Timer) (s : State) : (setView i v a s).shc.phase = s.shc.phase := rfl
@[simp] theorem setView_shc_claimSerial (i : Fin 4) (v : View) (a : Timer) (s : State) : (setView i v a s).shc.claimSerial = s.shc.claimSerial := rfl
@[simp] theorem setView_shc_spacing (i : Fin 4) (v : View) (a : Timer) (s : State) : (setView i v a s).shc.spacing = s.shc.spacing := rfl
@[simp] theorem setView_shc_givenUp (i : Fin 4) (v : View) (a : Timer) (s : State) : (setView i v a s).shc.givenUp = s.shc.givenUp := rfl
@[simp] theorem setView_shc_lost (i : Fin 4) (v : View) (a : Timer) (s : State) : (setView i v a s).shc.lost = s.shc.lost := rfl
@[simp] theorem setView_nck (i : Fin 4) (v : View) (a : Timer) (s : State) : (setView i v a s).nck = s.nck := rfl
@[simp] theorem setView_jnc (i : Fin 4) (v : View) (a : Timer) (s : State) : (setView i v a s).jnc = s.jnc := rfl
@[simp] theorem setView_lms (i : Fin 4) (v : View) (a : Timer) (s : State) : (setView i v a s).lms = s.lms := rfl
@[simp] theorem setView_flash (i : Fin 4) (v : View) (a : Timer) (s : State) : (setView i v a s).flash = s.flash := rfl
@[simp] theorem setView_draws (i : Fin 4) (v : View) (a : Timer) (s : State) : (setView i v a s).draws = s.draws := rfl
@[simp] theorem setView_pending (i : Fin 4) (v : View) (a : Timer) (s : State) : (setView i v a s).pending = s.pending := rfl

/-! `setTally` -/

@[simp] theorem setTally_supply (i : Fin 4) (t : Tally) (s : State) : (setTally i t s).supply = s.supply := rfl
@[simp] theorem setTally_rstLow (i : Fin 4) (t : Tally) (s : State) : (setTally i t s).rstLow = s.rstLow := rfl
@[simp] theorem setTally_phase (i : Fin 4) (t : Tally) (s : State) : (setTally i t s).phase = s.phase := rfl
@[simp] theorem setTally_startKind (i : Fin 4) (t : Tally) (s : State) : (setTally i t s).startKind = s.startKind := rfl
@[simp] theorem setTally_straps (i : Fin 4) (t : Tally) (s : State) : (setTally i t s).straps = s.straps := rfl
@[simp] theorem setTally_cfg (i : Fin 4) (t : Tally) (s : State) : (setTally i t s).cfg = s.cfg := rfl
@[simp] theorem setTally_csq (i : Fin 4) (t : Tally) (s : State) : (setTally i t s).csq = s.csq := rfl
@[simp] theorem setTally_wch (i : Fin 4) (t : Tally) (s : State) : (setTally i t s).wch = s.wch := rfl
@[simp] theorem setTally_tgi (i : Fin 4) (t : Tally) (s : State) : (setTally i t s).tgi = s.tgi := rfl
@[simp] theorem setTally_nls (i : Fin 4) (t : Tally) (s : State) : (setTally i t s).nls = s.nls := rfl
@[simp] theorem setTally_rct (i : Fin 4) (t : Tally) (s : State) : (setTally i t s).rct = s.rct := rfl
@[simp] theorem setTally_ldi (i : Fin 4) (t : Tally) (s : State) : (setTally i t s).ldi = s.ldi := rfl
@[simp] theorem setTally_lkc (i : Fin 4) (t : Tally) (s : State) : (setTally i t s).lkc = s.lkc := rfl
@[simp] theorem setTally_shc_views (i : Fin 4) (t : Tally) (s : State) : (setTally i t s).shc.views = s.shc.views := rfl
@[simp] theorem setTally_shc_holdAge (i : Fin 4) (t : Tally) (s : State) : (setTally i t s).shc.holdAge = s.shc.holdAge := rfl
@[simp] theorem setTally_shc_tallies (i : Fin 4) (t : Tally) (s : State) : (setTally i t s).shc.tallies = s.shc.tallies.set i t := rfl
@[simp] theorem setTally_shc_phase (i : Fin 4) (t : Tally) (s : State) : (setTally i t s).shc.phase = s.shc.phase := rfl
@[simp] theorem setTally_shc_claimSerial (i : Fin 4) (t : Tally) (s : State) : (setTally i t s).shc.claimSerial = s.shc.claimSerial := rfl
@[simp] theorem setTally_shc_spacing (i : Fin 4) (t : Tally) (s : State) : (setTally i t s).shc.spacing = s.shc.spacing := rfl
@[simp] theorem setTally_shc_givenUp (i : Fin 4) (t : Tally) (s : State) : (setTally i t s).shc.givenUp = s.shc.givenUp := rfl
@[simp] theorem setTally_shc_lost (i : Fin 4) (t : Tally) (s : State) : (setTally i t s).shc.lost = s.shc.lost := rfl
@[simp] theorem setTally_nck (i : Fin 4) (t : Tally) (s : State) : (setTally i t s).nck = s.nck := rfl
@[simp] theorem setTally_jnc (i : Fin 4) (t : Tally) (s : State) : (setTally i t s).jnc = s.jnc := rfl
@[simp] theorem setTally_lms (i : Fin 4) (t : Tally) (s : State) : (setTally i t s).lms = s.lms := rfl
@[simp] theorem setTally_flash (i : Fin 4) (t : Tally) (s : State) : (setTally i t s).flash = s.flash := rfl
@[simp] theorem setTally_draws (i : Fin 4) (t : Tally) (s : State) : (setTally i t s).draws = s.draws := rfl
@[simp] theorem setTally_pending (i : Fin 4) (t : Tally) (s : State) : (setTally i t s).pending = s.pending := rfl

/-! `giveSerial` -/

@[simp] theorem giveSerial_supply (x : W32) (s : State) : (giveSerial x s).supply = s.supply := rfl
@[simp] theorem giveSerial_rstLow (x : W32) (s : State) : (giveSerial x s).rstLow = s.rstLow := rfl
@[simp] theorem giveSerial_phase (x : W32) (s : State) : (giveSerial x s).phase = s.phase := rfl
@[simp] theorem giveSerial_startKind (x : W32) (s : State) : (giveSerial x s).startKind = s.startKind := rfl
@[simp] theorem giveSerial_straps (x : W32) (s : State) : (giveSerial x s).straps = s.straps := rfl
@[simp] theorem giveSerial_cfg (x : W32) (s : State) : (giveSerial x s).cfg = s.cfg := rfl
@[simp] theorem giveSerial_csq (x : W32) (s : State) : (giveSerial x s).csq = s.csq := rfl
@[simp] theorem giveSerial_wch (x : W32) (s : State) : (giveSerial x s).wch = s.wch := rfl
@[simp] theorem giveSerial_tgi (x : W32) (s : State) : (giveSerial x s).tgi = s.tgi := rfl
@[simp] theorem giveSerial_nls_entries (x : W32) (s : State) : (giveSerial x s).nls.entries = addSerial s.nls.entries x := rfl
@[simp] theorem giveSerial_nls_night (x : W32) (s : State) : (giveSerial x s).nls.night = s.nls.night := rfl
@[simp] theorem giveSerial_nls_closeSinceStart (x : W32) (s : State) : (giveSerial x s).nls.closeSinceStart = s.nls.closeSinceStart := rfl
@[simp] theorem giveSerial_rct (x : W32) (s : State) : (giveSerial x s).rct = s.rct := rfl
@[simp] theorem giveSerial_ldi (x : W32) (s : State) : (giveSerial x s).ldi = s.ldi := rfl
@[simp] theorem giveSerial_lkc (x : W32) (s : State) : (giveSerial x s).lkc = s.lkc := rfl
@[simp] theorem giveSerial_shc (x : W32) (s : State) : (giveSerial x s).shc = s.shc := rfl
@[simp] theorem giveSerial_nck (x : W32) (s : State) : (giveSerial x s).nck = s.nck := rfl
@[simp] theorem giveSerial_jnc (x : W32) (s : State) : (giveSerial x s).jnc = s.jnc := rfl
@[simp] theorem giveSerial_lms (x : W32) (s : State) : (giveSerial x s).lms = s.lms := rfl
@[simp] theorem giveSerial_flash (x : W32) (s : State) : (giveSerial x s).flash = s.flash := rfl
@[simp] theorem giveSerial_draws (x : W32) (s : State) : (giveSerial x s).draws = s.draws := rfl
@[simp] theorem giveSerial_pending (x : W32) (s : State) : (giveSerial x s).pending = s.pending := rfl

/-! `setClaimPhase` -/

@[simp] theorem setClaimPhase_supply (p : ClaimPhase) (sp : Timer) (s : State) : (setClaimPhase p sp s).supply = s.supply := rfl
@[simp] theorem setClaimPhase_rstLow (p : ClaimPhase) (sp : Timer) (s : State) : (setClaimPhase p sp s).rstLow = s.rstLow := rfl
@[simp] theorem setClaimPhase_phase (p : ClaimPhase) (sp : Timer) (s : State) : (setClaimPhase p sp s).phase = s.phase := rfl
@[simp] theorem setClaimPhase_startKind (p : ClaimPhase) (sp : Timer) (s : State) : (setClaimPhase p sp s).startKind = s.startKind := rfl
@[simp] theorem setClaimPhase_straps (p : ClaimPhase) (sp : Timer) (s : State) : (setClaimPhase p sp s).straps = s.straps := rfl
@[simp] theorem setClaimPhase_cfg (p : ClaimPhase) (sp : Timer) (s : State) : (setClaimPhase p sp s).cfg = s.cfg := rfl
@[simp] theorem setClaimPhase_csq (p : ClaimPhase) (sp : Timer) (s : State) : (setClaimPhase p sp s).csq = s.csq := rfl
@[simp] theorem setClaimPhase_wch (p : ClaimPhase) (sp : Timer) (s : State) : (setClaimPhase p sp s).wch = s.wch := rfl
@[simp] theorem setClaimPhase_tgi (p : ClaimPhase) (sp : Timer) (s : State) : (setClaimPhase p sp s).tgi = s.tgi := rfl
@[simp] theorem setClaimPhase_nls (p : ClaimPhase) (sp : Timer) (s : State) : (setClaimPhase p sp s).nls = s.nls := rfl
@[simp] theorem setClaimPhase_rct (p : ClaimPhase) (sp : Timer) (s : State) : (setClaimPhase p sp s).rct = s.rct := rfl
@[simp] theorem setClaimPhase_ldi (p : ClaimPhase) (sp : Timer) (s : State) : (setClaimPhase p sp s).ldi = s.ldi := rfl
@[simp] theorem setClaimPhase_lkc (p : ClaimPhase) (sp : Timer) (s : State) : (setClaimPhase p sp s).lkc = s.lkc := rfl
@[simp] theorem setClaimPhase_shc_views (p : ClaimPhase) (sp : Timer) (s : State) : (setClaimPhase p sp s).shc.views = s.shc.views := rfl
@[simp] theorem setClaimPhase_shc_holdAge (p : ClaimPhase) (sp : Timer) (s : State) : (setClaimPhase p sp s).shc.holdAge = s.shc.holdAge := rfl
@[simp] theorem setClaimPhase_shc_tallies (p : ClaimPhase) (sp : Timer) (s : State) : (setClaimPhase p sp s).shc.tallies = s.shc.tallies := rfl
@[simp] theorem setClaimPhase_shc_phase (p : ClaimPhase) (sp : Timer) (s : State) : (setClaimPhase p sp s).shc.phase = p := rfl
@[simp] theorem setClaimPhase_shc_claimSerial (p : ClaimPhase) (sp : Timer) (s : State) : (setClaimPhase p sp s).shc.claimSerial = s.shc.claimSerial := rfl
@[simp] theorem setClaimPhase_shc_spacing (p : ClaimPhase) (sp : Timer) (s : State) : (setClaimPhase p sp s).shc.spacing = sp := rfl
@[simp] theorem setClaimPhase_shc_givenUp (p : ClaimPhase) (sp : Timer) (s : State) : (setClaimPhase p sp s).shc.givenUp = s.shc.givenUp := rfl
@[simp] theorem setClaimPhase_shc_lost (p : ClaimPhase) (sp : Timer) (s : State) : (setClaimPhase p sp s).shc.lost = false := rfl
@[simp] theorem setClaimPhase_nck (p : ClaimPhase) (sp : Timer) (s : State) : (setClaimPhase p sp s).nck = s.nck := rfl
@[simp] theorem setClaimPhase_jnc (p : ClaimPhase) (sp : Timer) (s : State) : (setClaimPhase p sp s).jnc = s.jnc := rfl
@[simp] theorem setClaimPhase_lms (p : ClaimPhase) (sp : Timer) (s : State) : (setClaimPhase p sp s).lms = s.lms := rfl
@[simp] theorem setClaimPhase_flash (p : ClaimPhase) (sp : Timer) (s : State) : (setClaimPhase p sp s).flash = s.flash := rfl
@[simp] theorem setClaimPhase_draws (p : ClaimPhase) (sp : Timer) (s : State) : (setClaimPhase p sp s).draws = s.draws := rfl
@[simp] theorem setClaimPhase_pending (p : ClaimPhase) (sp : Timer) (s : State) : (setClaimPhase p sp s).pending = s.pending := rfl

/-! `queuedAfterLoss` -/

@[simp] theorem queuedAfterLoss_supply (s : State) : (queuedAfterLoss s).supply = s.supply := rfl
@[simp] theorem queuedAfterLoss_rstLow (s : State) : (queuedAfterLoss s).rstLow = s.rstLow := rfl
@[simp] theorem queuedAfterLoss_phase (s : State) : (queuedAfterLoss s).phase = s.phase := rfl
@[simp] theorem queuedAfterLoss_startKind (s : State) : (queuedAfterLoss s).startKind = s.startKind := rfl
@[simp] theorem queuedAfterLoss_straps (s : State) : (queuedAfterLoss s).straps = s.straps := rfl
@[simp] theorem queuedAfterLoss_cfg (s : State) : (queuedAfterLoss s).cfg = s.cfg := rfl
@[simp] theorem queuedAfterLoss_csq (s : State) : (queuedAfterLoss s).csq = s.csq := rfl
@[simp] theorem queuedAfterLoss_wch (s : State) : (queuedAfterLoss s).wch = s.wch := rfl
@[simp] theorem queuedAfterLoss_tgi (s : State) : (queuedAfterLoss s).tgi = s.tgi := rfl
@[simp] theorem queuedAfterLoss_nls (s : State) : (queuedAfterLoss s).nls = s.nls := rfl
@[simp] theorem queuedAfterLoss_rct (s : State) : (queuedAfterLoss s).rct = s.rct := rfl
@[simp] theorem queuedAfterLoss_ldi (s : State) : (queuedAfterLoss s).ldi = s.ldi := rfl
@[simp] theorem queuedAfterLoss_lkc (s : State) : (queuedAfterLoss s).lkc = s.lkc := rfl
@[simp] theorem queuedAfterLoss_shc_views (s : State) : (queuedAfterLoss s).shc.views = s.shc.views := rfl
@[simp] theorem queuedAfterLoss_shc_holdAge (s : State) : (queuedAfterLoss s).shc.holdAge = s.shc.holdAge := rfl
@[simp] theorem queuedAfterLoss_shc_tallies (s : State) : (queuedAfterLoss s).shc.tallies = s.shc.tallies := rfl
@[simp] theorem queuedAfterLoss_shc_phase (s : State) : (queuedAfterLoss s).shc.phase = .queued := rfl
@[simp] theorem queuedAfterLoss_shc_claimSerial (s : State) : (queuedAfterLoss s).shc.claimSerial = s.shc.claimSerial := rfl
@[simp] theorem queuedAfterLoss_shc_spacing (s : State) : (queuedAfterLoss s).shc.spacing = none := rfl
@[simp] theorem queuedAfterLoss_shc_givenUp (s : State) : (queuedAfterLoss s).shc.givenUp = s.shc.givenUp := rfl
@[simp] theorem queuedAfterLoss_shc_lost (s : State) : (queuedAfterLoss s).shc.lost = true := rfl
@[simp] theorem queuedAfterLoss_nck (s : State) : (queuedAfterLoss s).nck = s.nck := rfl
@[simp] theorem queuedAfterLoss_jnc (s : State) : (queuedAfterLoss s).jnc = s.jnc := rfl
@[simp] theorem queuedAfterLoss_lms (s : State) : (queuedAfterLoss s).lms = s.lms := rfl
@[simp] theorem queuedAfterLoss_flash (s : State) : (queuedAfterLoss s).flash = s.flash := rfl
@[simp] theorem queuedAfterLoss_draws (s : State) : (queuedAfterLoss s).draws = s.draws := rfl
@[simp] theorem queuedAfterLoss_pending (s : State) : (queuedAfterLoss s).pending = s.pending := rfl

/-! `pushRecord` -/

@[simp] theorem pushRecord_supply (q : RecordReq) (s : State) : (pushRecord q s).supply = s.supply := rfl
@[simp] theorem pushRecord_rstLow (q : RecordReq) (s : State) : (pushRecord q s).rstLow = s.rstLow := rfl
@[simp] theorem pushRecord_phase (q : RecordReq) (s : State) : (pushRecord q s).phase = s.phase := rfl
@[simp] theorem pushRecord_startKind (q : RecordReq) (s : State) : (pushRecord q s).startKind = s.startKind := rfl
@[simp] theorem pushRecord_straps (q : RecordReq) (s : State) : (pushRecord q s).straps = s.straps := rfl
@[simp] theorem pushRecord_cfg (q : RecordReq) (s : State) : (pushRecord q s).cfg = s.cfg := rfl
@[simp] theorem pushRecord_csq (q : RecordReq) (s : State) : (pushRecord q s).csq = s.csq := rfl
@[simp] theorem pushRecord_wch (q : RecordReq) (s : State) : (pushRecord q s).wch = s.wch := rfl
@[simp] theorem pushRecord_tgi (q : RecordReq) (s : State) : (pushRecord q s).tgi = s.tgi := rfl
@[simp] theorem pushRecord_nls (q : RecordReq) (s : State) : (pushRecord q s).nls = s.nls := rfl
@[simp] theorem pushRecord_rct (q : RecordReq) (s : State) : (pushRecord q s).rct = s.rct := rfl
@[simp] theorem pushRecord_ldi (q : RecordReq) (s : State) : (pushRecord q s).ldi = s.ldi := rfl
@[simp] theorem pushRecord_lkc (q : RecordReq) (s : State) : (pushRecord q s).lkc = s.lkc := rfl
@[simp] theorem pushRecord_shc (q : RecordReq) (s : State) : (pushRecord q s).shc = s.shc := rfl
@[simp] theorem pushRecord_nck (q : RecordReq) (s : State) : (pushRecord q s).nck = s.nck := rfl
@[simp] theorem pushRecord_jnc_seqCounter (q : RecordReq) (s : State) : (pushRecord q s).jnc.seqCounter = s.jnc.seqCounter + 1 := rfl
@[simp] theorem pushRecord_jnc_newest (q : RecordReq) (s : State) : (pushRecord q s).jnc.newest = s.jnc.newest := rfl
@[simp] theorem pushRecord_jnc_writePtr (q : RecordReq) (s : State) : (pushRecord q s).jnc.writePtr = s.jnc.writePtr := rfl
@[simp] theorem pushRecord_jnc_auditMark (q : RecordReq) (s : State) : (pushRecord q s).jnc.auditMark = s.jnc.auditMark := rfl
@[simp] theorem pushRecord_jnc_staging (q : RecordReq) (s : State) : (pushRecord q s).jnc.staging = s.jnc.staging ++ [stamped s q] := rfl
@[simp] theorem pushRecord_jnc_deferred (q : RecordReq) (s : State) : (pushRecord q s).jnc.deferred = s.jnc.deferred := rfl
@[simp] theorem pushRecord_jnc_startHold (q : RecordReq) (s : State) : (pushRecord q s).jnc.startHold = s.jnc.startHold := rfl
@[simp] theorem pushRecord_jnc_pendingRead (q : RecordReq) (s : State) : (pushRecord q s).jnc.pendingRead = s.jnc.pendingRead := rfl
@[simp] theorem pushRecord_jnc_array (q : RecordReq) (s : State) : (pushRecord q s).jnc.array = s.jnc.array := rfl
@[simp] theorem pushRecord_lms (q : RecordReq) (s : State) : (pushRecord q s).lms = s.lms := rfl
@[simp] theorem pushRecord_flash (q : RecordReq) (s : State) : (pushRecord q s).flash = s.flash := rfl
@[simp] theorem pushRecord_draws (q : RecordReq) (s : State) : (pushRecord q s).draws = s.draws := rfl
@[simp] theorem pushRecord_pending (q : RecordReq) (s : State) : (pushRecord q s).pending = s.pending := rfl

/-! `stopSequencer` -/

@[simp] theorem stopSequencer_supply (s : State) : (stopSequencer s).supply = s.supply := rfl
@[simp] theorem stopSequencer_rstLow (s : State) : (stopSequencer s).rstLow = s.rstLow := rfl
@[simp] theorem stopSequencer_phase (s : State) : (stopSequencer s).phase = s.phase := rfl
@[simp] theorem stopSequencer_startKind (s : State) : (stopSequencer s).startKind = s.startKind := rfl
@[simp] theorem stopSequencer_straps (s : State) : (stopSequencer s).straps = s.straps := rfl
@[simp] theorem stopSequencer_cfg (s : State) : (stopSequencer s).cfg = s.cfg := rfl
@[simp] theorem stopSequencer_csq_state (s : State) : (stopSequencer s).csq.state = s.csq.state := rfl
@[simp] theorem stopSequencer_csq_holds (s : State) : (stopSequencer s).csq.holds = s.csq.holds := rfl
@[simp] theorem stopSequencer_csq_bag (s : State) : (stopSequencer s).csq.bag = s.csq.bag := rfl
@[simp] theorem stopSequencer_csq_claimWait (s : State) : (stopSequencer s).csq.claimWait = none := rfl
@[simp] theorem stopSequencer_csq_accepted (s : State) : (stopSequencer s).csq.accepted = none := rfl
@[simp] theorem stopSequencer_csq_retry (s : State) : (stopSequencer s).csq.retry = none := rfl
@[simp] theorem stopSequencer_csq_homeLimit (s : State) : (stopSequencer s).csq.homeLimit = none := rfl
@[simp] theorem stopSequencer_csq_turnLimit (s : State) : (stopSequencer s).csq.turnLimit = none := rfl
@[simp] theorem stopSequencer_csq_fallWindow (s : State) : (stopSequencer s).csq.fallWindow = none := rfl
@[simp] theorem stopSequencer_csq_landingSettle (s : State) : (stopSequencer s).csq.landingSettle = none := rfl
@[simp] theorem stopSequencer_csq_weighSeen (s : State) : (stopSequencer s).csq.weighSeen = s.csq.weighSeen := rfl
@[simp] theorem stopSequencer_csq_hatch (s : State) : (stopSequencer s).csq.hatch = s.csq.hatch := rfl
@[simp] theorem stopSequencer_csq_lock (s : State) : (stopSequencer s).csq.lock = s.csq.lock := rfl
@[simp] theorem stopSequencer_csq_weighed (s : State) : (stopSequencer s).csq.weighed = none := rfl
@[simp] theorem stopSequencer_csq_tagEnded (s : State) : (stopSequencer s).csq.tagEnded = false := rfl
@[simp] theorem stopSequencer_csq_returnWait (s : State) : (stopSequencer s).csq.returnWait = false := rfl
@[simp] theorem stopSequencer_csq_awaiting (s : State) : (stopSequencer s).csq.awaiting = none := rfl
@[simp] theorem stopSequencer_wch (s : State) : (stopSequencer s).wch = s.wch := rfl
@[simp] theorem stopSequencer_tgi (s : State) : (stopSequencer s).tgi = s.tgi := rfl
@[simp] theorem stopSequencer_nls (s : State) : (stopSequencer s).nls = s.nls := rfl
@[simp] theorem stopSequencer_rct (s : State) : (stopSequencer s).rct = s.rct := rfl
@[simp] theorem stopSequencer_ldi (s : State) : (stopSequencer s).ldi = s.ldi := rfl
@[simp] theorem stopSequencer_lkc (s : State) : (stopSequencer s).lkc = s.lkc := rfl
@[simp] theorem stopSequencer_shc (s : State) : (stopSequencer s).shc = s.shc := rfl
@[simp] theorem stopSequencer_nck (s : State) : (stopSequencer s).nck = s.nck := rfl
@[simp] theorem stopSequencer_jnc (s : State) : (stopSequencer s).jnc = s.jnc := rfl
@[simp] theorem stopSequencer_lms (s : State) : (stopSequencer s).lms = s.lms := rfl
@[simp] theorem stopSequencer_flash (s : State) : (stopSequencer s).flash = s.flash := rfl
@[simp] theorem stopSequencer_draws (s : State) : (stopSequencer s).draws = s.draws := rfl
@[simp] theorem stopSequencer_pending (s : State) : (stopSequencer s).pending = s.pending := rfl

/-! `abandonTags` -/

@[simp] theorem abandonTags_supply (s : State) : (abandonTags s).supply = s.supply := rfl
@[simp] theorem abandonTags_rstLow (s : State) : (abandonTags s).rstLow = s.rstLow := rfl
@[simp] theorem abandonTags_phase (s : State) : (abandonTags s).phase = s.phase := rfl
@[simp] theorem abandonTags_startKind (s : State) : (abandonTags s).startKind = s.startKind := rfl
@[simp] theorem abandonTags_straps (s : State) : (abandonTags s).straps = s.straps := rfl
@[simp] theorem abandonTags_cfg (s : State) : (abandonTags s).cfg = s.cfg := rfl
@[simp] theorem abandonTags_csq (s : State) : (abandonTags s).csq = s.csq := rfl
@[simp] theorem abandonTags_wch (s : State) : (abandonTags s).wch = s.wch := rfl
@[simp] theorem abandonTags_tgi_phase (s : State) : (abandonTags s).tgi.phase = s.tgi.phase := rfl
@[simp] theorem abandonTags_tgi_buffer (s : State) : (abandonTags s).tgi.buffer = s.tgi.buffer := rfl
@[simp] theorem abandonTags_tgi_byteGap (s : State) : (abandonTags s).tgi.byteGap = s.tgi.byteGap := rfl
@[simp] theorem abandonTags_tgi_windowOpen (s : State) : (abandonTags s).tgi.windowOpen = false := rfl
@[simp] theorem abandonTags_tgi_windowTimer (s : State) : (abandonTags s).tgi.windowTimer = none := rfl
@[simp] theorem abandonTags_tgi_readSet (s : State) : (abandonTags s).tgi.readSet = [] := rfl
@[simp] theorem abandonTags_tgi_firstRead (s : State) : (abandonTags s).tgi.firstRead = none := rfl
@[simp] theorem abandonTags_nls (s : State) : (abandonTags s).nls = s.nls := rfl
@[simp] theorem abandonTags_rct (s : State) : (abandonTags s).rct = s.rct := rfl
@[simp] theorem abandonTags_ldi (s : State) : (abandonTags s).ldi = s.ldi := rfl
@[simp] theorem abandonTags_lkc (s : State) : (abandonTags s).lkc = s.lkc := rfl
@[simp] theorem abandonTags_shc (s : State) : (abandonTags s).shc = s.shc := rfl
@[simp] theorem abandonTags_nck (s : State) : (abandonTags s).nck = s.nck := rfl
@[simp] theorem abandonTags_jnc (s : State) : (abandonTags s).jnc = s.jnc := rfl
@[simp] theorem abandonTags_lms (s : State) : (abandonTags s).lms = s.lms := rfl
@[simp] theorem abandonTags_flash (s : State) : (abandonTags s).flash = s.flash := rfl
@[simp] theorem abandonTags_draws (s : State) : (abandonTags s).draws = s.draws := rfl
@[simp] theorem abandonTags_pending (s : State) : (abandonTags s).pending = s.pending := rfl

/-! `abandonWeighing` -/

@[simp] theorem abandonWeighing_supply (s : State) : (abandonWeighing s).supply = s.supply := rfl
@[simp] theorem abandonWeighing_rstLow (s : State) : (abandonWeighing s).rstLow = s.rstLow := rfl
@[simp] theorem abandonWeighing_phase (s : State) : (abandonWeighing s).phase = s.phase := rfl
@[simp] theorem abandonWeighing_startKind (s : State) : (abandonWeighing s).startKind = s.startKind := rfl
@[simp] theorem abandonWeighing_straps (s : State) : (abandonWeighing s).straps = s.straps := rfl
@[simp] theorem abandonWeighing_cfg (s : State) : (abandonWeighing s).cfg = s.cfg := rfl
@[simp] theorem abandonWeighing_csq (s : State) : (abandonWeighing s).csq = s.csq := rfl
@[simp] theorem abandonWeighing_wch_heldByte (s : State) : (abandonWeighing s).wch.heldByte = s.wch.heldByte := rfl
@[simp] theorem abandonWeighing_wch_window (s : State) : (abandonWeighing s).wch.window = [] := rfl
@[simp] theorem abandonWeighing_wch_t16 (s : State) : (abandonWeighing s).wch.t16 = s.wch.t16 := rfl
@[simp] theorem abandonWeighing_wch_gap (s : State) : (abandonWeighing s).wch.gap = s.wch.gap := rfl
@[simp] theorem abandonWeighing_wch_recovery (s : State) : (abandonWeighing s).wch.recovery = s.wch.recovery := rfl
@[simp] theorem abandonWeighing_wch_snapPending (s : State) : (abandonWeighing s).wch.snapPending = s.wch.snapPending := rfl
@[simp] theorem abandonWeighing_wch_goodRun (s : State) : (abandonWeighing s).wch.goodRun = s.wch.goodRun := rfl
@[simp] theorem abandonWeighing_wch_badRun (s : State) : (abandonWeighing s).wch.badRun = s.wch.badRun := rfl
@[simp] theorem abandonWeighing_wch_tareInterval (s : State) : (abandonWeighing s).wch.tareInterval = s.wch.tareInterval := rfl
@[simp] theorem abandonWeighing_wch_settle (s : State) : (abandonWeighing s).wch.settle = none := rfl
@[simp] theorem abandonWeighing_wch_activity (s : State) : (abandonWeighing s).wch.activity = .idle := rfl
@[simp] theorem abandonWeighing_wch_windowNumber (s : State) : (abandonWeighing s).wch.windowNumber = s.wch.windowNumber := rfl
@[simp] theorem abandonWeighing_tgi (s : State) : (abandonWeighing s).tgi = s.tgi := rfl
@[simp] theorem abandonWeighing_nls (s : State) : (abandonWeighing s).nls = s.nls := rfl
@[simp] theorem abandonWeighing_rct (s : State) : (abandonWeighing s).rct = s.rct := rfl
@[simp] theorem abandonWeighing_ldi (s : State) : (abandonWeighing s).ldi = s.ldi := rfl
@[simp] theorem abandonWeighing_lkc (s : State) : (abandonWeighing s).lkc = s.lkc := rfl
@[simp] theorem abandonWeighing_shc (s : State) : (abandonWeighing s).shc = s.shc := rfl
@[simp] theorem abandonWeighing_nck (s : State) : (abandonWeighing s).nck = s.nck := rfl
@[simp] theorem abandonWeighing_jnc (s : State) : (abandonWeighing s).jnc = s.jnc := rfl
@[simp] theorem abandonWeighing_lms (s : State) : (abandonWeighing s).lms = s.lms := rfl
@[simp] theorem abandonWeighing_flash (s : State) : (abandonWeighing s).flash = s.flash := rfl
@[simp] theorem abandonWeighing_draws (s : State) : (abandonWeighing s).draws = s.draws := rfl
@[simp] theorem abandonWeighing_pending (s : State) : (abandonWeighing s).pending = s.pending := rfl

/-! `openTagWindow` -/

@[simp] theorem openTagWindow_supply (s : State) : (openTagWindow s).supply = s.supply := rfl
@[simp] theorem openTagWindow_rstLow (s : State) : (openTagWindow s).rstLow = s.rstLow := rfl
@[simp] theorem openTagWindow_phase (s : State) : (openTagWindow s).phase = s.phase := rfl
@[simp] theorem openTagWindow_startKind (s : State) : (openTagWindow s).startKind = s.startKind := rfl
@[simp] theorem openTagWindow_straps (s : State) : (openTagWindow s).straps = s.straps := rfl
@[simp] theorem openTagWindow_cfg (s : State) : (openTagWindow s).cfg = s.cfg := rfl
@[simp] theorem openTagWindow_csq (s : State) : (openTagWindow s).csq = s.csq := rfl
@[simp] theorem openTagWindow_wch (s : State) : (openTagWindow s).wch = s.wch := rfl
@[simp] theorem openTagWindow_tgi_phase (s : State) : (openTagWindow s).tgi.phase = s.tgi.phase := rfl
@[simp] theorem openTagWindow_tgi_buffer (s : State) : (openTagWindow s).tgi.buffer = s.tgi.buffer := rfl
@[simp] theorem openTagWindow_tgi_byteGap (s : State) : (openTagWindow s).tgi.byteGap = s.tgi.byteGap := rfl
@[simp] theorem openTagWindow_tgi_windowOpen (s : State) : (openTagWindow s).tgi.windowOpen = true := rfl
@[simp] theorem openTagWindow_tgi_windowTimer (s : State) : (openTagWindow s).tgi.windowTimer = some s.cfg.tagWindow := rfl
@[simp] theorem openTagWindow_tgi_readSet (s : State) : (openTagWindow s).tgi.readSet = [] := rfl
@[simp] theorem openTagWindow_tgi_firstRead (s : State) : (openTagWindow s).tgi.firstRead = none := rfl
@[simp] theorem openTagWindow_nls (s : State) : (openTagWindow s).nls = s.nls := rfl
@[simp] theorem openTagWindow_rct (s : State) : (openTagWindow s).rct = s.rct := rfl
@[simp] theorem openTagWindow_ldi (s : State) : (openTagWindow s).ldi = s.ldi := rfl
@[simp] theorem openTagWindow_lkc (s : State) : (openTagWindow s).lkc = s.lkc := rfl
@[simp] theorem openTagWindow_shc (s : State) : (openTagWindow s).shc = s.shc := rfl
@[simp] theorem openTagWindow_nck (s : State) : (openTagWindow s).nck = s.nck := rfl
@[simp] theorem openTagWindow_jnc (s : State) : (openTagWindow s).jnc = s.jnc := rfl
@[simp] theorem openTagWindow_lms (s : State) : (openTagWindow s).lms = s.lms := rfl
@[simp] theorem openTagWindow_flash (s : State) : (openTagWindow s).flash = s.flash := rfl
@[simp] theorem openTagWindow_draws (s : State) : (openTagWindow s).draws = s.draws := rfl
@[simp] theorem openTagWindow_pending (s : State) : (openTagWindow s).pending = s.pending := rfl

/-! `toSettling` -/

@[simp] theorem toSettling_supply (s : State) : (toSettling s).supply = s.supply := rfl
@[simp] theorem toSettling_rstLow (s : State) : (toSettling s).rstLow = s.rstLow := rfl
@[simp] theorem toSettling_phase (s : State) : (toSettling s).phase = s.phase := rfl
@[simp] theorem toSettling_startKind (s : State) : (toSettling s).startKind = s.startKind := rfl
@[simp] theorem toSettling_straps (s : State) : (toSettling s).straps = s.straps := rfl
@[simp] theorem toSettling_cfg (s : State) : (toSettling s).cfg = s.cfg := rfl
@[simp] theorem toSettling_csq (s : State) : (toSettling s).csq = s.csq := rfl
@[simp] theorem toSettling_wch (s : State) : (toSettling s).wch = s.wch := rfl
@[simp] theorem toSettling_tgi (s : State) : (toSettling s).tgi = s.tgi := rfl
@[simp] theorem toSettling_nls (s : State) : (toSettling s).nls = s.nls := rfl
@[simp] theorem toSettling_rct (s : State) : (toSettling s).rct = s.rct := rfl
@[simp] theorem toSettling_ldi (s : State) : (toSettling s).ldi = s.ldi := rfl
@[simp] theorem toSettling_lkc_phase (s : State) : (toSettling s).lkc.phase = .settling := rfl
@[simp] theorem toSettling_lkc_settleTime (s : State) : (toSettling s).lkc.settleTime = 0 := rfl
@[simp] theorem toSettling_lkc_reception (s : State) : (toSettling s).lkc.reception = .absent := rfl
@[simp] theorem toSettling_lkc_queue (s : State) : (toSettling s).lkc.queue = s.lkc.queue := rfl
@[simp] theorem toSettling_lkc_inTx (s : State) : (toSettling s).lkc.inTx = s.lkc.inTx := rfl
@[simp] theorem toSettling_lkc_nextAge (s : State) : (toSettling s).lkc.nextAge = s.lkc.nextAge := rfl
@[simp] theorem toSettling_lkc_rx (s : State) : (toSettling s).lkc.rx = s.lkc.rx := rfl
@[simp] theorem toSettling_lkc_holding (s : State) : (toSettling s).lkc.holding = s.lkc.holding := rfl
@[simp] theorem toSettling_lkc_dropCount (s : State) : (toSettling s).lkc.dropCount = s.lkc.dropCount := rfl
@[simp] theorem toSettling_shc (s : State) : (toSettling s).shc = s.shc := rfl
@[simp] theorem toSettling_nck (s : State) : (toSettling s).nck = s.nck := rfl
@[simp] theorem toSettling_jnc (s : State) : (toSettling s).jnc = s.jnc := rfl
@[simp] theorem toSettling_lms (s : State) : (toSettling s).lms = s.lms := rfl
@[simp] theorem toSettling_flash (s : State) : (toSettling s).flash = s.flash := rfl
@[simp] theorem toSettling_draws (s : State) : (toSettling s).draws = s.draws := rfl
@[simp] theorem toSettling_pending (s : State) : (toSettling s).pending = s.pending := rfl

/-! `toReceiving` -/

@[simp] theorem toReceiving_supply (r : Reception) (s : State) : (toReceiving r s).supply = s.supply := rfl
@[simp] theorem toReceiving_rstLow (r : Reception) (s : State) : (toReceiving r s).rstLow = s.rstLow := rfl
@[simp] theorem toReceiving_phase (r : Reception) (s : State) : (toReceiving r s).phase = s.phase := rfl
@[simp] theorem toReceiving_startKind (r : Reception) (s : State) : (toReceiving r s).startKind = s.startKind := rfl
@[simp] theorem toReceiving_straps (r : Reception) (s : State) : (toReceiving r s).straps = s.straps := rfl
@[simp] theorem toReceiving_cfg (r : Reception) (s : State) : (toReceiving r s).cfg = s.cfg := rfl
@[simp] theorem toReceiving_csq (r : Reception) (s : State) : (toReceiving r s).csq = s.csq := rfl
@[simp] theorem toReceiving_wch (r : Reception) (s : State) : (toReceiving r s).wch = s.wch := rfl
@[simp] theorem toReceiving_tgi (r : Reception) (s : State) : (toReceiving r s).tgi = s.tgi := rfl
@[simp] theorem toReceiving_nls (r : Reception) (s : State) : (toReceiving r s).nls = s.nls := rfl
@[simp] theorem toReceiving_rct (r : Reception) (s : State) : (toReceiving r s).rct = s.rct := rfl
@[simp] theorem toReceiving_ldi (r : Reception) (s : State) : (toReceiving r s).ldi = s.ldi := rfl
@[simp] theorem toReceiving_lkc_phase (r : Reception) (s : State) : (toReceiving r s).lkc.phase = .receiving := rfl
@[simp] theorem toReceiving_lkc_settleTime (r : Reception) (s : State) : (toReceiving r s).lkc.settleTime = 0 := rfl
@[simp] theorem toReceiving_lkc_reception (r : Reception) (s : State) : (toReceiving r s).lkc.reception = r := rfl
@[simp] theorem toReceiving_lkc_queue (r : Reception) (s : State) : (toReceiving r s).lkc.queue = s.lkc.queue := rfl
@[simp] theorem toReceiving_lkc_inTx (r : Reception) (s : State) : (toReceiving r s).lkc.inTx = s.lkc.inTx := rfl
@[simp] theorem toReceiving_lkc_nextAge (r : Reception) (s : State) : (toReceiving r s).lkc.nextAge = s.lkc.nextAge := rfl
@[simp] theorem toReceiving_lkc_rx (r : Reception) (s : State) : (toReceiving r s).lkc.rx = s.lkc.rx := rfl
@[simp] theorem toReceiving_lkc_holding (r : Reception) (s : State) : (toReceiving r s).lkc.holding = s.lkc.holding := rfl
@[simp] theorem toReceiving_lkc_dropCount (r : Reception) (s : State) : (toReceiving r s).lkc.dropCount = s.lkc.dropCount := rfl
@[simp] theorem toReceiving_shc (r : Reception) (s : State) : (toReceiving r s).shc = s.shc := rfl
@[simp] theorem toReceiving_nck (r : Reception) (s : State) : (toReceiving r s).nck = s.nck := rfl
@[simp] theorem toReceiving_jnc (r : Reception) (s : State) : (toReceiving r s).jnc = s.jnc := rfl
@[simp] theorem toReceiving_lms (r : Reception) (s : State) : (toReceiving r s).lms = s.lms := rfl
@[simp] theorem toReceiving_flash (r : Reception) (s : State) : (toReceiving r s).flash = s.flash := rfl
@[simp] theorem toReceiving_draws (r : Reception) (s : State) : (toReceiving r s).draws = s.draws := rfl
@[simp] theorem toReceiving_pending (r : Reception) (s : State) : (toReceiving r s).pending = s.pending := rfl

/-! `entryBack` -/

@[simp] theorem entryBack_supply (s : State) : (entryBack s).supply = s.supply := rfl
@[simp] theorem entryBack_rstLow (s : State) : (entryBack s).rstLow = s.rstLow := rfl
@[simp] theorem entryBack_phase (s : State) : (entryBack s).phase = s.phase := rfl
@[simp] theorem entryBack_startKind (s : State) : (entryBack s).startKind = s.startKind := rfl
@[simp] theorem entryBack_straps (s : State) : (entryBack s).straps = s.straps := rfl
@[simp] theorem entryBack_cfg (s : State) : (entryBack s).cfg = s.cfg := rfl
@[simp] theorem entryBack_csq (s : State) : (entryBack s).csq = s.csq := rfl
@[simp] theorem entryBack_wch (s : State) : (entryBack s).wch = s.wch := rfl
@[simp] theorem entryBack_tgi (s : State) : (entryBack s).tgi = s.tgi := rfl
@[simp] theorem entryBack_nls (s : State) : (entryBack s).nls = s.nls := rfl
@[simp] theorem entryBack_rct (s : State) : (entryBack s).rct = s.rct := rfl
@[simp] theorem entryBack_ldi (s : State) : (entryBack s).ldi = s.ldi := rfl
@[simp] theorem entryBack_lkc_phase (s : State) : (entryBack s).lkc.phase = s.lkc.phase := rfl
@[simp] theorem entryBack_lkc_settleTime (s : State) : (entryBack s).lkc.settleTime = s.lkc.settleTime := rfl
@[simp] theorem entryBack_lkc_reception (s : State) : (entryBack s).lkc.reception = s.lkc.reception := rfl
@[simp] theorem entryBack_lkc_queue (s : State) : (entryBack s).lkc.queue = s.lkc.queue := rfl
@[simp] theorem entryBack_lkc_inTx (s : State) : (entryBack s).lkc.inTx = none := rfl
@[simp] theorem entryBack_lkc_nextAge (s : State) : (entryBack s).lkc.nextAge = s.lkc.nextAge := rfl
@[simp] theorem entryBack_lkc_rx (s : State) : (entryBack s).lkc.rx = s.lkc.rx := rfl
@[simp] theorem entryBack_lkc_holding (s : State) : (entryBack s).lkc.holding = s.lkc.holding := rfl
@[simp] theorem entryBack_lkc_dropCount (s : State) : (entryBack s).lkc.dropCount = s.lkc.dropCount := rfl
@[simp] theorem entryBack_shc (s : State) : (entryBack s).shc = s.shc := rfl
@[simp] theorem entryBack_nck (s : State) : (entryBack s).nck = s.nck := rfl
@[simp] theorem entryBack_jnc (s : State) : (entryBack s).jnc = s.jnc := rfl
@[simp] theorem entryBack_lms (s : State) : (entryBack s).lms = s.lms := rfl
@[simp] theorem entryBack_flash (s : State) : (entryBack s).flash = s.flash := rfl
@[simp] theorem entryBack_draws (s : State) : (entryBack s).draws = s.draws := rfl
@[simp] theorem entryBack_pending (s : State) : (entryBack s).pending = s.pending := rfl

/-! `restartSync` -/

@[simp] theorem restartSync_supply (s : State) : (restartSync s).supply = s.supply := rfl
@[simp] theorem restartSync_rstLow (s : State) : (restartSync s).rstLow = s.rstLow := rfl
@[simp] theorem restartSync_phase (s : State) : (restartSync s).phase = s.phase := rfl
@[simp] theorem restartSync_startKind (s : State) : (restartSync s).startKind = s.startKind := rfl
@[simp] theorem restartSync_straps (s : State) : (restartSync s).straps = s.straps := rfl
@[simp] theorem restartSync_cfg (s : State) : (restartSync s).cfg = s.cfg := rfl
@[simp] theorem restartSync_csq (s : State) : (restartSync s).csq = s.csq := rfl
@[simp] theorem restartSync_wch (s : State) : (restartSync s).wch = s.wch := rfl
@[simp] theorem restartSync_tgi (s : State) : (restartSync s).tgi = s.tgi := rfl
@[simp] theorem restartSync_nls (s : State) : (restartSync s).nls = s.nls := rfl
@[simp] theorem restartSync_rct (s : State) : (restartSync s).rct = s.rct := rfl
@[simp] theorem restartSync_ldi (s : State) : (restartSync s).ldi = s.ldi := rfl
@[simp] theorem restartSync_lkc (s : State) : (restartSync s).lkc = s.lkc := rfl
@[simp] theorem restartSync_shc (s : State) : (restartSync s).shc = s.shc := rfl
@[simp] theorem restartSync_nck_clock (s : State) : (restartSync s).nck.clock = s.nck.clock := rfl
@[simp] theorem restartSync_nck_synced (s : State) : (restartSync s).nck.synced = s.nck.synced := rfl
@[simp] theorem restartSync_nck_syncTimer (s : State) : (restartSync s).nck.syncTimer = some (syncLength s) := rfl
@[simp] theorem restartSync_jnc (s : State) : (restartSync s).jnc = s.jnc := rfl
@[simp] theorem restartSync_lms (s : State) : (restartSync s).lms = s.lms := rfl
@[simp] theorem restartSync_flash (s : State) : (restartSync s).flash = s.flash := rfl
@[simp] theorem restartSync_draws (s : State) : (restartSync s).draws = s.draws := rfl
@[simp] theorem restartSync_pending (s : State) : (restartSync s).pending = s.pending := rfl

/-! `setLevel` -/

@[simp] theorem setLevel_supply_level (l : SupplyLevel) (s : State) : (setLevel l s).supply.level = l := rfl
@[simp] theorem setLevel_supply_recovery (l : SupplyLevel) (s : State) : (setLevel l s).supply.recovery = none := rfl
@[simp] theorem setLevel_supply_powerLoss (l : SupplyLevel) (s : State) : (setLevel l s).supply.powerLoss = s.supply.powerLoss := rfl
@[simp] theorem setLevel_supply_cutSinceStart (l : SupplyLevel) (s : State) : (setLevel l s).supply.cutSinceStart = s.supply.cutSinceStart := rfl
@[simp] theorem setLevel_rstLow (l : SupplyLevel) (s : State) : (setLevel l s).rstLow = s.rstLow := rfl
@[simp] theorem setLevel_phase (l : SupplyLevel) (s : State) : (setLevel l s).phase = s.phase := rfl
@[simp] theorem setLevel_startKind (l : SupplyLevel) (s : State) : (setLevel l s).startKind = s.startKind := rfl
@[simp] theorem setLevel_straps (l : SupplyLevel) (s : State) : (setLevel l s).straps = s.straps := rfl
@[simp] theorem setLevel_cfg (l : SupplyLevel) (s : State) : (setLevel l s).cfg = s.cfg := rfl
@[simp] theorem setLevel_csq (l : SupplyLevel) (s : State) : (setLevel l s).csq = s.csq := rfl
@[simp] theorem setLevel_wch (l : SupplyLevel) (s : State) : (setLevel l s).wch = s.wch := rfl
@[simp] theorem setLevel_tgi (l : SupplyLevel) (s : State) : (setLevel l s).tgi = s.tgi := rfl
@[simp] theorem setLevel_nls (l : SupplyLevel) (s : State) : (setLevel l s).nls = s.nls := rfl
@[simp] theorem setLevel_rct (l : SupplyLevel) (s : State) : (setLevel l s).rct = s.rct := rfl
@[simp] theorem setLevel_ldi (l : SupplyLevel) (s : State) : (setLevel l s).ldi = s.ldi := rfl
@[simp] theorem setLevel_lkc (l : SupplyLevel) (s : State) : (setLevel l s).lkc = s.lkc := rfl
@[simp] theorem setLevel_shc (l : SupplyLevel) (s : State) : (setLevel l s).shc = s.shc := rfl
@[simp] theorem setLevel_nck (l : SupplyLevel) (s : State) : (setLevel l s).nck = s.nck := rfl
@[simp] theorem setLevel_jnc (l : SupplyLevel) (s : State) : (setLevel l s).jnc = s.jnc := rfl
@[simp] theorem setLevel_lms (l : SupplyLevel) (s : State) : (setLevel l s).lms = s.lms := rfl
@[simp] theorem setLevel_flash (l : SupplyLevel) (s : State) : (setLevel l s).flash = s.flash := rfl
@[simp] theorem setLevel_draws (l : SupplyLevel) (s : State) : (setLevel l s).draws = s.draws := rfl
@[simp] theorem setLevel_pending (l : SupplyLevel) (s : State) : (setLevel l s).pending = s.pending := rfl

/-! `losePower` and the pins of a part that enters reset -/

@[simp] theorem losePower_supply (s : State) : (losePower s).supply = State.reset.supply := rfl
@[simp] theorem losePower_phase (s : State) : (losePower s).phase = State.reset.phase := rfl
@[simp] theorem losePower_startKind (s : State) : (losePower s).startKind = State.reset.startKind := rfl
@[simp] theorem losePower_straps (s : State) : (losePower s).straps = State.reset.straps := rfl
@[simp] theorem losePower_cfg (s : State) : (losePower s).cfg = State.reset.cfg := rfl
@[simp] theorem losePower_csq (s : State) : (losePower s).csq = State.reset.csq := rfl
@[simp] theorem losePower_wch (s : State) : (losePower s).wch = State.reset.wch := rfl
@[simp] theorem losePower_tgi (s : State) : (losePower s).tgi = State.reset.tgi := rfl
@[simp] theorem losePower_nls (s : State) : (losePower s).nls = State.reset.nls := rfl
@[simp] theorem losePower_rct (s : State) : (losePower s).rct = State.reset.rct := rfl
@[simp] theorem losePower_ldi (s : State) : (losePower s).ldi = State.reset.ldi := rfl
@[simp] theorem losePower_lkc (s : State) : (losePower s).lkc = State.reset.lkc := rfl
@[simp] theorem losePower_shc (s : State) : (losePower s).shc = State.reset.shc := rfl
@[simp] theorem losePower_nck (s : State) : (losePower s).nck = State.reset.nck := rfl
@[simp] theorem losePower_jnc (s : State) : (losePower s).jnc = State.reset.jnc := rfl
@[simp] theorem losePower_lms (s : State) : (losePower s).lms = State.reset.lms := rfl
@[simp] theorem losePower_flash (s : State) : (losePower s).flash = (holdInReset s).flash := rfl
@[simp] theorem losePower_draws (s : State) : (losePower s).draws = (holdInReset s).draws := rfl

theorem abandonArray_frame (s : State) :
    abandonArray s = { s with flash := (abandonArray s).flash, draws := (abandonArray s).draws } := by
  unfold abandonArray
  split <;> rfl

/-- R159: an idle array keeps its contents. -/
theorem abandonArray_idle {s : State} (h : s.jnc.array = .idle) : abandonArray s = s := by
  unfold abandonArray
  rw [h]

@[simp] theorem holdInReset_rstLow (s : State) : (holdInReset s).rstLow = s.rstLow := by
  unfold holdInReset enterReset
  split
  · rfl
  · rw [abandonArray_frame]

@[simp] theorem holdInReset_supply (s : State) : (holdInReset s).supply = s.supply := by
  unfold holdInReset enterReset
  split
  · rfl
  · rw [abandonArray_frame]

@[simp] theorem holdInReset_pending (s : State) : (holdInReset s).pending = s.pending := by
  unfold holdInReset enterReset
  split
  · rfl
  · rw [abandonArray_frame]

@[simp] theorem holdInReset_phase (s : State) : (holdInReset s).phase = .inReset := by
  unfold holdInReset
  split
  · assumption
  · rfl

/-- R159, R175: a part in reset already, or with an idle array, keeps the flash array's contents. -/
theorem holdInReset_flash {s : State} (h : s.phase = .inReset ∨ s.jnc.array = .idle) :
    (holdInReset s).flash = s.flash := by
  unfold holdInReset enterReset
  split
  · rfl
  · rename_i hp
    rw [abandonArray_idle (h.resolve_left hp)]

@[simp] theorem losePower_rstLow (s : State) : (losePower s).rstLow = s.rstLow := holdInReset_rstLow s
@[simp] theorem losePower_pending (s : State) : (losePower s).pending = s.pending := holdInReset_pending s

end Sys2Proof.Machine
end

