-- ==== Sys2Proof/Laws/Sequencer.lean ====
section
/-! SUPPORT. The chute sequencer's shared operations: what none of them changes (`Keeps`), and what an entry to
FAULT, a return and the judgements at the end of a step do. -/

namespace Sys2Proof.Machine

/-- From s to t nothing has changed that only a start, the supply, the clock or the flash array changes. -/
structure Keeps (s t : State) : Prop where
  supply : t.supply = s.supply
  rstLow : t.rstLow = s.rstLow
  phase : t.phase = s.phase
  startKind : t.startKind = s.startKind
  straps : t.straps = s.straps
  cfg : t.cfg = s.cfg
  nck : t.nck = s.nck
  flash : t.flash = s.flash
  pending : t.pending = s.pending

theorem Keeps.refl (s : State) : Keeps s s := by constructor <;> rfl

theorem Keeps.trans {s t u : State} (h : Keeps s t) (k : Keeps t u) : Keeps s u where
  supply := k.supply.trans h.supply
  rstLow := k.rstLow.trans h.rstLow
  phase := k.phase.trans h.phase
  startKind := k.startKind.trans h.startKind
  straps := k.straps.trans h.straps
  cfg := k.cfg.trans h.cfg
  nck := k.nck.trans h.nck
  flash := k.flash.trans h.flash
  pending := k.pending.trans h.pending

theorem QueueOp.keeps {s t : State} (h : QueueOp s t) : Keeps s t :=
  ⟨h.supply, h.rstLow, h.phase, h.startKind, h.straps, h.cfg, h.nck, h.flash, h.pending⟩

theorem JournalOp.keeps {s t : State} (h : JournalOp s t) : Keeps s t :=
  ⟨h.supply, h.rstLow, h.phase, h.startKind, h.straps, h.cfg, h.nck, h.flash, h.pending⟩

/-! ## Shaft coordinator -/

theorem setView_keeps (i : Fin 4) (v : View) (a : Timer) (s : State) : Keeps s (setView i v a s) := by
  constructor <;> rfl

theorem setTally_keeps (i : Fin 4) (t : Tally) (s : State) : Keeps s (setTally i t s) := by
  constructor <;> rfl

theorem giveSerial_keeps (x : W32) (s : State) : Keeps s (giveSerial x s) := by constructor <;> rfl

theorem raiseHold_keeps (r : HoldReason) (s : State) : Keeps s (raiseHold r s) := by constructor <;> rfl

theorem raiseIfFull_keeps (s : State) : Keeps s (raiseIfFull s) := by
  unfold raiseIfFull
  split
  · exact raiseHold_keeps _ s
  · exact Keeps.refl s

theorem setClaimPhase_op (p : ClaimPhase) (sp : Timer) (s : State) : QueueOp s (setClaimPhase p sp s) := by
  constructor <;> rfl

/-- R116: a withdrawal is an operation of the claim and the transmit queue. -/
theorem deferClaim_op (s : State) : QueueOp s (deferClaim s) :=
  (withdrawClaim_op s).trans (setClaimPhase_op _ _ _)

/-- R116, R118: so is the judgement of a claim that is back in the queue. -/
theorem judgeBack_op (s : State) : QueueOp s (judgeBack s) := by
  unfold judgeBack
  split
  · exact deferClaim_op s
  · exact setClaimPhase_op _ _ s

theorem judgeLost_op (s : State) : QueueOp s (judgeLost s) := by
  unfold judgeLost
  split
  · exact judgeBack_op s
  · exact QueueOp.refl s

/-- R118: no claim has lost contention: nothing is judged. -/
theorem judgeLost_of_not_lost {s : State} (h : s.shc.lost = false) : judgeLost s = s := by
  simp [judgeLost, h]

theorem queuedAfterLoss_op (s : State) : QueueOp s (queuedAfterLoss s) := by constructor <;> rfl

/-- R116, R117: the judgement of the own claim is an operation of the claim and the transmit queue. -/
theorem watchClaim_op (before s : State) : QueueOp s (watchClaim before s) := by
  unfold watchClaim
  split
  · split
    · exact deferClaim_op s
    · exact QueueOp.refl s
  · split
    · exact setClaimPhase_op _ _ s
    · exact QueueOp.refl s
  · split
    · exact QueueOp.refl s
    · exact setClaimPhase_op _ _ s
  · exact QueueOp.refl s
  · exact QueueOp.refl s

theorem queueClaim_op (serial : W32) (s : State) : QueueOp s (queueClaim serial s) :=
  QueueOp.trans (by constructor <;> rfl) (queueFrame_op _ _)

theorem requestClaim_op (serial : W32) (s : State) : QueueOp s (requestClaim serial s) := by
  unfold requestClaim
  split
  · exact startRetry_op s
  · split
    · exact queueClaim_op serial s
    · constructor <;> rfl

theorem giveUpClaim_op (s : State) : QueueOp s (giveUpClaim s) := by
  unfold giveUpClaim
  split
  · exact QueueOp.refl s
  · exact claimIdle_op s
  · exact claimIdle_op s
  · exact (withdrawClaim_op s).trans (claimIdle_op _)
  · constructor <;> rfl

theorem releaseShaft_keeps (r : ReleaseReason) (s : State) : Keeps s (releaseShaft r s) :=
  (setView_keeps _ _ _ s).trans (queueFrame_op _ _).keeps

theorem raiseJam_keeps (s : State) : Keeps s (raiseJam s) := by
  unfold raiseJam
  split
  · exact Keeps.refl s
  · exact (raiseHold_keeps _ s).trans (askGeneral_op _ _).keeps

/-! ## States, faults, homing -/

theorem enterState_keeps (st : SeqState) (s : State) : Keeps s (enterState st s) := by constructor <;> rfl

theorem endHoldForFault_keeps (o : SeqState) (s : State) : Keeps s (endHoldForFault o s) := by
  unfold endHoldForFault
  split
  · exact releaseShaft_keeps _ s
  · split
    · exact (giveUpClaim_op s).keeps
    · exact Keeps.refl s

theorem abandonCheck_keeps (o : SeqState) (s : State) : Keeps s (abandonCheck o s) := by
  unfold abandonCheck
  split
  · constructor <;> rfl
  · exact Keeps.refl s

theorem enterFault_keeps (r : FaultReason) (s : State) : Keeps s (enterFault r s) := by
  unfold enterFault
  have h : Keeps s (stopSequencer { s with rct := s.rct.stop }) := by constructor <;> rfl
  exact (((h.trans (abandonCheck_keeps _ _)).trans (enterState_keeps _ _)).trans
    (endHoldForFault_keeps _ _)).trans (askGeneral_op _ _).keeps

/-- R24: an operation that ends the coordinator's hold leaves the sequencer's state, bag and lock, the motor and
the tallies. -/
theorem endHoldForFault_spec (o : SeqState) (s : State) :
    (endHoldForFault o s).csq = { s.csq with retry := (endHoldForFault o s).csq.retry } ∧
    (endHoldForFault o s).rct = s.rct ∧ (endHoldForFault o s).shc.tallies = s.shc.tallies ∧
    (endHoldForFault o s).nls = s.nls ∧ (endHoldForFault o s).ldi = s.ldi ∧
    (endHoldForFault o s).lms = s.lms ∧ (endHoldForFault o s).jnc = s.jnc := by
  unfold endHoldForFault releaseShaft
  split
  · have h := queueFrame_op (.release s.straps.shf .fault) (setView s.straps.shf .free none s)
    exact ⟨h.csq, h.rct, h.tallies, h.nls, h.ldi, h.lms, h.jnc⟩
  · split
    · have h := giveUpClaim_op s
      exact ⟨h.csq, h.rct, h.tallies, h.nls, h.ldi, h.lms, h.jnc⟩
    · exact ⟨rfl, rfl, rfl, rfl, rfl, rfl, rfl⟩

/-- R24: the state, the lock, the bag, the motor and what a fault leaves alone. -/
theorem enterFault_spec (r : FaultReason) (s : State) :
    (enterFault r s).csq.state = .fault ∧ (enterFault r s).csq.lock = lockLine s.phase .fault ∧
    (enterFault r s).csq.bag = s.csq.bag ∧ (enterFault r s).csq.hatch = s.csq.hatch ∧
    (enterFault r s).rct = s.rct.stop ∧ (enterFault r s).shc.tallies = s.shc.tallies ∧
    (enterFault r s).nls = s.nls ∧ (enterFault r s).ldi = s.ldi := by
  unfold enterFault
  dsimp only
  set u := enterState .fault (abandonCheck s.csq.state (stopSequencer { s with rct := s.rct.stop })) with hu
  have hw : u.csq.state = .fault ∧ u.csq.lock = lockLine s.phase .fault ∧ u.csq.bag = s.csq.bag ∧
      u.csq.hatch = s.csq.hatch ∧ u.rct = s.rct.stop ∧ u.shc.tallies = s.shc.tallies ∧ u.nls = s.nls ∧
      u.ldi = s.ldi := by
    rw [hu]
    unfold abandonCheck
    split <;> exact ⟨rfl, rfl, rfl, rfl, rfl, rfl, rfl, rfl⟩
  obtain ⟨e1, e2, e3, e4, e5, -, -⟩ := endHoldForFault_spec s.csq.state u
  have h := askGeneral_op (faultRecord r s.csq.state s.csq.bag s.straps.shf) (endHoldForFault s.csq.state u)
  rw [h.csq, h.rct, h.tallies, h.nls, h.ldi, e2, e3, e4, e5]
  dsimp only
  generalize endHoldForFault s.csq.state u = v at e1 ⊢
  rw [e1]
  exact hw

theorem homeReached_keeps (s : State) : Keeps s (homeReached s) := by constructor <;> rfl

theorem enterHome_keeps (s : State) : Keeps s (enterHome s) := by
  unfold enterHome
  have h (r : Rotor) : Keeps s
      { enterState .home { s with csq := { s.csq with homeLimit := some s.cfg.homeLimit } } with rct := r } := by
    constructor <;> rfl
  dsimp only
  split
  · exact (h _).trans (enterFault_keeps _ _)
  · split
    · exact (h _).trans (homeReached_keeps _)
    · exact h _

/-! ## Returns, landings and the claim -/

theorem enterPresent_keeps (s : State) : Keeps s (enterPresent s) := by constructor <;> rfl

theorem returnBag_keeps (r : ReturnReason) (s : State) : Keeps s (returnBag r s) := by
  unfold returnBag
  have h : Keeps s { s with csq := { s.csq with
      bag := { s.csq.bag with reason := some r }, claimWait := none, retry := none, awaiting := none } } := by
    constructor <;> rfl
  have k := h.trans (askBag_op (returnRecord r s.csq.bag s.straps.shf) _).keeps
  dsimp only
  split
  · exact k.trans (enterPresent_keeps _)
  · exact k.trans (by constructor <;> rfl)

/-- R15: a return with a place for its record: PRESENT, the reason kept, the claim's timers stopped, the record
staged. -/
theorem returnBag_spec (r : ReturnReason) {s : State} (h : bagPlace s = true) :
    (returnBag r s).csq.state = .present ∧ (returnBag r s).csq.lock = lockLine s.phase .present ∧
    (returnBag r s).csq.bag = { s.csq.bag with reason := some r } ∧
    (returnBag r s).csq.claimWait = none ∧ (returnBag r s).csq.awaiting = none ∧
    (returnBag r s).rct = s.rct ∧ (returnBag r s).nls = s.nls ∧ (returnBag r s).ldi = s.ldi ∧
    (returnBag r s).shc.views = s.shc.views ∧ (returnBag r s).shc.tallies = s.shc.tallies := by
  unfold returnBag
  dsimp only
  rw [if_pos h]
  have k := askBag_op (returnRecord r s.csq.bag s.straps.shf) { s with csq := { s.csq with
    bag := { s.csq.bag with reason := some r }, claimWait := none, retry := none, awaiting := none } }
  generalize askBag (returnRecord r s.csq.bag s.straps.shf) _ = u at k ⊢
  refine ⟨rfl, ?_, ?_, ?_, ?_, k.rct, k.nls, k.ldi, k.views, k.tallies⟩
  · show lockLine u.phase .present = _
    rw [k.phase]
  · show u.csq.bag = _
    rw [k.csq]
  · show u.csq.claimWait = _
    rw [k.csq]
  · show u.csq.awaiting = _
    rw [k.csq]

theorem takeOwnLanding_keeps (s : State) : Keeps s (takeOwnLanding s) :=
  (((setTally_keeps _ _ s).trans (giveSerial_keeps _ _)).trans (setView_keeps _ _ _ _)).trans
    (raiseIfFull_keeps _)

theorem completeLanding_keeps (s : State) : Keeps s (completeLanding s) := by
  unfold completeLanding
  have h : Keeps s { s with csq := { s.csq with landingSettle := none } } := by constructor <;> rfl
  exact ((((h.trans (takeOwnLanding_keeps _)).trans (askBag_op _ _).keeps).trans
    (queueFrame_op _ _).keeps).trans (by constructor <;> rfl)).trans (enterHome_keeps _)

theorem enterFall_keeps (s : State) : Keeps s (enterFall s) := by
  unfold enterFall
  have h : Keeps s (enterState .fall { s with csq := { s.csq with turnLimit := none } }) := by
    constructor <;> rfl
  dsimp only
  split
  · exact h.trans (by constructor <;> rfl)
  · split
    · exact h.trans (completeLanding_keeps _)
    · exact h

theorem enterTurn_keeps (s : State) : Keeps s (enterTurn s) := by
  unfold enterTurn
  dsimp only
  split
  · exact Keeps.trans (by constructor <;> rfl) (enterFall_keeps _)
  · constructor <;> rfl

theorem takeBusyRefusal_keeps (s : State) : Keeps s (takeBusyRefusal s) := by
  unfold takeBusyRefusal
  split
  · exact (startRetry_op s).keeps
  · exact returnBag_keeps _ s

theorem takeGrant_keeps (s : State) : Keeps s (takeGrant s) := by
  unfold takeGrant
  have h : Keeps s { s with csq := { s.csq with claimWait := none, retry := none, awaiting := none } } := by
    constructor <;> rfl
  dsimp only
  split
  · exact (h.trans (releaseShaft_keeps _ _)).trans (returnBag_keeps _ _)
  · exact h.trans (enterTurn_keeps _)

/-- R119, R121: whatever the outcome of the own CLAIM. -/
theorem claimOutcome_keeps (slot : SlotLevels) (s : State) : Keeps s (claimOutcome slot s) := by
  unfold claimOutcome
  have h := (claimIdle_op s).keeps
  dsimp only
  split
  · split
    · exact h.trans (returnBag_keeps _ _)
    · split
      · exact h.trans (takeBusyRefusal_keeps _)
      · exact h.trans (takeGrant_keeps _)
  · split
    · exact h.trans (releaseShaft_keeps _ _)
    · exact h

/-- R118: a CLAIM back in the queue, however it is QUEUED again. -/
theorem claimBack_keeps {back : State → State} (s : State) (hb : QueueOp s (back s)) :
    Keeps s (claimBack back s) := by
  unfold claimBack
  have h := ((withdrawClaim_op s).trans (claimIdle_op _)).keeps
  split
  · split
    · exact hb.keeps
    · exact h.trans (returnBag_keeps _ _)
  · exact h

theorem claimDropped_keeps (s : State) : Keeps s (claimDropped s) := by
  unfold claimDropped
  dsimp only
  split
  · exact (claimIdle_op s).keeps.trans (takeBusyRefusal_keeps _)
  · exact (claimIdle_op s).keeps

theorem enterClaim_keeps (s : State) : Keeps s (enterClaim s) := by
  unfold enterClaim
  exact Keeps.trans (by constructor <;> rfl) (requestClaim_op _ _).keeps

theorem abandonClaim_keeps (c : AwaitCause) (s : State) : Keeps s (abandonClaim c s) := by
  unfold abandonClaim
  split
  · constructor <;> rfl
  · exact (giveUpClaim_op s).keeps.trans (returnBag_keeps _ _)

/-! ## The check order -/

theorem checkRules_keeps (mass : Nat) (overRange unstable : Bool) (s : State) :
    Keeps s (checkRules mass overRange unstable s) := by
  unfold checkRules
  split
  · exact enterState_keeps _ s
  · split
    · exact returnBag_keeps _ s
    · split
      · exact returnBag_keeps _ s
      · split
        · split
          · exact returnBag_keeps _ s
          · split
            · exact returnBag_keeps _ s
            · exact Keeps.trans (by constructor <;> rfl) (enterClaim_keeps _)
        · exact returnBag_keeps _ s
        · exact returnBag_keeps _ s

theorem checkOrder_keeps (w : WeighOutcome) (s : State) : Keeps s (checkOrder w s) := by
  unfold checkOrder
  dsimp only
  split
  · exact Keeps.trans (by constructor <;> rfl) (returnBag_keeps _ _)
  · split
    · exact Keeps.trans (by constructor <;> rfl) (returnBag_keeps _ _)
    · exact Keeps.trans (by constructor <;> rfl) (checkRules_keeps _ _ _ _)

theorem judgeCheckEnd_keeps (s : State) : Keeps s (judgeCheckEnd s) := by
  unfold judgeCheckEnd
  split
  · split
    · exact Keeps.refl s
    · exact checkOrder_keeps _ s
  · exact Keeps.refl s

/-! ## What is judged at the end of a step -/

theorem judgeHeld_keeps (s : State) : Keeps s (judgeHeld s) := by
  unfold judgeHeld
  split
  · exact enterState_keeps _ s
  · split
    · exact enterState_keeps _ s
    · exact Keeps.refl s

theorem judgeHatch_keeps (s : State) : Keeps s (judgeHatch s) := by
  unfold judgeHatch
  split
  · exact enterFault_keeps _ s
  · exact Keeps.refl s

theorem judgeTare_keeps (s : State) : Keeps s (judgeTare s) := by
  unfold judgeTare
  split
  · split
    · exact Keeps.refl s
    · constructor <;> rfl
  · split
    · constructor <;> rfl
    · constructor <;> rfl

/-- R8, R11, R26, R39: the judgements at the end of a step. -/
theorem settleStep_keeps (s : State) : Keeps s (settleStep s) :=
  ((judgeHeld_keeps s).trans (judgeHatch_keeps _)).trans (judgeTare_keeps _)

/-- R56, R130 step 2: a LANDED taken gives the night list its serial, whatever shaft it names. -/
theorem takeLanded_nls (shaft : Byte) (serial : W32) (mass count : W16) (binMass : W32) (s : State) :
    (takeLanded shaft serial mass count binMass s).nls = (giveSerial serial s).nls := by
  unfold takeLanded mergeLanding
  dsimp only
  split
  · rfl
  · rw [(watchClaim_op _ _).nls]
    unfold freeView raiseIfFull
    repeat' split
    all_goals rfl

/-- R13: what the check order finds in the bag. -/
theorem fillBag_filled (w : WeighOutcome) (s : State) :
    BagFilled w s (fillBag s.csq.bag w s.tgi.readSet s.tgi.firstRead) := by
  unfold BagFilled fillBag
  rcases w with _ | ⟨mass, overRange, unstable⟩ <;> rcases s.tgi.readSet with _ | ⟨serial, rest⟩ <;>
    rcases s.tgi.firstRead with _ | f <;> simp

end Sys2Proof.Machine
end

