-- ==== Sys2Proof/Laws/Claim.lean ====
section
/-! SUPPORT. The own claim: what it does after a change of the views or the tallies (`watchClaim_follows`), given up
(`giveUpClaim_givenUp`) and asked for (`requestClaim_asked`). -/

namespace Sys2Proof.Machine

/-- R116, R117: the own claim follows a change of the views or the tallies. -/
theorem watchClaim_follows {before s : State} (hc : s.cfg = before.cfg)
    (hs : ClaimAs before.shc s) (hq : s.lkc.queue = before.lkc.queue) (hi : s.lkc.inTx = before.lkc.inTx) :
    ClaimFollows before (watchClaim before s) := by
  have hw := watchClaim_op before s
  have hv : ownView (watchClaim before s) = ownView s := by unfold ownView; rw [hw.views, hw.straps]
  have hf : ownFull (watchClaim before s) = ownFull s := by
    unfold ownFull ownTally; rw [hw.tallies, hw.straps, hw.cfg]
  have hqc : s.lkc.queuedClaim = before.lkc.queuedClaim := by unfold Link.queuedClaim; rw [hq, hi]
  have hph : s.shc.phase = before.shc.phase := by rw [hs]
  have hother (u : State) : heldByOther u (ownView u) = true ↔ ∃ h, ownView u = .held h ∧ h ≠ u.straps.adr := by
    unfold heldByOther
    cases ownView u <;> simp
  have hclear : claimClear s = true ↔ ownView s = .free ∧ ownFull s = false := by simp [claimClear]
  unfold ClaimFollows
  simp only [hv, hf, hw.straps]
  refine ⟨fun h => ?_, fun h => ?_, fun h => ?_, fun h => ?_⟩
  · have e : watchClaim before s = s := by
      unfold watchClaim
      rcases h with h | h <;> rw [hph, h]
    rw [e]
    exact ⟨hs, hq⟩
  · have hb : becameBlocked before s = true ↔
        (((∃ h, ownView s = .held h ∧ h ≠ s.straps.adr) ∧ ¬ ∃ h, ownView before = .held h ∧ h ≠ before.straps.adr) ∨
          (ownView s = .jammed ∧ ownView before ≠ .jammed) ∨ (ownFull s = true ∧ ownFull before = false)) := by
      simp only [becameBlocked, Bool.or_eq_true, Bool.and_eq_true, Bool.not_eq_true', beq_iff_eq, bne_iff_ne,
        ← hother, Bool.not_eq_true, or_assoc]
    rw [← hb]
    unfold watchClaim
    rw [hph, h]
    refine ⟨fun hn => ?_, fun hy => ?_⟩
    · simp only [hn]
      exact ⟨hs, hq⟩
    · simp only [hy, if_true]
      unfold deferClaim withdrawClaim
      rw [hqc]
      refine ⟨?_, fun e he => ?_, fun he => ?_⟩
      · split <;> (simp only [setClaimPhase]; rw [hs])
      · simp [he, setClaimPhase, Link.without, hq]
      · simp [he, setClaimPhase, hq]
  · unfold watchClaim
    rw [hph, h]
    dsimp only
    split
    · next hc' => exact ⟨hq, fun _ => by simp only [setClaimPhase]; rw [hs, hc], fun hn => absurd (hclear.1 hc') hn⟩
    · next hc' => exact ⟨hq, fun hy => absurd (hclear.2 hy) hc', fun _ => hs⟩
  · unfold watchClaim
    rw [hph, h]
    dsimp only
    split
    · next hc' => exact ⟨hq, fun _ => hs, fun hn => absurd (hclear.1 hc') hn⟩
    · next hc' =>
      exact ⟨hq, fun hy => absurd (hclear.2 hy) hc', fun _ => by simp only [setClaimPhase]; rw [hs]⟩

/-- R106, R121: the claim given up. -/
theorem giveUpClaim_givenUp (s : State) : ClaimGivenUp s (giveUpClaim s) := by
  unfold giveUpClaim
  refine ⟨fun h => ?_, fun h => ?_, fun h => ?_, fun h => ?_⟩
  · simp [h]
  · rcases h with h | h <;> rw [h] <;> exact ⟨rfl, rfl⟩
  · rw [h]
    refine ⟨?_, withdrawClaim_withdrawn s⟩
    show (claimIdle (withdrawClaim s)).shc = _
    rw [claimIdle_shc, withdrawClaim_shc]
  · rw [h]; exact ⟨rfl, rfl⟩

theorem giveUpClaim_lkc (s : State) :
    (giveUpClaim s).lkc = { s.lkc with queue := (giveUpClaim s).lkc.queue } := by
  unfold giveUpClaim
  split <;> first | rfl | exact withdrawClaim_lkc s

/-- R104, R105, R115, R117, R118: the CLAIM queued for the claim serial, while none stands in the queue. -/
theorem queueClaim_asked {serial : W32} {s : State} (hl : LinkRight s) (ha : AgesRight s)
    (hc : s.lkc.hasClaim = false) (hv : ownView s = .free) (hf : ownFull s = false) :
    ClaimAsked serial s.csq.retry s (queueClaim serial s) := by
  refine ⟨fun h => ?_, fun _ _ => ⟨?_, fun h8 => ?_, fun e h8 hu => ⟨fun hk => ?_, fun hk => ?_⟩⟩⟩
  · rcases h with h | h
    · exact absurd hv h
    · rw [hf] at h; cases h
  · exact queueFrame_queued (s := { s with shc := { s.shc with
      phase := .queued, claimSerial := some serial, spacing := none } }) hl ha (fun _ => hc) rfl
  all_goals
    unfold queueClaim queueFrame
    simp only [TxFrame.isClaim, hc, Bool.and_false, Bool.false_eq_true, if_false]
  · simp only [h8, if_true]
    unfold joinQueue startIfFree
    by_cases hp : s.lkc.phase = .free
    · have hq : s.lkc.queue = [] := hl.2.2.2 hp
      simp only [Link.push, hp, if_true]
      unfold startFrame
      simp only [hq, List.nil_append, txHead]
      split
      · simp [yieldStart, State.draw]
      · simp [sendStart, State.draw, TxFrame.isClaim]
    · simp [Link.push, hp]
  · have hp : s.lkc.phase ≠ .free := fun hp => by simp [hl.2.2.2 hp] at h8
    have hne : e.content.isClaim = false := by
      by_contra h
      have := List.any_eq_false.1 hc e hu.1
      exact this (by simpa using h)
    simp only [h8, lt_irrefl, if_false, txCandidate_eq ha h8 hu, hk, if_true]
    simp [replaceEntry, hne, joinQueue, startIfFree, Link.push, Link.without, Link.dropped, hp]
  · simp only [h8, lt_irrefl, if_false, txCandidate_eq ha h8 hu, Nat.not_lt.2 hk]
    simp only [refuseQueue, TxFrame.isClaim, if_true, claimRefusedAtQueue]
    split
    · next h => exact ⟨rfl, by simp [startRetry, claimIdle, h]⟩
    · next h => exact ⟨rfl, (if_neg h).symm⟩

/-- R115: a claim request in phase NONE. -/
theorem requestClaim_asked {serial : W32} {s : State} (hl : LinkRight s) (ha : AgesRight s)
    (hc : s.lkc.hasClaim = false) (hp : s.shc.phase = .idle) :
    ClaimAsked serial s.csq.retry s (requestClaim serial s) := by
  unfold requestClaim
  rw [if_neg (by simp [hp])]
  split
  · next h =>
    simp only [claimClear, Bool.and_eq_true, beq_iff_eq, Bool.not_eq_true'] at h
    exact queueClaim_asked hl ha hc h.1 h.2
  · next h =>
    simp only [claimClear, Bool.and_eq_true, beq_iff_eq, Bool.not_eq_true'] at h
    exact ⟨fun _ => ⟨⟨rfl, rfl⟩, rfl⟩, fun hv hf => absurd ⟨hv, hf⟩ h⟩

end Sys2Proof.Machine
end

