-- ==== Sys2Proof/Laws/Memory.lean ====
section
/-! SUPPORT. The flash array (R145): what a byte reads as after each operation, and that every operation keeps
the canonical form. -/

namespace Sys2Proof.Machine

/-! ## The canonical form -/

theorem flashWfFrom_mono {lo lo' : Nat} (h : lo' ≤ lo) {m : List Host.Cell} (w : flashWfFrom lo m = true) :
    flashWfFrom lo' m = true := by
  cases m with
  | nil => rfl
  | cons c rest =>
    obtain ⟨k, v⟩ := c
    simp only [flashWfFrom, Bool.and_eq_true, decide_eq_true_eq] at w ⊢
    exact ⟨⟨⟨by omega, w.1.1.2⟩, w.1.2⟩, w.2⟩

/-- Below the first address that may be listed every byte reads as erased. -/
theorem flashRead_below {lo a : Nat} (h : a < lo) {m : List Host.Cell} (w : flashWfFrom lo m = true) :
    flashRead m a = erasedByte := by
  induction m generalizing lo with
  | nil => rfl
  | cons c rest ih =>
    obtain ⟨k, v⟩ := c
    simp only [flashWfFrom, Bool.and_eq_true, decide_eq_true_eq] at w
    simp only [flashRead, show k ≠ a by omega, if_false]
    exact ih (by omega) w.2

/-- Setting a byte inside the array keeps the canonical form. -/
theorem flashSet_wf {lo a : Nat} (b : Byte) (ha : lo ≤ a) (hs : a < flashSize) {m : List Host.Cell}
    (w : flashWfFrom lo m = true) : flashWfFrom lo (flashSet m a b) = true := by
  induction m generalizing lo with
  | nil =>
    unfold flashSet
    split
    · rfl
    · next hb => simp [flashWfFrom, ha, hs, hb]
  | cons c rest ih =>
    obtain ⟨k, v⟩ := c
    have w' := w
    simp only [flashWfFrom, Bool.and_eq_true, decide_eq_true_eq] at w
    obtain ⟨⟨⟨h1, h2⟩, h3⟩, h4⟩ := w
    unfold flashSet
    split
    · next hlt =>
      split
      · exact w'
      · next hb =>
        simp only [flashWfFrom, Bool.and_eq_true, decide_eq_true_eq]
        exact ⟨⟨⟨ha, hs⟩, by simpa using hb⟩, ⟨⟨by omega, h2⟩, h3⟩, h4⟩
    · split
      · split
        · exact flashWfFrom_mono (by omega) h4
        · next hk hb =>
          subst hk
          simp only [flashWfFrom, Bool.and_eq_true, decide_eq_true_eq]
          exact ⟨⟨⟨ha, hs⟩, by simpa using hb⟩, h4⟩
      · simp only [flashWfFrom, Bool.and_eq_true, decide_eq_true_eq]
        exact ⟨⟨⟨h1, h2⟩, h3⟩, ih (by omega) h4⟩

/-! ## Reading after writing -/

/-- A byte set reads as it was set, and every other byte as before. -/
theorem flashRead_flashSet {lo a : Nat} (b : Byte) (x : Nat) {m : List Host.Cell}
    (w : flashWfFrom lo m = true) : flashRead (flashSet m a b) x = if x = a then b else flashRead m x := by
  induction m generalizing lo with
  | nil =>
    unfold flashSet
    split
    · next hb => split <;> simp [flashRead, hb]
    · by_cases hx : x = a
      · simp [flashRead, hx]
      · simp [flashRead, hx, Ne.symm hx]
  | cons c rest ih =>
    obtain ⟨k, v⟩ := c
    have w' := w
    simp only [flashWfFrom, Bool.and_eq_true, decide_eq_true_eq] at w
    unfold flashSet
    split
    · next hlt =>
      split
      · next hb =>
        split
        · next hx =>
          subst hx
          rw [hb]
          refine flashRead_below (lo := k) hlt ?_
          simp only [flashWfFrom, Bool.and_eq_true, decide_eq_true_eq]
          exact ⟨⟨⟨le_refl k, w.1.1.2⟩, w.1.2⟩, w.2⟩
        · rfl
      · by_cases hx : x = a
        · simp [flashRead, hx]
        · simp [flashRead, hx, Ne.symm hx]
    · split
      · next hk =>
        subst hk
        split
        · next hb =>
          split
          · next hx => subst hx; rw [hb]; exact flashRead_below (by omega) w.2
          · next hx => simp [flashRead, Ne.symm hx]
        · by_cases hx : x = a
          · simp [flashRead, hx]
          · simp [flashRead, hx, Ne.symm hx]
      · next hk =>
        simp only [flashRead]
        rw [ih w.2]
        by_cases hx : x = a
        · subst hx; simp [Ne.symm hk]
        · simp [hx]

/-- Setting a byte leaves every other byte, in canonical form or not. -/
theorem flashRead_flashSet_ne {a x : Nat} (b : Byte) (h : x ≠ a) (m : List Host.Cell) :
    flashRead (flashSet m a b) x = flashRead m x := by
  induction m with
  | nil => unfold flashSet; split <;> simp [flashRead, Ne.symm h]
  | cons c rest ih =>
    obtain ⟨k, v⟩ := c
    unfold flashSet
    split
    · split
      · rfl
      · simp [flashRead, Ne.symm h]
    · split
      · next hk => subst hk; split <;> simp [flashRead, Ne.symm h]
      · simp only [flashRead]; rw [ih]

/-! ## Programming (R145: bits change only from 1 to 0) -/

theorem flashProgram_wf {a : Nat} (b : Byte) (hs : a < flashSize) {m : List Host.Cell}
    (w : flashWf m = true) : flashWf (flashProgram m a b) = true :=
  flashSet_wf _ (Nat.zero_le a) hs w

theorem flashProgramBytes_wf (bs : List Byte) {a : Nat} (hs : a + bs.length ≤ flashSize)
    {m : List Host.Cell} (w : flashWf m = true) : flashWf (flashProgramBytes m a bs) = true := by
  induction bs generalizing m a with
  | nil => exact w
  | cons b rest ih =>
    simp only [List.length_cons] at hs
    exact ih (by omega) (flashProgram_wf b (by omega) w)

theorem flashSetBytes_wf (bs : List Byte) {a : Nat} (hs : a + bs.length ≤ flashSize)
    {m : List Host.Cell} (w : flashWf m = true) : flashWf (flashSetBytes m a bs) = true := by
  induction bs generalizing m a with
  | nil => exact w
  | cons b rest ih =>
    simp only [List.length_cons] at hs
    exact ih (by omega) (flashSet_wf b (Nat.zero_le a) (by omega) w)

/-- Programming leaves the bytes outside the range programmed. -/
theorem flashRead_flashProgramBytes_outside (bs : List Byte) {a x : Nat} (h : x < a ∨ a + bs.length ≤ x)
    (m : List Host.Cell) : flashRead (flashProgramBytes m a bs) x = flashRead m x := by
  induction bs generalizing m a with
  | nil => rfl
  | cons b rest ih =>
    simp only [List.length_cons] at h
    rw [flashProgramBytes, ih (by omega), flashProgram, flashRead_flashSet_ne _ (by omega)]

/-- R145: a byte programmed keeps only the bits that were 1 in it and are 1 in the byte written. -/
theorem flashRead_flashProgramBytes_inside (bs : List Byte) {a k : Nat} (hk : k < bs.length)
    (hs : a + bs.length ≤ flashSize) {m : List Host.Cell} (w : flashWf m = true) :
    flashRead (flashProgramBytes m a bs) (a + k) = flashRead m (a + k) &&& byteAt bs k := by
  induction bs generalizing m a k with
  | nil => simp at hk
  | cons b rest ih =>
    simp only [List.length_cons] at hk hs
    rw [flashProgramBytes]
    cases k with
    | zero =>
      rw [flashRead_flashProgramBytes_outside _ (by omega), flashProgram, flashRead_flashSet _ _ w]
      simp [byteAt]
    | succ k =>
      have := ih (a := a + 1) (k := k) (by omega) (by omega)
        (flashProgram_wf (a := a) b (by omega) w)
      rw [show a + (k + 1) = a + 1 + k by omega, this, flashProgram,
        flashRead_flashSet_ne (a := a) (x := a + 1 + k) _ (by omega)]
      rfl

/-! ## Bytes set (R159: how a page reads after an operation that reset cut off) -/

/-- Bytes set leave those outside their range. -/
theorem flashRead_flashSetBytes_outside (bs : List Byte) {a x : Nat} (h : x < a ∨ a + bs.length ≤ x)
    (m : List Host.Cell) : flashRead (flashSetBytes m a bs) x = flashRead m x := by
  induction bs generalizing m a with
  | nil => rfl
  | cons b rest ih =>
    simp only [List.length_cons] at h
    rw [flashSetBytes, ih (by omega), flashRead_flashSet_ne _ (by omega)]

/-- Bytes set read as they were set. -/
theorem flashRead_flashSetBytes_inside (bs : List Byte) {a k : Nat} (hk : k < bs.length)
    (hs : a + bs.length ≤ flashSize) {m : List Host.Cell} (w : flashWf m = true) :
    flashRead (flashSetBytes m a bs) (a + k) = byteAt bs k := by
  induction bs generalizing m a k with
  | nil => simp at hk
  | cons b rest ih =>
    simp only [List.length_cons] at hk hs
    rw [flashSetBytes]
    cases k with
    | zero =>
      rw [flashRead_flashSetBytes_outside _ (by omega), flashRead_flashSet _ _ w]
      simp [byteAt]
    | succ k =>
      rw [show a + (k + 1) = a + 1 + k by omega,
        ih (by omega) (by omega) (flashSet_wf (a := a) b (Nat.zero_le a) (by omega) w)]
      rfl

/-! ## Erasing -/

theorem flashWfFrom_filter (p : Host.Cell → Bool) {lo : Nat} {m : List Host.Cell}
    (w : flashWfFrom lo m = true) : flashWfFrom lo (m.filter p) = true := by
  induction m generalizing lo with
  | nil => rfl
  | cons c rest ih =>
    obtain ⟨k, v⟩ := c
    simp only [flashWfFrom, Bool.and_eq_true, decide_eq_true_eq] at w
    rw [List.filter_cons]
    split
    · simp only [flashWfFrom, Bool.and_eq_true, decide_eq_true_eq]
      exact ⟨w.1, ih w.2⟩
    · exact flashWfFrom_mono (by omega) (ih w.2)

theorem flashErase_wf (base : Nat) {m : List Host.Cell} (w : flashWf m = true) :
    flashWf (flashErase m base) = true :=
  flashWfFrom_filter _ w

/-- R145: after an erase every byte of the page reads FFh, and every other byte as before. -/
theorem flashRead_flashErase (m : List Host.Cell) (base x : Nat) :
    flashRead (flashErase m base) x = if base ≤ x ∧ x < base + 1024 then erasedByte else flashRead m x := by
  unfold flashErase
  induction m with
  | nil => simp [flashRead]
  | cons c rest ih =>
    obtain ⟨k, v⟩ := c
    rw [List.filter_cons]
    split
    · next hk =>
      simp only [Bool.or_eq_true, decide_eq_true_eq] at hk
      simp only [flashRead]
      by_cases hx : k = x
      · subst hx
        simp only [if_true]
        rw [if_neg (by omega)]
      · simp only [hx, if_false]; exact ih
    · next hk =>
      simp only [Bool.or_eq_true, decide_eq_true_eq] at hk
      rw [ih]
      simp only [flashRead]
      by_cases hx : k = x
      · subst hx; rw [if_pos (by omega), if_pos (by omega)]
      · simp [hx]

/-! ## Slots and records -/

/-- R178: a record is among the journal's when its slot, one of 512, holds it as a valid record. -/
theorem mem_journalRecords {m : List Host.Cell} {n : Nat} {r : Record} :
    (n, r) ∈ journalRecords m ↔ n < 512 ∧ slotRecord m n = some r := by
  simp [journalRecords, recordsIn, List.mem_filterMap, List.mem_range]

/-- R145: a blank slot holds no valid record. -/
theorem slotRecord_of_blank {m : List Host.Cell} {n : Nat} (h : slotBlank m n = true) :
    slotRecord m n = none := by
  unfold slotBlank at h
  simp [slotRecord, slotValid, validBytes, h]

theorem slotBlank_nil (n : Nat) : slotBlank [] n = true := by
  simp [slotBlank, slotBytes, flashBytes, blankBytes, flashRead, erasedByte]

/-- A blank array holds no record. -/
theorem journalRecords_nil : journalRecords [] = [] := by
  simp [journalRecords, recordsIn, slotRecord_of_blank (slotBlank_nil _)]

/-! ## Operations that reset cuts off (R159) -/

@[simp] theorem Record.toBytes_length (r : Record) : (Record.toBytes r).length = 32 := rfl

@[simp] theorem slotBytes_length (m : List Host.Cell) (n : Nat) : (slotBytes m n).length = 32 := by
  simp [slotBytes, flashBytes]

/-- R159: a programming that had begun has left a byte, up to the first that is not FFh. -/
theorem bytesLeft_pos (n : Nat) (bs : List Byte) : (bs.takeWhile (· == 0xFF)).length < bytesLeft n bs :=
  Nat.lt_of_lt_of_le (Nat.lt_succ_self _) (Nat.le_max_right _ _)

/-- R159: a record cut off in programming: its first bytes stand in its slot, and no other byte changes. -/
theorem flashRead_cutOffProgram {n : Nat} {j : Journal} {r : Record} {rest : List Record} {m : List Host.Cell}
    (hj : j.staging = r :: rest) (hp : j.writePtr < 512) (w : flashWf m = true) (k : Nat) (hk : k < 32) :
    flashRead (cutOffProgram n j m) (32 * j.writePtr + k) =
      if k < bytesLeft n r.toBytes then flashRead m (32 * j.writePtr + k) &&& byteAt r.toBytes k
      else flashRead m (32 * j.writePtr + k) := by
  have hl := r.toBytes_length
  simp only [cutOffProgram, hj]
  split
  · rw [flashRead_flashProgramBytes_inside _ (by simp; omega) (by simp [flashSize]; omega) w]
    simp [byteAt, List.getD, *]
  · rw [flashRead_flashProgramBytes_outside _ (by simp; omega)]

theorem flashRead_cutOffProgram_outside {n x : Nat} {j : Journal} {m : List Host.Cell}
    (h : x < 32 * j.writePtr ∨ 32 * j.writePtr + 32 ≤ x) : flashRead (cutOffProgram n j m) x = flashRead m x := by
  unfold cutOffProgram
  split
  · rfl
  · rw [flashRead_flashProgramBytes_outside _ (by simp; omega)]

theorem cutOffProgram_wf {n : Nat} {j : Journal} {m : List Host.Cell} (hp : j.writePtr < 512)
    (w : flashWf m = true) : flashWf (cutOffProgram n j m) = true := by
  unfold cutOffProgram
  split
  · exact w
  · exact flashProgramBytes_wf _ (by simp [flashSize]; omega) w

/-- R159: each slot of a page in erase reads blank, void or as before. -/
theorem cutOffSlot_cases (before after : List Byte) :
    blankBytes (cutOffSlot before after) = true ∨ voidBytes (cutOffSlot before after) = true ∨
      cutOffSlot before after = before := by
  unfold cutOffSlot
  split
  · next h => simp only [Bool.or_eq_true] at h; tauto
  · exact .inr (.inr rfl)

theorem cutOffSlot_length {before after : List Byte} (hb : before.length = 32) (ha : after.length = 32) :
    (cutOffSlot before after).length = 32 := by
  unfold cutOffSlot
  split <;> assumption

/-- R159: a page whose erase was cut off keeps the canonical form, and no byte outside the page changes. -/
theorem cutOffErase_op {n page : Nat} (hp : page < 16) {m : List Host.Cell} (w : flashWf m = true) :
    flashWf (cutOffErase n page m) = true ∧
      ∀ x, x < 1024 * page ∨ 1024 * page + 1024 ≤ x → flashRead (cutOffErase n page m) x = flashRead m x := by
  unfold cutOffErase
  refine List.foldlRecOn _ _ (motive := fun acc => flashWf acc = true ∧
    ∀ x, x < 1024 * page ∨ 1024 * page + 1024 ≤ x → flashRead acc x = flashRead m x) ⟨w, fun _ _ => rfl⟩ ?_
  rintro acc ⟨wa, ha⟩ i hi
  have hi : i < 32 := List.mem_range.mp hi
  have hl : (cutOffSlot (slotBytes m (32 * page + i))
      ((List.range 32).map (fun k => Config.partlyErasedByte n (32 * (32 * page + i) + k)))).length = 32 :=
    cutOffSlot_length (slotBytes_length _ _) (by simp)
  refine ⟨flashSetBytes_wf _ (by rw [hl]; simp [flashSize]; omega) wa, fun x hx => ?_⟩
  rw [flashRead_flashSetBytes_outside _ (by rw [hl]; omega), ha x hx]

/-- R159, R171: an information-page operation cut off keeps the canonical form, and no byte outside the page
changes. -/
theorem cutOffInfo_op {n : Nat} {offset : Byte} {data : List Byte} {m : List Host.Cell} (w : flashWf m = true) :
    flashWf (cutOffInfo n offset data m) = true ∧
      ∀ x, x < infoBase ∨ infoBase + 1024 ≤ x → flashRead (cutOffInfo n offset data m) x = flashRead m x := by
  have hl : ((infoData offset data).take (Config.bytesProgrammed n)).length ≤ 74 - offset.toNat := by
    simp [infoData]
  have ho := offset.isLt
  unfold cutOffInfo
  dsimp only
  split_ifs
  · refine ⟨flashProgramBytes_wf _ (by simp [infoBase, flashSize] at *; omega) (flashErase_wf _ w), fun x hx => ?_⟩
    rw [flashRead_flashProgramBytes_outside _ (by simp [infoBase] at *; omega), flashRead_flashErase,
      if_neg (by omega)]
  · refine ⟨flashSetBytes_wf _ (by simp [infoBase, flashSize]) w, fun x hx => ?_⟩
    rw [flashRead_flashSetBytes_outside _ (by simp [infoBase] at *; omega)]
  · refine ⟨flashProgramBytes_wf _ (by simp [infoBase, flashSize] at *; omega) w, fun x hx => ?_⟩
    rw [flashRead_flashProgramBytes_outside _ (by simp [infoBase] at *; omega)]

/-- The flash array right after reset is in canonical form. -/
theorem reset_flash_wf : flashWf State.reset.flash = true := rfl

end Sys2Proof.Machine
end

