-- ==== Sys2Proof/Laws/Journal.lean ====
section
/-! SUPPORT. What the giving of the flash array does (R154 to R157): when an erase is wanted, when a slot is offered,
which slots are skipped, and that an operation it begins is permitted. -/

namespace Sys2Proof.Machine

/-- R145: a page is blank exactly if each of its 32 slots is. -/
theorem pageBlank_iff {m : List Host.Cell} {p : Nat} :
    pageBlank m p = true ↔ ∀ i, i < 32 → slotBlank m (32 * p + i) = true := by
  simp [pageBlank]

/-- R145: the records of a page are the journal's records whose slot lies in it. -/
theorem mem_pageRecords {m : List Host.Cell} {p : Nat} (hp : p < 16) {q : Nat × Record} :
    q ∈ pageRecords m p ↔ q ∈ journalRecords m ∧ q.1 / 32 = p := by
  obtain ⟨n, r⟩ := q
  rw [mem_journalRecords]
  simp only [pageRecords, recordsIn, List.mem_filterMap, List.mem_map, List.mem_range]
  constructor
  · rintro ⟨x, ⟨i, hi, rfl⟩, hx⟩
    cases hr : slotRecord m (32 * p + i) <;> simp [hr] at hx
    obtain ⟨rfl, rfl⟩ := hx
    exact ⟨⟨by omega, hr⟩, by omega⟩
  · rintro ⟨⟨hn, hr⟩, rfl⟩
    exact ⟨n, ⟨n % 32, by omega, by omega⟩, by simp [hr]⟩

theorem pageAhead_lt (wp : Nat) : pageAhead wp < 16 := Nat.mod_lt _ (by decide)

/-- R157: an erase is wanted exactly where it is permitted. -/
theorem eraseWanted_iff {s : State} : eraseWanted s = true ↔ ErasePermitted s := by
  have hb : pageBlank s.flash (pageAhead s.jnc.writePtr) = false ↔
      ∃ i, i < 32 ∧ slotBlank s.flash (32 * pageAhead s.jnc.writePtr + i) = false := by
    rw [← Bool.not_eq_true, pageBlank_iff]; simp
  have hp : pageProtected s.flash (pageAhead s.jnc.writePtr) s.jnc.auditMark = false ↔
      ∀ q ∈ journalRecords s.flash, q.1 / 32 = pageAhead s.jnc.writePtr →
        q.2.seq.toNat ≤ s.jnc.auditMark.toNat := by
    simp only [pageProtected, List.any_eq_false, mem_pageRecords (pageAhead_lt _), decide_eq_true_eq, not_lt]
    exact ⟨fun h q m e => h q ⟨m, e⟩, fun h q m => h q m.1 m.2⟩
  simp only [eraseWanted, Bool.and_eq_true, Bool.not_eq_true', beq_iff_eq, hb, hp]
  exact ⟨fun ⟨⟨a, b⟩, c⟩ => ⟨c, a, b⟩, fun ⟨c, a, b⟩ => ⟨⟨a, b⟩, c⟩⟩

/-- R156: the slot that is offered is blank, and at place 0 its whole page is. -/
theorem slotOffered_blank {m : List Host.Cell} {wp : Nat} (h : slotOffered m wp = true) :
    slotBlank m wp = true ∧ (wp % 32 = 0 → ∀ i, i < 32 → slotBlank m (wp + i) = true) := by
  unfold slotOffered at h
  split at h
  · have k : ∀ i, i < 32 → slotBlank m (wp + i) = true := fun i hi => by
      rw [show wp = 32 * (wp / 32) by omega]
      exact pageBlank_iff.mp h i hi
    exact ⟨k 0 (by decide), fun _ => k⟩
  · exact ⟨h, fun e => absurd e ‹_›⟩

/-- R156: the slots skipped lie at places 1..31 and are not blank, and the current page stays. -/
theorem skipSlots_spec (m : List Host.Cell) : ∀ (fuel wp : Nat), wp < 512 →
    ∃ k, skipSlots m fuel wp = (wp + k) % 512 ∧
      (∀ j, j < k → (wp + j) % 32 ≠ 0 ∧ slotBlank m (wp + j) = false) ∧
      pageAhead (skipSlots m fuel wp) = pageAhead wp := by
  intro fuel
  induction fuel with
  | zero => exact fun wp h => ⟨0, by simp [skipSlots, Nat.mod_eq_of_lt h], by simp, rfl⟩
  | succ fuel ih =>
    intro wp h
    unfold skipSlots
    split
    · exact ⟨0, by simp [Nat.mod_eq_of_lt h], by simp, rfl⟩
    · split
      · exact ⟨0, by simp [Nat.mod_eq_of_lt h], by simp, rfl⟩
      · rename_i h0 hb
        by_cases he : wp = 511
        · subst he
          have hs : skipSlots m fuel (nextSlot 511) = 0 := by cases fuel <;> simp [skipSlots, nextSlot]
          refine ⟨1, by rw [hs], fun j hj => ?_, by rw [hs]; decide⟩
          obtain rfl : j = 0 := by omega
          exact ⟨by decide, by simpa using hb⟩
        · have hn : nextSlot wp = wp + 1 := by unfold nextSlot; omega
          obtain ⟨k, e, hk, hp⟩ := ih (nextSlot wp) (by omega)
          rw [hn] at e hk hp ⊢
          refine ⟨k + 1, by rw [e, Nat.add_right_comm, Nat.add_assoc], fun j hj => ?_, hp.trans ?_⟩
          · rcases Nat.eq_zero_or_pos j with rfl | hpos
            · exact ⟨h0, by simpa using hb⟩
            · have := hk (j - 1) (by omega)
              rwa [show wp + 1 + (j - 1) = wp + j by omega] at this
          · simp only [pageAhead, currentPage]; omega

/-- R157: what a permission to erase rests on. -/
theorem erasePermitted_congr {s t : State} (hl : t.supply = s.supply) (hf : t.flash = s.flash)
    (hm : t.jnc.auditMark = s.jnc.auditMark) (hp : pageAhead t.jnc.writePtr = pageAhead s.jnc.writePtr) :
    ErasePermitted t ↔ ErasePermitted s := by
  have e : ∀ u : State, ErasePermitted u ↔ u.supply.level = .normal ∧
      (∃ i, i < 32 ∧ slotBlank u.flash (32 * pageAhead u.jnc.writePtr + i) = false) ∧
      ∀ q ∈ journalRecords u.flash, q.1 / 32 = pageAhead u.jnc.writePtr → q.2.seq.toNat ≤ u.jnc.auditMark.toNat :=
    fun _ => Iff.rfl
  rw [e, e, hl, hf, hm, hp]

/-- R156: a programming begins at an offered slot; the pointer only skips to it, and with no slot offered the array
stays idle. -/
theorem startProgram_spec {s : State} (hp : s.jnc.writePtr < 512) (hi : s.jnc.array = .idle) :
    let t := startProgram s
    t.supply = s.supply ∧ t.flash = s.flash ∧ t.lkc = s.lkc ∧
    t.jnc = { s.jnc with writePtr := t.jnc.writePtr, array := t.jnc.array } ∧
    pageAhead t.jnc.writePtr = pageAhead s.jnc.writePtr ∧
    (∃ k, t.jnc.writePtr = (s.jnc.writePtr + k) % 512 ∧
      ∀ j, j < k → (s.jnc.writePtr + j) % 32 ≠ 0 ∧ slotBlank s.flash (s.jnc.writePtr + j) = false) ∧
    (t.jnc.array = .idle ∨ t.jnc.array = .program ∧ slotOffered s.flash t.jnc.writePtr = true) := by
  obtain ⟨k, e, hk, ha⟩ := skipSlots_spec s.flash 32 s.jnc.writePtr hp
  simp only [startProgram]
  split <;> rename_i ho
  · exact ⟨rfl, rfl, rfl, rfl, ha, ⟨k, e, hk⟩, .inr ⟨rfl, ho⟩⟩
  · exact ⟨rfl, rfl, rfl, rfl, ha, ⟨k, e, hk⟩, .inl hi⟩

/-- R154, R156, R157: given an idle array with no READ_JOURNAL waiting, the operation that begins is permitted. -/
theorem giveOperation_right {s : State} (hp : s.jnc.writePtr < 512) (hr : s.jnc.pendingRead = none)
    (hi : s.jnc.array = .idle) (h : (giveOperation s).jnc.array ≠ .idle) : OperationRight (giveOperation s) := by
  unfold giveOperation at h ⊢
  by_cases he : eraseWanted s = true
  · have k : ErasePermitted s := eraseWanted_iff.mp he
    rw [if_pos he]
    exact ⟨hr, fun page e => by injection e with e; exact ⟨e.symm, k⟩, fun n => absurd rfl (n _), fun e => by cases e⟩
  · have k : ¬ ErasePermitted s := fun x => he (eraseWanted_iff.mpr x)
    rw [if_neg he] at h ⊢
    split <;> rename_i hc
    · exact ⟨hr, fun page e => by (injection e), fun _ => k, fun e => by (injection e)⟩
    · by_cases hs : s.jnc.staging = []
      · rw [if_pos hs] at h
        split at h
        · rename_i e; exact absurd e (hc _ _)
        · exact absurd hi h
      · rw [if_neg hs] at h ⊢
        split at h
        · rename_i e; exact absurd e (hc _ _)
        obtain ⟨h1, h2, h3, h4, h5, -, h6 | ⟨ha, ho⟩⟩ := startProgram_spec hp hi
        · exact absurd h6 h
        · have hb := slotOffered_blank ho
          refine ⟨by rw [h4]; exact hr, fun page e => by (rw [ha] at e; injection e), fun _ => ?_, fun _ =>
            ⟨by rw [h4]; exact hs, ?_⟩⟩
          · rwa [erasePermitted_congr h1 h2 (by rw [h4]) h5]
          · rw [h2, h3]
            exact ⟨hb.1, hb.2, hc⟩

end Sys2Proof.Machine
end

