-- ==== Sys2Proof/Laws/Link.lean ====
section
/-! SUPPORT. The bits of frames: what is read is what was sent, byte by byte and frame by frame, and where a
transmitter loses contention. -/

namespace Sys2Proof.Machine

/-! ## Bytes and bits (R87) -/

@[simp] theorem byteBits_length (b : Byte) : (byteBits b).length = 8 := rfl

/-- A byte read from its bits is the byte that was sent. -/
theorem bitsOf_byteBits (b : Byte) :
    bitsOf 8 [b.getLsbD 0, b.getLsbD 1, b.getLsbD 2, b.getLsbD 3, b.getLsbD 4, b.getLsbD 5, b.getLsbD 6,
      b.getLsbD 7] = b := by
  revert b
  decide +kernel

/-- R87: the bytes read from bits that end with a whole byte, the first of them of the byte b. -/
theorem bitsBytes_byteBits_append (b : Byte) (rest : List Bool) :
    bitsBytes (byteBits b ++ rest) = b :: bitsBytes rest := by
  show bitsOf 8 _ :: bitsBytes rest = _
  rw [bitsOf_byteBits]

/-- R87: what is read from the bits of bytes is these bytes. -/
theorem bitsBytes_bytesBits (bs : List Byte) : bitsBytes (bytesBits bs) = bs := by
  induction bs with
  | nil => rfl
  | cons b bs ih =>
    show bitsBytes (byteBits b ++ bytesBits bs) = _
    rw [bitsBytes_byteBits_append, ih]

@[simp] theorem bytesBits_length (bs : List Byte) : (bytesBits bs).length = 8 * bs.length := by
  induction bs with
  | nil => rfl
  | cons b bs ih =>
    show (byteBits b ++ bytesBits bs).length = _
    simp only [List.length_append, ih, byteBits_length, List.length_cons]
    omega

/-! ## Frames (R91, R99) -/

/-- R91: the length byte of a frame that can pass on the link. -/
theorem lengthByte_toNat {f : Frame} (h : f.payload.length ≤ 255) :
    (BitVec.ofNat 8 f.payload.length).toNat = f.payload.length := by
  rw [BitVec.toNat_ofNat]
  omega

theorem Frame.wire_eq (f : Frame) :
    Frame.wire f =
      f.kind :: f.source :: f.dest :: BitVec.ofNat 8 f.payload.length :: (f.payload ++ [f.check]) := rfl

theorem Frame.bits_length (f : Frame) : (Frame.bits f).length = 8 * (f.payload.length + 5) := by
  simp only [Frame.bits, bytesBits_length, Frame.wire_eq, List.length_cons, List.length_append,
    List.length_nil]

/-- R91, R99: the frame that the bits of a frame make up is that frame. -/
theorem frameOf_bits {f : Frame} (h : f.payload.length ≤ 255) : frameOf (Frame.bits f) = some f := by
  have hl := Frame.bits_length f
  unfold frameOf
  rw [hl, Frame.bits, bitsBytes_bytesBits, Frame.wire_eq]
  simp [lengthByte_toNat h, byteAt]

/-- R99: whether the length byte of a whole frame reads above 32. -/
theorem lengthAbove32_bits {f : Frame} (h : f.payload.length ≤ 255) :
    lengthAbove32 (Frame.bits f) = decide (32 < f.payload.length) := by
  unfold lengthAbove32
  rw [Frame.bits, bitsBytes_bytesBits, Frame.wire_eq]
  simp only [lengthByte_toNat h]

/-- R99: the reception after the last bit of the check byte. -/
theorem receptionOf_frame {f : Frame} (h : f.payload.length ≤ 255) (s : State) :
    receptionOf s (Frame.bits f) =
      if 32 < f.payload.length then .followed else .judged (judgeFrame s f) := by
  unfold receptionOf
  rw [lengthAbove32_bits h, frameOf_bits h]
  simp

/-! ## Contention (R92) -/

/-- R92: a transmitter loses contention with the bits read exactly where it sent 1 and reads 0, every bit before
having been read as sent. -/
theorem lostContention_iff (sent read : List Bool) :
    lostContention sent read = true ↔ ∃ k, sent[k]? = some true ∧ read = sent.take k ++ [false] := by
  induction sent generalizing read with
  | nil => simp [lostContention]
  | cons s sent ih =>
    cases read with
    | nil => simp [lostContention]
    | cons r read =>
      have hrec : (s = r ∧ lostContention sent read = true) ↔
          ∃ k, (s :: sent)[k + 1]? = some true ∧ r :: read = (s :: sent).take (k + 1) ++ [false] := by
        rw [ih]
        constructor
        · rintro ⟨rfl, k, hk, rfl⟩
          exact ⟨k, by simpa using hk, rfl⟩
        · rintro ⟨k, hk, he⟩
          simp only [List.take_succ_cons, List.cons_append, List.cons.injEq] at he
          exact ⟨he.1.symm, k, by simpa using hk, he.2⟩
      have hzero : (s = true ∧ r = false ∧ read = []) ↔
          (s :: sent)[0]? = some true ∧ r :: read = (s :: sent).take 0 ++ [false] := by simp
      have hdef : lostContention (s :: sent) (r :: read) = true ↔
          (s = true ∧ r = false ∧ read = []) ∨ (s = r ∧ lostContention sent read = true) := by
        cases s <;> cases r <;> cases read <;> simp [lostContention]
      rw [hdef, hzero, hrec]
      constructor
      · rintro (h | ⟨k, hk⟩)
        · exact ⟨0, h⟩
        · exact ⟨k + 1, hk⟩
      · rintro ⟨k, hk⟩
        cases k with
        | zero => exact Or.inl hk
        | succ k => exact Or.inr ⟨k, hk⟩

/-- R92: after bits read as sent, a 0 loses contention exactly where the next bit was sent as 1. -/
theorem lostContention_next (sent got : List Bool) :
    lostContention sent (got ++ [false]) = true ↔ got <+: sent ∧ sent[got.length]? = some true := by
  rw [lostContention_iff]
  constructor
  · rintro ⟨k, hk, he⟩
    have hlt : k < sent.length := (List.getElem?_eq_some_iff.mp hk).1
    obtain rfl : got = sent.take k := List.append_cancel_right he
    refine ⟨List.take_prefix _ _, ?_⟩
    rwa [List.length_take, Nat.min_eq_left hlt.le]
  · rintro ⟨hp, hk⟩
    exact ⟨got.length, hk, by rw [← List.prefix_iff_eq_take.mp hp]⟩

/-- R92: what a transmitter does with bits that it reads, once it has read some. -/
theorem readAsSent_op {got : List Bool} {s : State} (more : List Bool) (e : TxEntry)
    (h : s.lkc.reception = .bits got) :
    readAsSent more e s =
      if got ++ more <+: sentBits s e then { s with lkc := { s.lkc with reception := .bits (got ++ more) } }
      else s := by
  simp only [readAsSent, h, List.isPrefixOf_iff_prefix]

/-- R92: what a transmitter does with a bit that reads 0, once it has read some. -/
theorem readZero_op {got : List Bool} {s : State} (e : TxEntry) (h : s.lkc.reception = .bits got) :
    readZero e s =
      if got <+: sentBits s e ∧ (sentBits s e)[got.length]? = some true then
        loseContention (got ++ [false]) e s
      else s := by
  simp only [readZero, h, lostContention_next]

end Sys2Proof.Machine
end

