-- ==== Sys2Proof/Laws/Rotor.lean ====
section
/-! SUPPORT. The position of the rotor counter after a step of the encoder, and what a stop, a turn, a drop compare match
and a home request do to it. -/

namespace Sys2Proof.Machine

/-- R66, R67, R69: a forward step raises the position by 1; from 65,535 it goes on at 0. -/
theorem Rotor.stepForward_position (r : Rotor) : r.stepForward.position =
    if r.count = 0xFFFF ∧ r.underflow = false then 0 else r.position + 1 := by
  have h16 := r.count.isLt
  by_cases hc : r.count = 0xFFFF
  · cases hu : r.underflow <;> simp [stepForward, position, hc, hu]
  · have hn : r.count.toNat ≠ 65535 := fun h => hc (BitVec.eq_of_toNat_eq (by simpa using h))
    have ht : (r.count + 1).toNat = r.count.toNat + 1 := by
      rw [BitVec.toNat_add]; simp; omega
    cases hu : r.underflow <;>
      simp only [stepForward, position, hu, ht, hc, false_and, if_false, if_true, Bool.false_eq_true] <;> omega

/-- R66, R67, R69: a reverse step lowers the position by 1; from a count of 0 it goes on at -1. -/
theorem Rotor.stepReverse_position (r : Rotor) : r.stepReverse.position =
    if r.count = 0 then -1 else r.position - 1 := by
  have h16 := r.count.isLt
  by_cases hc : r.count = 0
  · simp [stepReverse, position, hc]
  · have hn : r.count.toNat ≠ 0 := fun h => hc (BitVec.eq_of_toNat_eq (by simpa using h))
    have ht : (r.count - 1).toNat = r.count.toNat - 1 := by
      rw [BitVec.toNat_sub]; simp; omega
    cases hu : r.underflow <;>
      simp only [stepReverse, position, hu, ht, hc, if_false, if_true, Bool.false_eq_true] <;> omega

/-- R72, R77: whatever cuts the motor leaves MRUN inactive. -/
theorem Rotor.cutRun_mrun (r : Rotor) : r.cutRun.mrun ≠ .high := by
  unfold cutRun
  split <;> simp_all

@[simp] theorem Rotor.cutRun_position (r : Rotor) : r.cutRun.position = r.position := by
  unfold cutRun
  split <;> rfl

@[simp] theorem Rotor.dropMatch_position (r : Rotor) (clock : W32) :
    (r.dropMatch clock).position = r.position := Rotor.cutRun_position r

theorem Rotor.cutRun_runEnded (r : Rotor) : RunEnded r r.cutRun := by
  unfold RunEnded cutRun Rotor.direction
  by_cases h : r.mrun = .high <;> simp [h]

/-- R77: what a stop request does. -/
theorem Rotor.stop_motorStopped (r : Rotor) : MotorStopped r r.stop := by
  refine ⟨?_, r.cutRun_runEnded⟩
  unfold stop cutRun
  split <;> rfl

/-- R76: what a home request does. -/
theorem Rotor.goHome_asked (r : Rotor) : HomeAsked r r.goHome := by
  refine ⟨fun h => by simp [goHome, h], fun h => ?_⟩
  cases hd : r.deadTime <;> cases hl : r.lastDir with
  | none => simp [goHome, h, drive, mustWait, Dir.line, hd, hl]
  | some d => cases d <;> simp [goHome, h, drive, mustWait, Dir.line, hd, hl]

/-- R73: a turn that does not begin at the drop target. -/
theorem Rotor.turn_forward {r : Rotor} {target : Nat} (clock : W32) (h : r.position ≠ (target : Int)) :
    r.turn target clock = { r with
      mode := .forward, maxReached := r.position, dropTime := none, mdir := .high
      mrun := if r.deadTime ≠ none ∧ r.lastDir = some .rev then .low else .high } := by
  cases hd : r.deadTime <;> cases hl : r.lastDir with
  | none => simp [turn, h, drive, mustWait, Dir.line, hd, hl]
  | some d => cases d <;> simp [turn, h, drive, mustWait, Dir.line, hd, hl]

/-- R74: what the drop compare match does. -/
theorem Rotor.dropMatch_ended (r : Rotor) (clock : W32) :
    r.dropMatch clock = { r with
      dropTime := some clock, mode := .watch, mrun := (r.dropMatch clock).mrun
      deadTime := (r.dropMatch clock).deadTime, lastDir := (r.dropMatch clock).lastDir } ∧
    RunEnded r (r.dropMatch clock) := by
  refine ⟨?_, r.cutRun_runEnded⟩
  unfold dropMatch cutRun
  split <;> rfl

end Sys2Proof.Machine
end

