-- ==== Sys2Proof/Laws/Settle.lean ====
section
/-! SUPPORT. What the judgements at the end of a step do: nothing to a settled state, and they leave every
state settled. -/

namespace Sys2Proof.Machine

theorem judgeHeld_of_settled {s : State} (h : Settled s) : judgeHeld s = s := by
  obtain ⟨h1, h2, -⟩ := h
  unfold judgeHeld
  split
  · next hc => rw [h1 hc.1] at hc; exact absurd hc.2 (by decide)
  · split
    · next hc => rw [h2 hc.1] at hc; exact absurd hc.2 (by decide)
    · rfl

theorem judgeHatch_of_settled {s : State} (h : Settled s) : judgeHatch s = s := by
  unfold judgeHatch
  split
  · next hc => rw [h.2.2.1 (Or.inr hc.1)] at hc; exact absurd hc.2 (by decide)
  · rfl

theorem judgeTare_of_settled {s : State} (h : Settled s) : judgeTare s = s := by
  obtain ⟨-, -, -, h4, h5⟩ := h
  unfold judgeTare
  split
  · next he => simp [h4 he]
  · next he =>
    obtain ⟨ha, ht⟩ := h5 (by simpa using he)
    simp [ha, ← ht]

/-- A settled state is left as it is. -/
theorem settleStep_of_settled {s : State} (h : Settled s) : settleStep s = s := by
  simp only [settleStep, judgeHeld_of_settled h, judgeHatch_of_settled h, judgeTare_of_settled h]

/-- The outcome of a command whose effect is a settled state. -/
theorem running_of_settled {s t : State} (hp : s.phase ≠ .inReset) (h : Settled t) :
    running s t = .next t := by
  simp [running, hp, settleStep_of_settled h]

/-- The outcome of a command on a part out of reset. -/
theorem running_eq {s t : State} (hp : s.phase ≠ .inReset) : running s t = .next (settleStep t) := by
  simp [running, hp]

/-- A command that finds nothing to do leaves a settled state as it is. -/
theorem running_self {s : State} (h : Runs s) : running s s = .next s :=
  running_of_settled h.1 h.2

/-- In reset no command of the running part is taken. -/
theorem running_inReset {s t : State} (hp : s.phase = .inReset) : running s t = .next s := by
  simp [running, hp]

/-! ## The tare judgement touches the weigh channel only -/

theorem judgeTare_frame (s : State) : judgeTare s = { s with wch := (judgeTare s).wch } := by
  unfold judgeTare
  split
  · split <;> rfl
  · split <;> rfl

@[simp] theorem judgeTare_csq (s : State) : (judgeTare s).csq = s.csq := by rw [judgeTare_frame]
@[simp] theorem judgeTare_rct (s : State) : (judgeTare s).rct = s.rct := by rw [judgeTare_frame]
@[simp] theorem judgeTare_jnc (s : State) : (judgeTare s).jnc = s.jnc := by rw [judgeTare_frame]
@[simp] theorem judgeTare_lkc (s : State) : (judgeTare s).lkc = s.lkc := by rw [judgeTare_frame]
@[simp] theorem judgeTare_shc (s : State) : (judgeTare s).shc = s.shc := by rw [judgeTare_frame]
@[simp] theorem judgeTare_flash (s : State) : (judgeTare s).flash = s.flash := by rw [judgeTare_frame]
@[simp] theorem judgeTare_lms (s : State) : (judgeTare s).lms = s.lms := by rw [judgeTare_frame]
@[simp] theorem judgeTare_phase (s : State) : (judgeTare s).phase = s.phase := by rw [judgeTare_frame]
@[simp] theorem judgeTare_pending (s : State) : (judgeTare s).pending = s.pending := by rw [judgeTare_frame]

end Sys2Proof.Machine
end

