-- ==== Sys2Proof/WellFormed.lean ====
section
/-! DEFINITION. Which commands are well formed. Most operands cannot be ill formed (their types bound
them); the bits and bytes of a frame can: a frame has as many as its length byte allows (R91). -/

namespace Sys2Proof

/-- R91: the bits of a frame with a payload of n bytes, from the kind byte to the check byte. -/
def frameBitCount (n : Nat) : Nat := 8 * (n + 5)

/-- A command is well formed when its operands can arrive on the part's lines. A length byte of 33..255 is
well formed: the station follows such a frame only (R99), and holds no clock in it (R103). -/
def Instr.wf : Instr → Bool
  | .checkByte bits => decide (bits.length ≤ frameBitCount 255)
  | .holdTheClock _ _ _ rest => decide (rest.length ≤ 34)
  | _ => true

end Sys2Proof
end

