-- ==== Sys2Proof/Tests/Slice0.lean ====
section
/-! SUPPORT. The model's own tests: check values and worked figures of the spec, one-step tests, and for every
obligation with hypotheses a witness that meets them (`witness_<name of the obligation>`, clause by clause). -/

namespace Sys2Proof.Tests

-- The tests are checked one after another: each is small, and side by side they would ask for many threads.
set_option Elab.async false

open Sys2Proof.Machine

/-! ## Small states -/

/-- A part in service: address 1, own shaft 2, the hatch shut in OPEN, the array busy with an erase. -/
def svc : State :=
  { State.reset with
    supply := { level := .normal, recovery := none, powerLoss := false, cutSinceStart := false }
    phase := .service
    straps := { adr := 1, shf := 2, srv := true }
    csq := { State.reset.csq with state := .opened, lock := .low }
    rct := { State.reset.rct with mrun := .low, mdir := .low }
    lkc := { State.reset.lkc with phase := .settling }
    jnc := { State.reset.jnc with array := .erase 0 } }

/-- The sequencer in a state. -/
def inState (st : SeqState) (s : State) : State :=
  { s with csq := { s.csq with state := st, lock := lockLine s.phase st } }

/-- The array idle with nothing to do. -/
def idleArray (s : State) : State := { s with jnc := { s.jnc with array := .idle } }

/-- n staged records. -/
def staged (n : Nat) (s : State) : State :=
  { s with jnc := { s.jnc with
      staging := (List.range n).map (fun i =>
        { stamped s (RecordReq.blank .jam 2) with seq := BitVec.ofNat 32 (i + 1) })
      seqCounter := BitVec.ofNat 32 n } }

/-- A frame at the head of the receive queue. -/
def withRx (m : RxMsg) (s : State) : State := { s with lkc := { s.lkc with rx := [m] } }

/-- A frame in transmission. -/
def sending (c : TxFrame) (attempts : Nat) (s : State) : State :=
  { s with lkc := { s.lkc with
      phase := .transmitting, queue := [{ content := c, attempts := attempts, age := 7 }], inTx := some 7
      nextAge := 8 } }

/-- A transmitter that has read these bits of its frame. -/
def reading (bits : List Bool) (s : State) : State := { s with lkc := { s.lkc with reception := .bits bits } }

/-- The view of a shaft. -/
def seen (i : Fin 4) (v : View) (s : State) : State := setView i v (some 8000) s

/-- The lamps as the state gives them. -/
def lit (s : State) : State := refreshLamps s

/-- A command waiting. -/
def waiting (c : Instr) (s : State) : State := { s with pending := [c] }

/-- A judged frame. -/
def judgedFrame (claimShaft : Option Byte) (take : Option RxMsg) : Judged :=
  { frame := { kind := 0x20, source := 5, dest := 0, payload := [], check := 0 }, crcGood := true
    claimShaft := claimShaft, take := take, driveA := false, driveB := false }

/-- A reception of the part in RECEIVING. -/
def receiving (r : Reception) (s : State) : State :=
  { s with lkc := { s.lkc with phase := .receiving, reception := r } }

/-! ## Well-formedness (R91, R92, R99) -/

theorem test_wf_accepts : Instr.wf (.checkByte (List.replicate 2080 true)) = true := by decide +kernel
theorem test_wf_refuses_check_byte : Instr.wf (.checkByte (List.replicate 2081 true)) = false := by
  decide +kernel
theorem test_wf_refuses_hold : Instr.wf (.holdTheClock 0x10 2 0 (List.replicate 35 0)) = false := by decide
theorem test_decode_none : decodeTableWord 8 0 = none := by decide

/-! ## Check values and worked figures of the spec -/

/-- R2: the check value over the digits "123456789" is 29B1h. -/
theorem test_crc16 : crc16 [0x31, 0x32, 0x33, 0x34, 0x35, 0x36, 0x37, 0x38, 0x39] = 0x29B1 := by decide +kernel
/-- R2: the check value over the same digits is F4h. -/
theorem test_crc8 : crc8 [0x31, 0x32, 0x33, 0x34, 0x35, 0x36, 0x37, 0x38, 0x39] = 0xF4 := by decide +kernel

/-- Section 2.6: the window of the worked weighing. -/
def workedWindow : List W16 :=
  [3421, 3424, 3422, 3425, 3423, 3420, 3424, 3426, 3422, 3423, 3425, 3421, 3424, 3422, 3423, 3425]

/-- Section 2.6: sum 54,770, spread 6, 932 g. -/
theorem test_worked_weighing :
    windowSum workedWindow = 54770 ∧ windowSpread workedWindow = 6 ∧
    massResult 12000 54770 34400 = (932, false) := by decide

/-- Section 2.9: the steps of the worked tare sequences. -/
theorem test_worked_tare :
    tareStep 34420 34431 = 34421 ∧ tareStep 34421 34408 = 34420 ∧ tareStep 34400 34461 = 34407 ∧
    tareStep 34407 34395 = 34406 ∧ tareStep 34400 34395 = 34400 := by decide

/-- Section 2.9: the snap after a start is judged against 4 × L = 640, a later check against 160. -/
theorem test_worked_tare_limit :
    tareLimit svc.cfg svc.wch = 640 ∧ tareLimit svc.cfg { svc.wch with snapPending := false } = 160 := by decide

/-- Section 4.8: from 65534 with underflow (position -2) two forward steps lead to -1 and 0. -/
theorem test_worked_turn :
    let r : Rotor := { State.reset.rct with count := 65534, underflow := true }
    r.position = -2 ∧ r.stepForward.position = -1 ∧ r.stepForward.stepForward.position = 0 := by decide

/-- Section 4.8: after 406 with a slack of 8 a step to 398 is no reverse travel, one to 397 is. -/
theorem test_worked_rock_back :
    let r (c : W16) : Rotor := { State.reset.rct with mode := .watch, count := c, maxReached := 406 }
    isReverseTravel (r 399) (r 399).stepReverse 8 = false ∧
    isReverseTravel (r 398) (r 398).stepReverse 8 = true := by decide

/-- Section 4.8: from count 0 a reverse step leads to 65535 with underflow set, position -1. -/
theorem test_worked_coast :
    (Rotor.stepReverse State.reset.rct).count = 65535 ∧ (Rotor.stepReverse State.reset.rct).position = -1 := by
  decide

/-- Table 6-3, row by row. -/
theorem test_table_6_3 :
    maxMerge { count := 17, mass := 14200 } 900 19 16050 = { count := 19, mass := 16050 } ∧
    maxMerge { count := 19, mass := 16050 } 900 19 16050 = { count := 20, mass := 16950 } ∧
    maxMerge { count := 0, mass := 0 } 1210 41 32710 = { count := 41, mass := 32710 } ∧
    maxMerge { count := 65535, mass := 4294967295 } 500 12 6000 =
      { count := 65535, mass := 4294967295 } := by decide

/-- Sections 5.10, 5.11 and 6.9: the lengths of LANDED, SYNC, CLAIM and JAM at 50 kbit/s. -/
theorem test_frame_lengths :
    frameMicros 1 13 = 2950 ∧ frameMicros 1 7 = 1990 ∧ frameMicros 1 5 = 1670 ∧ frameMicros 1 1 = 1030 := by
  decide

/-- Section 7.7: station 2 FREE, station 7 FREE, station 2 SYNCED. -/
theorem test_sync_lengths :
    syncLength { svc with straps := { svc.straps with adr := 2 } } = 3020 ∧
    syncLength { svc with straps := { svc.straps with adr := 7 } } = 3120 ∧
    syncLength { svc with straps := { svc.straps with adr := 2 }
                          nck := { svc.nck with synced := true } } = 1020 := by decide

/-- R146 and section 8.10: current page and page ahead of the write pointers 0, 212 and 224. -/
theorem test_pages :
    currentPage 0 = 15 ∧ pageAhead 0 = 0 ∧ currentPage 212 = 6 ∧ pageAhead 212 = 7 ∧ currentPage 224 = 6 ∧
    pageAhead 224 = 7 := by decide

/-- Section 5.10: LANDED (14h) goes before SYNC (30h) whatever their ages; of one kind the older goes first. -/
theorem test_transmit_order :
    (txHead [⟨.sync 0 0 true, 0, 1⟩, ⟨.landed 1 5 0 0 0, 0, 3⟩, ⟨.landed 1 6 0 0 0, 0, 2⟩]).map (·.age) =
      some 2 := by decide

/-- Section 6.10, station 4: HELD(8) objects busy to a CLAIM of station 3, and the listed serial as a duplicate. -/
theorem test_worked_objection :
    claimBusy (seen 0 (.held 8) svc) 0 3 = true ∧ claimBusy svc 0 3 = false ∧
    inNightList { svc with nls := { svc.nls with entries := [0x00C3A5E1] } } 0x00C3A5E1 = true := by decide

/-- Section 11.2: JAM of shaft 0 has kind 10h, destination 0 and one payload byte. -/
theorem test_jam_frame :
    (TxFrame.toFrame 2 (.jam 0)).kind = 0x10 ∧ (TxFrame.toFrame 2 (.jam 0)).payload = [0] ∧
    Frame.crcGood (TxFrame.toFrame 2 (.jam 0)) = true := by decide +kernel

/-- Section 5.10: station 3's LANDED and station 6's SYNC differ at the third bit of the kind byte, where station 6
loses; stations 3 and 5 differ at bit 14 of the frame, where station 5 loses. -/
theorem test_worked_contention :
    let landed (own : Byte) := Frame.bits (TxFrame.toFrame own (.landed 1 5 0 0 0))
    lostContention (Frame.bits (TxFrame.toFrame 6 (.sync 0 0 true))) ((landed 3).take 3) = true ∧
    lostContention (landed 5) ((landed 3).take 14) = true ∧
    lostContention (landed 3) ((landed 3).take 14) = false ∧
    lostContention (landed 5) ((landed 3).take 13) = false := by decide +kernel

/-- Section 5.11: the kind byte of a JAM goes out as 0001 0000, LDA driven for 0 and released for 1. -/
theorem test_line_of_jam :
    (Frame.line (TxFrame.toFrame 2 (.jam 0))).take 9 =
      [.low, .low, .low, .low, .released, .low, .low, .low, .low] := by decide +kernel

/-- R188: a record is 32 bytes, and as stored it is a valid record. -/
theorem test_record_bytes :
    let r : Record := stamped svc (RecordReq.blank .jam 2)
    r.toBytes.length = 32 ∧ validBytes r.toBytes = true ∧ Record.ofBytes r.toBytes = r := by decide +kernel

/-- R145: a blank slot is neither valid nor void. -/
theorem test_blank_slot :
    validBytes (List.replicate 32 0xFF) = false ∧ voidBytes (List.replicate 32 0xFF) = false := by decide

/-! ## One-step tests -/

/-- What a test looks at after one command. -/
def after {α : Type} (c : Instr) (s : State) (f : State → α) : Option α :=
  match exec c s with
  | .next t => some (f t)
  | _ => none

/-- R177: a start after a power loss is POWER_ON, in the scan, with the lock engaged. -/
theorem test_start :
    after (.start ⟨1, 2, true, ⟨false, false⟩, false⟩)
      { State.reset with supply := { State.reset.supply with level := .normal } }
      (fun t => (t.phase, t.startKind, t.csq.lock)) = some (.scanning, .powerOn, .low) := by decide

/-- R167: a start on address 9 stops in START with the SERVICE lamp flashing. -/
theorem test_start_bad_address :
    after (.start ⟨9, 2, true, ⟨false, false⟩, false⟩)
      { State.reset with supply := { State.reset.supply with level := .normal } }
      (fun t => (t.phase, t.lms.modes.service)) = some (.badAddress, .flash) := by decide

/-- R176: RST low releases every output. -/
theorem test_rst_low : after .rstLow svc (fun t => (t.phase, t.csq.lock)) = some (.inReset, .released) := by
  decide

/-- R173: below 1.60 V the part keeps nothing but its flash array, and the indication is set. -/
theorem test_power_loss :
    after .powerLoss { idleArray svc with flash := [(0, 1)] } (fun t => (t.phase, t.supply, t.straps, t.flash)) =
      some (.inReset, State.reset.supply, State.reset.straps, [(0, 1)]) := by decide

/-- R16, R5: a hatch opening in PRESENT enters OPEN and engages the lock. -/
theorem test_hatch_opening :
    after .hatchOpening (inState .present svc) (fun t => (t.csq.state, t.csq.lock)) =
      some (.opened, .low) := by decide

/-- R26: a hatch opening in HOME is a forced hatch. -/
theorem test_forced_hatch :
    after .hatchOpening (inState .home svc) (fun t => (t.csq.state, t.jnc.staging.map (·.detail))) =
      some (.fault, [4]) := by decide +kernel

/-- R30: 0Dh after 5Dh is a sample of 3421 (0D5Dh the other way about). -/
theorem test_weigh_bytes :
    after (.weighByteReceived 0x5D false false)
      { svc with wch := { svc.wch with heldByte := some 0x0D, activity := .weighing } }
      (fun t => t.wch.window) = some [3421] := by decide

/-- Section 3.5: a second distinct serial joins the read set, a third does not. -/
theorem test_read_set :
    (svc.tgi.takeRead 0x00A71C44 ⟨0x00031F0A, 2, 0⟩ |>.takeRead 0x0B2290E1 ⟨0, 0, 0⟩
      |>.takeRead 0x0C000017 ⟨0, 0, 0⟩).readSet = [0x00A71C44, 0x0B2290E1] := by decide

/-- R67: from 00 the sample 10 is a forward step. -/
theorem test_encoder_forward :
    after (.encoderStep ⟨true, false⟩) svc (fun t => t.rct.count) = some 1 := by decide

/-- R67: from 00 the sample 01 is a reverse step. -/
theorem test_encoder_reverse :
    after (.encoderStep ⟨false, true⟩) svc (fun t => (t.rct.count, t.rct.underflow)) =
      some (0xFFFF, true) := by decide

/-- Section 4.13: a landing at 900 after a drop at 600 has a fall time of 300. -/
theorem test_worked_fall :
    after .landingEvent
      { seen 2 (.held 1) (inState .fall svc) with
        ldi := { svc.ldi with taking := true }
        rct := { svc.rct with dropTime := some 600 }
        nck := { svc.nck with clock := 900 } }
      (fun t => (t.csq.bag.fall, t.csq.landingSettle)) = some (300, some 200) := by decide

/-- Section 4.13: an unclaimed landing at 1120 with 1010 in the buffer is recorded with 110. -/
theorem test_worked_unclaimed :
    after .landingEvent
      { svc with
        ldi := { svc.ldi with taking := true, capture := some 1010 }
        nck := { svc.nck with clock := 1120 } }
      (fun t => t.jnc.staging.map (fun r => (r.kind, r.detail, r.fall))) = some [(4, 1, 110)] := by decide

/-- R113: a lapse sets the view FREE. -/
theorem test_lapse :
    after (.lapse 2) (seen 2 (.held 5) svc) (fun t => t.shc.views.x2) = some .free := by decide

/-- R136: the clock wraps to 0. -/
theorem test_clock_wraps :
    after .millisecondEnd { svc with nck := { svc.nck with clock := 0xFFFFFFFF } } (fun t => t.nck.clock) =
      some 0 := by decide

/-- Table 5-6 row 5: a HOLD whose payload has no byte is not taken, and not answered. -/
theorem test_check_byte_length :
    let f : Frame := { kind := 0x48, source := 9, dest := 1, payload := [], check := 0 }
    let g : Frame := { f with check := crc8 (Frame.checkedBytes f) }
    receptionOf svc (Frame.bits g) =
      .judged { frame := g, crcGood := true, claimShaft := none, take := none, driveA := false
                driveB := false } := by decide +kernel

/-- Section 5.11: station 4 holds the clock after the destination byte of the JAM (10h, 02h, 0), and goes on with
its bits when an entry has left. -/
theorem test_worked_hold :
    let s : State := receiving (.bits [])
      { svc with lkc := { svc.lkc with rx := [.release 0, .release 0, .release 0, .release 0] } }
    after (.holdTheClock 0x10 0x02 0 []) s (fun t => (t.lkc.holding, t.lkc.reception)) =
      some (true, .bits (bytesBits [0x10, 0x02, 0])) := by decide +kernel

/-- R92: the loser goes on receiving with the bits it has read, the losing bit 0. -/
theorem test_loser_receives :
    after .lossOfContention (reading [false, false] (sending (.sync 0 0 true) 2 svc))
      (fun t => (t.lkc.phase, t.lkc.reception, t.lkc.queue.map (·.attempts))) =
      some (.receiving, .bits [false, false, false], [2]) := by decide +kernel

/-- R118: a CLAIM that loses while its own shaft is JAMMED is QUEUED, and deferred only after the frame that won. -/
theorem test_lost_claim_waits :
    let s : State := seen 2 .jammed (sending (.claim 2 5) 0 (inState .claim svc))
    let lost : Option (ClaimPhase × Bool) :=
      after .lossOfContention (reading [false, false] s) (fun t => (t.shc.phase, t.shc.lost))
    let won : State := { seen 2 .jammed svc with
      shc := { (seen 2 .jammed svc).shc with phase := .queued, lost := true } }
    lost = some (.queued, true) ∧
    after .linkFree won (fun t => (t.shc.phase, t.shc.lost)) = some (.deferred, false) := by decide +kernel

/-- R159: a programming that had begun leaves no blank slot: of FFh, FFh, 5 at least three bytes are left. -/
theorem test_bytes_left : 3 ≤ bytesLeft 0 [0xFF, 0xFF, 5] := Nat.le_max_right _ 3

/-- R159: no record is 32 times FFh: the CRC-16 over 30 bytes FFh is another. -/
theorem test_no_blank_record : crc16 (List.replicate 30 0xFF) ≠ 0xFFFF := by decide +kernel

/-- Section 6.9: the clean slot of station 2's CLAIM makes station 5's view HELD(2) and defers its claim. -/
theorem test_worked_clean_slot :
    after (.endMark (some ⟨true, true⟩))
      (receiving (.judged { judgedFrame (some 2) none with
        frame := { kind := 0x20, source := 2, dest := 0, payload := [], check := 0 } })
        { svc with shc := { svc.shc with phase := .queued } })
      (fun t => (t.shc.views.x2, t.shc.phase)) = some (.held 2, .deferred) := by decide

/-- R93: the fourth stall drops the frame and counts it. -/
theorem test_stall_drops :
    after .stall (sending (.jam 0) 3 svc) (fun t => (t.lkc.queue.length, t.lkc.dropCount)) = some (0, 1) := by
  decide

/-- R119: bit B low is a duplicate refusal whatever bit A is. -/
theorem test_duplicate_refusal :
    after (.completed ⟨false, false⟩) (sending (.claim 2 5) 0 (inState .claim svc))
      (fun t => (t.csq.state, t.csq.bag.reason)) = some (.present, some .duplicate) := by decide

/-- R119, R120: both bits high are a grant: TURN, self-held. -/
theorem test_grant :
    after (.completed ⟨true, true⟩) (sending (.claim 2 5) 0 (inState .claim svc))
      (fun t => (t.csq.state, t.shc.views.x2, t.rct.mode)) = some (.turn, .held 1, .forward) := by decide

/-- Section 3.10, station 3: CLOSE(413) in night 412. -/
theorem test_worked_close :
    after .closeTaken
      (withRx (.close 413)
        { svc with nls := { entries := [1], night := 412, closeSinceStart := false }
                   nck := { svc.nck with clock := 99, synced := true } })
      (fun t => (t.nls.night, t.nls.entries.length, t.nck.clock, t.jnc.staging.map (fun r => (r.kind, r.night)))) =
      some (413, 0, 0, [(7, 413)]) := by decide

/-- Section 7.7: station 5 adopts 3632 plus 1 whole millisecond. -/
theorem test_worked_sync :
    after (.syncTaken 1) (withRx (.sync 3632 0 0) { svc with nck := { svc.nck with clock := 3619 } })
      (fun t => (t.nck.clock, t.nck.synced, t.nck.syncTimer)) = some (3633, true, some 1000) := by decide

/-- R134: CLEAR(bin) of the own bin clears BIN_FULL. -/
theorem test_clear_bin :
    after .clearBin
      (withRx (.clear 2 2) (setTally 2 { count := 400, mass := 9 } (judgeHold .binFull true svc)))
      (fun t => (t.shc.tallies.x2, t.csq.holds.binFull, t.jnc.staging.map (fun r => (r.kind, r.detail, r.shaft)))) =
      some ({ count := 0, mass := 0 }, false, [(6, 2, 2)]) := by decide

/-- R187: a HOLD with any argument but 00h is on. -/
theorem test_hold_on :
    after .hold (withRx (.hold 7) svc) (fun t => (t.csq.holds.audit, t.jnc.staging.map (·.detail))) =
      some (true, [1]) := by decide

/-- R56, R130 step 2, R187: a LANDED that names a shaft above 3 gives the night list its serial and changes no tally. -/
theorem test_landed_shaft_above_3 :
    after .landedTaken (withRx (.landed 4 0x00A71C44 9999 400 0) svc) (fun t => (t.nls.entries, t.shc.tallies)) =
      some ([0x00A71C44], svc.shc.tallies) := by decide

/-- R70, R72, R76: the home switch ends the homing move: count 0, MRUN inactive, the dead time started. -/
theorem test_home_reached :
    after .homeSwitchActive
      (inState .home { svc with rct := { svc.rct with mode := .reverse, count := 3, mrun := .high, mdir := .low } })
      (fun t => (t.rct.count, t.rct.mrun, t.rct.deadTime, t.rct.lastDir)) = some (0, .low, some 10, some .rev) := by
  decide

/-- R157: the completion of an erase leaves the page blank. -/
theorem test_erase :
    after .eraseCompletion { svc with flash := [(5, 0), (1024, 7)] } (fun t => t.flash) =
      some [(1024, 7)] := by decide

/-! ## Witnesses: states and operands that meet the hypotheses of the obligations -/

/-- A part in the scan of its start-up sequence. -/
def scanning : State :=
  { svc with
    phase := .scanning
    csq := { State.reset.csq with state := .start, lock := .low }
    jnc := State.reset.jnc }

/-- A part held in reset, its supply normal. -/
def resetNormal : State := { State.reset with supply := { State.reset.supply with level := .normal } }

/-- The hatch open. -/
def open' (s : State) : State := { s with csq := { s.csq with hatch := .opened } }

/-- The drum at home. -/
def atHome (s : State) : State := { s with rct := { s.rct with homeActive := true } }

/-- n frames in the transmit queue. -/
def queued (n : Nat) (s : State) : State :=
  { s with lkc := { s.lkc with
      queue := (List.range n).map (fun i => { content := .jam 0, attempts := 0, age := i }), nextAge := n } }

/-- A full transmit queue, whose youngest entry carries a frame. -/
def fullOf (c : TxFrame) (s : State) : State :=
  { s with lkc := { s.lkc with
      queue := (queued 7 s).lkc.queue ++ [{ content := c, attempts := 0, age := 7 }], nextAge := 8 } }

/-- The link FREE. -/
def freeLink (s : State) : State := { s with lkc := { s.lkc with phase := .free } }

/-- No sequence number left. -/
def lastSeq (s : State) : State := { s with jnc := { s.jnc with seqCounter := 0xFFFFFFFF } }

/-- An idle array that nothing waits for, a CONFIG_WRITE at the head of the receive queue. -/
def configAtHead (s : State) : State :=
  { s with lkc := { s.lkc with rx := [.configWrite 5 [1], .jam 0] }, jnc := { s.jnc with array := .idle } }

/-- A READ_JOURNAL waiting. -/
def reading8 (s : State) : State :=
  { s with jnc := { s.jnc with pendingRead := some { source := 9, from_ := 0, count := 8 } } }

/-- R105: a full queue discards a frame that is no more urgent than its least urgent one, and counts it. -/
theorem test_full_queue_discards :
    after .readState (withRx (.readState 9) (fullOf (.journal 9 []) svc))
      (fun t => (t.lkc.queue.length, t.lkc.dropCount, t.lkc.queue.any (fun e => e.content == .journal 9 []))) =
      some (8, 1, true) := by decide

/-- R105: a more urgent frame takes the place of the least urgent one. -/
theorem test_full_queue_replaces :
    after .syncTimerExpiry (fullOf (.journal 9 []) { svc with nck := { svc.nck with syncTimer := some 1000 } })
      (fun t => (t.lkc.queue.length, t.lkc.dropCount, t.lkc.hasSync,
        t.lkc.queue.any (fun e => e.content == .journal 9 []))) = some (8, 1, true, false) := by decide

/-- The own shaft self-held. -/
def selfHolding (s : State) : State := seen 2 (.held 1) s

/-- A hold reason raised. -/
def withHold (r : HoldReason) (s : State) : State := judgeHold r true s

/-- Out of reset with its judgements made, in service, the array at work and the queues within their lengths: the
premises that most obligations share. -/
def Ready (s : State) : Prop := Runs s ∧ s.phase = .service ∧ ArrayRight s ∧ LinkRight s ∧ AgesRight s

/-- `Ready` as a Bool. -/
def ready (s : State) : Bool :=
  decide (Runs s) && decide (s.phase = .service) && decide (ArrayRight s) && decide (LinkRight s) &&
    decide (AgesRight s)

theorem Ready.all {l : List State} (h : l.all ready = true) : ∀ s ∈ l, Ready s := by
  intro s hs
  have k := List.all_eq_true.mp h s hs
  simp only [ready, Bool.and_eq_true, decide_eq_true_eq] at k
  exact ⟨k.1.1.1.1, k.1.1.1.2, k.1.1.2, k.1.2, k.2⟩

/-- `Runs` as a Bool. -/
def runs (s : State) : Bool := decide (Runs s)

theorem runs_all {l : List State} (h : l.all runs = true) : ∀ s ∈ l, Runs s := fun s hs =>
  of_decide_eq_true (List.all_eq_true.mp h s hs)

/-- One record in slot 0 of an otherwise blank array. -/
def recordInSlot0 (kind detail : Byte) : List Host.Cell :=
  flashSetBytes [] 0 ({ stamped svc (RecordReq.blank .jam 2) with kind := kind, detail := detail }).toBytes

theorem witness_StepRunsFrontCommand : State.reset.pending = [] := by decide

/-- A state that meets every invariant and takes a step. -/
def walker : State := waiting .millisecondEnd (lit svc)

theorem walker_steps : ∃ t, step walker = .next t := ⟨_, rfl⟩
theorem witness_StepKeepsSettled : Settled walker ∧ ∃ t, step walker = .next t :=
  ⟨by decide, walker_steps⟩
theorem witness_StepKeepsSequence : (StartRight walker ∧ SequenceRight walker) ∧ ∃ t, step walker = .next t :=
  ⟨by decide, walker_steps⟩
theorem witness_StepKeepsLockAndLamps : (LockRight walker ∧ LampsRight walker) ∧ ∃ t, step walker = .next t :=
  ⟨by decide, walker_steps⟩
theorem witness_StepKeepsMotor :
    (StartRight walker ∧ MotorRight walker) ∧ ∃ t, step walker = .next t := ⟨by decide, walker_steps⟩
theorem witness_StepKeepsSelfHeld : SelfHeldRight walker ∧ ∃ t, step walker = .next t :=
  ⟨⟨by decide, trivial⟩, walker_steps⟩
theorem witness_StepKeepsQueues : (LinkRight walker ∧ AgesRight walker ∧ StagingRight walker) ∧ ∃ t, step walker = .next t :=
  ⟨by decide, walker_steps⟩
theorem witness_StepKeepsArrayAtWork : ArrayRight walker ∧ ∃ t, step walker = .next t :=
  ⟨by decide, walker_steps⟩

/-- An array that programs the older of two staged records. -/
def programmingTwo : State := { staged 2 svc with jnc := { (staged 2 svc).jnc with array := .program } }

/-- The commands begin an erase of the page ahead, a programming and an information-page operation; a completed
programming is followed by another; and a service state has its pointer in range. -/
theorem witness_StepKeepsArrayAtWork_begins :
    (let s := { withRx (.hold 1) (idleArray svc) with flash := [(0, 0)] }
     ∃ t, exec .hold s = .next t ∧ OperationBegins .hold s t ∧ t.jnc.array = .erase 0) ∧
    (let s := withRx (.hold 1) (idleArray svc)
     ∃ t, exec .hold s = .next t ∧ OperationBegins .hold s t ∧ t.jnc.array = .program) ∧
    (let s := withRx (.configWrite 0 [1]) (idleArray svc)
     ∃ t, exec .configWrite s = .next t ∧ OperationBegins .configWrite s t ∧ t.jnc.array = .info 0 [1]) ∧
    (∃ t, exec .programCompletion programmingTwo = .next t ∧
      OperationBegins .programCompletion programmingTwo t ∧ t.jnc.array = .program ∧
      programmingTwo.phase = .service ∧ t.phase = .service ∧ programmingTwo.jnc.writePtr < 512) := by
  refine ⟨⟨_, rfl, ?_, ?_⟩, ⟨_, rfl, ?_, ?_⟩, ⟨_, rfl, ?_, ?_⟩, ⟨_, rfl, ?_, ?_, ?_, ?_, ?_⟩⟩
  · exact ⟨by decide, by decide +kernel, .inl (by decide +kernel)⟩
  · decide +kernel
  · exact ⟨by decide, by decide +kernel, .inl (by decide +kernel)⟩
  · decide +kernel
  · exact ⟨by decide, by decide +kernel, .inl (by decide +kernel)⟩
  · decide +kernel
  · exact ⟨by decide, by decide +kernel, .inr (.inl (by decide))⟩
  all_goals decide +kernel
theorem witness_StepKeepsHoldReasons :
    (StartRight walker ∧ FlashRight walker ∧ HoldsRight walker) ∧ ∃ t, step walker = .next t :=
  ⟨⟨by decide, ⟨by decide, by decide, show (0 : Nat) < 16 by decide⟩, by decide⟩, walker_steps⟩
theorem witness_StepKeepsCountsAndLists :
    (NightListRight walker ∧ TalliesRight walker ∧ WeighRight walker ∧ RangesRight walker) ∧
    ∃ t, step walker = .next t := ⟨by decide, walker_steps⟩
theorem witness_StepKeepsFlashForm : FlashRight walker ∧ ∃ t, step walker = .next t :=
  ⟨⟨by decide, by decide, show (0 : Nat) < 16 by decide⟩, walker_steps⟩

/-- A close taken and ADDRESS_CLASH raised. -/
def closed : State := withHold .addressClash { svc with nls := { svc.nls with closeSinceStart := true } }

theorem witness_WhatOnlyAStartUndoes :
    (closed.phase = .service ∧ closed.nls.closeSinceStart = true ∧ closed.csq.holds.addressClash = true) ∧
    ∃ t, exec .millisecondEnd closed = .next t ∧ t.phase = .service := ⟨by decide, _, rfl, by decide⟩

theorem witness_FlashChangesAtCompletionsOnly :
    (∃ t, exec .millisecondEnd svc = .next t ∧ t.phase ≠ .inReset) ∧
      Instr.millisecondEnd ≠ .programCompletion ∧ Instr.millisecondEnd ≠ .eraseCompletion ∧
      Instr.millisecondEnd ≠ .infoCompletion := ⟨⟨_, rfl, by decide⟩, by decide⟩

/-- The array at an operation, the pointer at the last slot. -/
def working (a : FlashState) : State :=
  { staged 1 svc with jnc := { (staged 1 svc).jnc with array := a, writePtr := 511 } }

theorem witness_FlashChangesAtCompletionsOnly_reset :
    (∀ s ∈ [working .idle, working .program, working (.erase 15), working (.info 0 [1]), working (.info 73 [1, 2])],
      s.phase ≠ .inReset ∧ flashWf s.flash = true ∧ s.jnc.writePtr < 512 ∧ s.jnc.staging ≠ [] ∧
      (∃ t, exec .rstLow s = .next t ∧ t.phase = .inReset) ∧
      (∃ t, exec .supplyCut s = .next t ∧ t.phase = .inReset) ∧
      ∃ t, exec .powerLoss s = .next t ∧ t.phase = .inReset) ∧
    FlashRight (working (.erase 15)) ∧ slotBlank (working .program).flash 511 = true := by
  refine ⟨?_, ⟨by decide, by decide, show (15 : Nat) < 16 by decide⟩, by decide +kernel⟩
  simp only [List.forall_mem_cons]
  exact ⟨⟨by decide, by decide, by decide, by decide, ⟨_, rfl, rfl⟩, ⟨_, rfl, rfl⟩, _, rfl, rfl⟩,
    ⟨by decide, by decide, by decide, by decide, ⟨_, rfl, rfl⟩, ⟨_, rfl, rfl⟩, _, rfl, rfl⟩,
    ⟨by decide, by decide, by decide, by decide, ⟨_, rfl, rfl⟩, ⟨_, rfl, rfl⟩, _, rfl, rfl⟩,
    ⟨by decide, by decide, by decide, by decide, ⟨_, rfl, rfl⟩, ⟨_, rfl, rfl⟩, _, rfl, rfl⟩,
    ⟨by decide, by decide, by decide, by decide, ⟨_, rfl, rfl⟩, ⟨_, rfl, rfl⟩, _, rfl, rfl⟩, fun _ h => by cases h⟩

theorem witness_NothingIsTakenInReset :
    State.reset.phase = .inReset ∧ (∀ lines, Instr.hatchOpening ≠ .start lines) ∧
    Instr.hatchOpening ≠ .rstLow ∧ Instr.hatchOpening ≠ .rstHigh ∧ Instr.hatchOpening ≠ .supplyWarn ∧
    Instr.hatchOpening ≠ .supplyCut ∧ Instr.hatchOpening ≠ .powerLoss ∧ Instr.hatchOpening ≠ .supplyRise ∧
    Instr.hatchOpening ≠ .supplyDip ∧ Instr.hatchOpening ≠ .supplyRecoveryExpiry := by
  refine ⟨rfl, ?_, by decide⟩
  intro lines h
  cases h

theorem witness_StartSetsEveryBlock :
    ¬(State.reset.phase = .inReset ∧ State.reset.rstLow = false ∧ State.reset.supply.level = .normal) ∧
    (resetNormal.phase = .inReset ∧ resetNormal.rstLow = false ∧ resetNormal.supply.level = .normal) := by
  decide

/-- A configuration record of zeros with its CRC-16. -/
def zeroRecord : List Host.Cell :=
  flashSetBytes [] 16384 (List.replicate 72 0 ++ be16 (crc16 (List.replicate 72 0)))

theorem witness_StartLoadsConfiguration :
    ((resetNormal.phase = .inReset ∧ resetNormal.rstLow = false ∧ resetNormal.supply.level = .normal) ∧
      configGood (flashBytes resetNormal.flash 16384 74) = false ∧
      configGood (flashBytes zeroRecord 16384 74) = true) ∧
    ∃ t, exec (.start ⟨1, 2, true, ⟨false, false⟩, false⟩) { resetNormal with flash := zeroRecord } = .next t :=
  ⟨by decide +kernel, _, rfl⟩

theorem witness_ScanRestoresAndJoins :
    (∀ s ∈ [scanning, atHome scanning, open' scanning],
      s.phase = .scanning ∧ StartRight s ∧ ArrayRight s ∧ s.nck.synced = false ∧ s.jnc.startHold = []) ∧
    scanning.csq.hatch = .closed ∧ scanning.rct.homeActive = false ∧ (atHome scanning).rct.homeActive = true ∧
    (open' scanning).csq.hatch = .opened := by decide

/-- The record in slot 0 is one of the journal's. -/
theorem record_in_slot0 {m : List Host.Cell} {k : Byte} (h : ((slotRecord m 0).map (·.kind)) = some k) :
    ∃ q ∈ (journalRecords m).map (·.2), q.kind = k := by
  obtain ⟨r, hr, hk⟩ := Option.map_eq_some_iff.mp h
  exact ⟨r, List.mem_map.mpr ⟨(0, r), mem_journalRecords.mpr ⟨by decide, hr⟩, rfl⟩, hk⟩

theorem witness_ScanRestoresAndJoins_records :
    journalRecords scanning.flash = [] ∧
    (∃ q ∈ (journalRecords (recordInSlot0 10 0)).map (·.2), q.kind = 10) ∧
    (∃ q ∈ (journalRecords (recordInSlot0 11 1)).map (·.2), q.kind = 11) ∧
    (∃ q ∈ (journalRecords (recordInSlot0 5 0)).map (·.2), q.kind = 5) ∧
    (∃ q ∈ (journalRecords (recordInSlot0 2 0)).map (·.2), q.kind = 2) ∧
    (Record.ofBytes (slotBytes (recordInSlot0 5 0) 0)).shaft = shaftByte scanning.straps.shf :=
  ⟨journalRecords_nil, record_in_slot0 (by decide +kernel), record_in_slot0 (by decide +kernel),
    record_in_slot0 (by decide +kernel), record_in_slot0 (by decide +kernel), by decide +kernel⟩

theorem witness_ResetPin :
    (idleArray svc).phase ≠ .inReset ∧ (idleArray svc).jnc.array = .idle ∧ State.reset.phase = .inReset := by
  decide

/-- The supply at a level with its recovery timer running. -/
def recovering (l : SupplyLevel) (s : State) : State :=
  { s with supply := { s.supply with level := l, recovery := some 50 } }

theorem witness_SupplyMonitor :
    State.reset.phase = .inReset ∧ (idleArray svc).jnc.array = .idle ∧ (setLevel .warn svc).supply.level ≠ .normal ∧ svc.supply.level = .normal ∧
    (recovering .cut State.reset).supply.level = .cut ∧ (recovering .cut State.reset).supply.recovery ≠ none ∧
    svc.supply.level ≠ .cut ∧ svc.phase ≠ .inReset := by decide

theorem witness_SupplyWarnAndRecovery :
    (∀ s ∈ [inState .idle svc, svc, staged 6 svc, staged 7 svc], Ready s) ∧
    (∀ s ∈ [recovering .warn (withHold .power (inState .held svc)), recovering .warn svc], Ready s) ∧
    (∀ s ∈ [inState .idle svc, svc], s.supply.level = .normal ∧ s.csq.state ≠ .claim) ∧
    (∀ s ∈ [recovering .warn (inState .held svc), recovering .warn svc],
      s.supply.level = .warn ∧ s.supply.recovery ≠ none) ∧
    (Runs scanning ∧ scanning.phase ≠ .service ∧ scanning.csq.state = .start) ∧ ArrayRight scanning ∧
    (let s := recovering .warn (withHold .power scanning)
     Runs s ∧ s.supply.level = .warn ∧ s.supply.recovery ≠ none ∧ s.phase ≠ .service ∧ s.csq.state = .start) :=
  ⟨Ready.all (by decide +kernel), Ready.all (by decide +kernel), by decide, by decide, by decide, by decide, by decide⟩

theorem witness_HatchOpening :
    (∀ s ∈ [inState .idle svc, inState .present svc, scanning, svc, inState .fault svc], Runs s) ∧
    (∀ s ∈ [inState .idle svc, inState .present svc],
      s.csq.hatch = .closed ∧ s.phase = .service ∧ (s.csq.state = .idle ∨ s.csq.state = .present)) ∧
    (∀ s ∈ [scanning, svc, inState .fault svc], s.csq.hatch = .closed ∧
      (s.csq.state = .start ∨ s.csq.state = .opened ∨ s.csq.state = .fault)) :=
  ⟨runs_all (by decide +kernel), by decide, by decide⟩

/-- A part whose claim is in a phase. -/
def claiming (p : ClaimPhase) (s : State) : State := inState .claim { s with shc := { s.shc with phase := p } }

/-- The spacing timer running. -/
def spaced : State :=
  { svc with shc := { svc.shc with spacing := some 200, phase := .spacing, claimSerial := some 5 } }

/-- A CLAIM queued for the own shaft. -/
def claimQueued (s : State) : State :=
  { s with
    lkc := { s.lkc with queue := [{ content := .claim 2 5, attempts := 0, age := 7 }], nextAge := 8 }
    shc := { s.shc with phase := .queued, claimSerial := some 5 } }

/-- A part in TURN or HOME with its limit timer, and one in FALL with the drum watched. -/
def turning : State := inState .turn { svc with csq := { svc.csq with turnLimit := some 3000 } }
/-- See `turning`. -/
def homing : State := inState .home { svc with csq := { svc.csq with homeLimit := some 3000 } }
/-- MRUN active in the direction of a mode. -/
def driven (s : State) : State :=
  { s with rct := { s.rct with mrun := .high, mdir := if s.rct.mode = .reverse then .low else .high } }
/-- See `turning`. -/
def falling : State := inState .fall { svc with rct := { svc.rct with mode := .watch } }

theorem witness_FaultEntry :
    (∀ s ∈ [inState .check svc, queued 7 (selfHolding (inState .turn svc)), claiming .sending svc,
        claiming .deferred svc, turning, homing, falling, fullOf (.claim 2 5) (selfHolding turning),
        fullOf (.jam 0) (selfHolding turning), inState .claim (claimQueued svc), inState .claim spaced,
        configAtHead turning, driven turning, lastSeq turning, driven (freeLink (selfHolding turning))], Ready s) ∧
    (∀ s ∈ [inState .check svc, queued 7 (selfHolding (inState .turn svc)), claiming .sending svc],
      s.csq.hatch = .closed ∧ s.csq.state.locked = true) ∧
    (selfHeld (queued 7 (selfHolding (inState .turn svc))) = true ∧ selfHeld (claiming .sending svc) = false ∧
      LeastUrgent ⟨.claim 2 5, 0, 7⟩ (fullOf (.claim 2 5) (selfHolding turning)).lkc ∧
      LeastUrgent ⟨.jam 0, 0, 7⟩ (fullOf (.jam 0) (selfHolding turning)).lkc ∧
      (claimQueued svc).lkc.queuedClaim = some ⟨.claim 2 5, 0, 7⟩ ∧ (claimQueued svc).shc.phase = .queued ∧
      ∃ o d, (configAtHead turning).lkc.rx = .configWrite o d :: [.jam 0]) ∧
    ((driven turning).rct.mrun = .high ∧ (driven turning).rct.mdir = .high ∧ turning.rct.mrun ≠ .high) ∧
    (turning.csq.turnLimit ≠ none ∧ homing.csq.homeLimit ≠ none ∧ falling.rct.mode ≠ .stopped) :=
  ⟨Ready.all (by decide +kernel), by decide, ⟨by decide, by decide, by decide, by decide, by decide, by decide, 5, [1], rfl⟩,
    by decide, by decide⟩

theorem witness_HatchClosing :
    (∀ s ∈ [open' svc, open' scanning, open' (inState .present svc), open' (inState .fault svc)], Runs s) ∧
    ((open' svc).csq.hatch = .opened ∧ (open' svc).csq.state = .opened) ∧
    (∀ s ∈ [open' scanning, open' (inState .present svc), open' (inState .fault svc)],
      s.csq.hatch = .opened ∧ (s.csq.state = .start ∨ s.csq.state = .present ∨ s.csq.state = .fault)) :=
  ⟨runs_all (by decide +kernel), by decide, by decide⟩

/-- A weigh activity with k samples gathered and a first byte held. -/
def weighing (a : WeighActivity) (k : Nat) (s : State) : State :=
  { s with wch := { s.wch with activity := a, window := List.replicate k 3421, heldByte := some 0x0D } }

/-- An eligible part in IDLE, its tare window one sample short. -/
def tareState : State := weighing .tare 15 (atHome (inState .idle svc))

theorem witness_WeighBytes :
    (∀ s ∈ [svc, weighing .idle 0 svc, weighing .settle 0 svc, weighing .weighing 14 svc,
        weighing .tare 14 (atHome (inState .idle svc))], Runs s) ∧
    svc.wch.heldByte = none ∧ (weighing .weighing 14 svc).wch.heldByte = some 0x0D ∧
    (weighing .weighing 14 svc).wch.window.length < 15 :=
  ⟨runs_all (by decide +kernel), by decide⟩

/-- The window of `weighing`, completed by a sample. -/
def completed (v : W16) : List W16 := List.replicate 15 3421 ++ [v]

theorem completed_stable (limit : Nat) (v : W16) (h : v = 3421 ∨ (3421 ≤ v.toNat ∧ v.toNat ≤ 3421 + limit)) :
    StableWindow limit (completed v) := by
  have e : (3421 : W16).toNat = 3421 := rfl
  intro x hx y hy
  simp only [completed, List.mem_append, List.mem_replicate, List.mem_singleton] at hx hy
  rcases hx with ⟨_, rfl⟩ | rfl <;> rcases hy with ⟨_, rfl⟩ | rfl <;> rcases h with rfl | h <;> omega

theorem completed_unstable : ¬ StableWindow 12 (completed 3434) := fun h =>
  absurd (h 3434 (by simp [completed]) 3421 (by simp [completed])) (by decide)

theorem witness_WeighingWindow :
    Runs (weighing .weighing 15 (inState .check svc)) ∧
    ((weighing .weighing 15 svc).wch.heldByte = some 0x0D ∧ (weighing .weighing 15 svc).wch.activity = .weighing ∧
      (weighing .weighing 15 svc).wch.window.length = 15 ∧ svc.csq.tagEnded = false) ∧
    StableWindow 12 (completed 3433) ∧ ¬ StableWindow 12 (completed 3434) ∧ svc.cfg.stability = 12 ∧
    svc.wch.windowNumber < 4 :=
  ⟨runs_all (l := [weighing .weighing 15 (inState .check svc)]) (by decide +kernel) _ (by simp), by decide,
    completed_stable 12 3433 (by decide), completed_unstable, by decide⟩

/-- Two bad checks in a row, ZERO clear. -/
def badTare : State := { tareState with wch := { tareState.wch with badRun := 2 } }

theorem witness_TareCheck :
    (∀ s ∈ [tareState, badTare, idleArray badTare, { badTare with lkc := (configAtHead badTare).lkc },
        { tareState with wch := { tareState.wch with goodRun := 2, snapPending := true } }], Ready s) ∧
    (badTare.wch.badRun = 2 ∧ badTare.csq.holds.zero = false ∧ badTare.wch.heldByte = some 0x0D ∧
      badTare.wch.activity = .tare ∧ badTare.wch.window = List.replicate 15 3421 ∧
      ((0x0D : Byte) ++ (0x6A : Byte) : W16) = 3434) ∧
    (badTare.cfg.stability = 12 ∧ ¬ StableWindow 12 (completed 3434)) ∧
    (tareState.wch.heldByte = some 0x0D ∧ tareState.wch.activity = .tare ∧ tareState.wch.window.length = 15) ∧
    StableWindow tareState.cfg.stability (completed 3421) ∧ sumOf (completed 3421) = 54736 :=
  ⟨Ready.all (by decide +kernel), by decide, ⟨rfl, completed_unstable⟩, by decide, completed_stable _ 3421 (by simp),
    by simp [sumOf, completed]⟩

/-- The weigh channel's timers running. -/
def weighTimers (s : State) : State :=
  { s with wch := { s.wch with gap := some 20, recovery := some 1000 } }

/-- The settle timer of a weighing running. -/
def settling : State := inState .check { svc with wch := { svc.wch with settle := some 300, activity := .settle } }
/-- The tare interval timer running. -/
def tareWaiting : State :=
  atHome (inState .idle { svc with wch := { svc.wch with tareInterval := some 2000 } })

theorem witness_WeighTimers :
    (∀ s ∈ [weighTimers svc, weighTimers (weighing .weighing 3 (inState .check svc)),
        weighTimers (inState .idle svc), weighTimers (withHold .weigh (inState .held svc)), settling, tareWaiting,
        weighTimers (withHold .weigh (inState .held (atHome svc))), weighTimers scanning,
        weighing .weighing 15 (inState .check svc), withHold .weigh (weighing .settle 0 svc)],
      Runs s ∧ s.phase ≠ .badAddress) ∧
    ((weighing .weighing 15 svc).wch.heldByte = some 0x0D ∧ svc.csq.holds.weigh = false ∧ svc.wch.recovery = none ∧
      (withHold .weigh svc).csq.holds.weigh = true) ∧
    ((weighTimers svc).wch.gap ≠ none ∧ (weighTimers svc).wch.recovery ≠ none ∧ svc.csq.tagEnded = false ∧
      settling.wch.settle ≠ none ∧ settling.wch.activity = .settle ∧
      tareWaiting.wch.tareInterval ≠ none) :=
  ⟨by decide +kernel, by decide, by decide⟩

/-- The ten content bytes of a tag message. -/
def tagContent (serial : Byte) : List Byte := [0, 0, 0, serial, 0, 0, 0, 0, 2, 0]

/-- The tag input one byte before a complete message. -/
def collecting (reads : List W32) (s : State) : State :=
  { s with tgi := { s.tgi with
      phase := .collect, buffer := tagContent 5 ++ [(crc16 (tagContent 5)).extractLsb' 8 8]
      byteGap := some 5, windowOpen := true, readSet := reads } }

theorem witness_TagBytes :
    (∀ s ∈ [svc, collecting [] svc, collecting [7] svc, collecting [5] svc, collecting [7, 8] svc], Runs s) ∧
    (svc.tgi.phase = .hunt ∧ (collecting [] svc).tgi.phase = .collect ∧ (tagContent 5).length < 11 ∧
      (collecting [] svc).tgi.byteGap ≠ none) :=
  ⟨runs_all (by decide +kernel), by decide⟩

theorem witness_TagBytes_valid :
    crc16 (tagContent 5) = (crc16 (tagContent 5)).extractLsb' 8 8 ++ (crc16 (tagContent 5)).extractLsb' 0 8 ∧
    ((0 : Byte) ++ (0 : Byte) ++ (0 : Byte) ++ (5 : Byte) : W32) = 5 := by decide +kernel

/-- CHECK with its weighing over and the tag window about to end. -/
def checking (w : WeighOutcome) (reads : List W32) (bagType : Byte) (s : State) : State :=
  inState .check { s with
    tgi := { s.tgi with
      windowOpen := true, windowTimer := some 1500, readSet := reads
      firstRead := if reads = [] then none else some { account := 1, bagType := bagType, sealValue := 0 } }
    csq := { s.csq with weighed := some w } }

/-- One state for each clause of the check order. -/
def checkStates : List State :=
  [checking .gap [5] 2 svc, checking (.weighed 19 false false) [5] 2 svc,
    checking (.weighed 20 false false) [] 2 svc, checking (.weighed 6000 false true) [5] 7 svc,
    checking (.weighed 6001 false false) [5] 2 svc, checking (.weighed 9999 true false) [5] 2 svc,
    checking (.weighed 20 false false) [5, 6] 2 svc, checking (.weighed 20 false false) [5] 8 svc,
    checking (.weighed 20 false false) [5] 2 (staged 7 svc),
    checking (.weighed 20 false false) [5] 2 { svc with nls := { svc.nls with entries := [5] } },
    checking (.weighed 20 false false) [5] 2 (withHold .audit svc),
    checking (.weighed 20 false false) [] 2 (staged 8 svc), checking (.weighed 20 false false) [] 2 (configAtHead svc),
    checking (.weighed 20 false false) [5] 2 { svc with shc := { svc.shc with phase := .sending, givenUp := true } }]

theorem witness_CheckOrder :
    (∀ s ∈ checkStates, Runs s) ∧
    (∀ s ∈ checkStates, s.phase = .service ∧ s.csq.state = .check ∧ s.tgi.windowTimer ≠ none ∧
      s.csq.weighed ≠ none ∧ s.csq.weighSeen = false) ∧
    ((staged 7 svc).jnc.staging.length < 8 ∧ 8 ≤ (staged 8 svc).jnc.staging.length ∧
      (staged 8 svc).jnc.seqCounter ≠ 0xFFFFFFFF) ∧
    (claimClear svc = true ∧ claimClear (seen 2 .jammed svc) = false ∧ svc.shc.phase = .idle ∧
      svc.lkc.hasClaim = false ∧ (queued 7 svc).lkc.queue.length < 8) ∧
    ((checking .gap [] 2 svc).tgi.windowTimer ≠ none ∧ svc.csq.weighed = none) ∧
    (let s := waiting .millisecondEnd (checking .gap [5] 2 svc)
     s.csq.state = .check ∧ BagRight s ∧ ∃ t, step s = .next t) :=
  ⟨runs_all (by decide +kernel), by decide, by decide, by decide, by decide, by decide, by decide, _, rfl⟩

/-- CHECK with its tag window over and the weighing one sample short. -/
def weighingLast (k : Nat) (reads : List W32) (s : State) : State :=
  let t := weighing .weighing 15 (inState .check s)
  { t with
    wch := { t.wch with windowNumber := k, gap := some 20 }
    csq := { t.csq with tagEnded := true }
    tgi := { t.tgi with
      readSet := reads
      firstRead := if reads = [] then none else some { account := 1, bagType := 2, sealValue := 0 } } }

theorem witness_WeighingEndsTheCheck :
    (∀ s ∈ [weighingLast 1 [5] svc, weighingLast 4 [] (staged 8 svc), weighingLast 2 [5, 6] (staged 7 svc),
        weighingLast 3 [5] (withHold .audit svc)],
      Runs s) ∧
    (∀ s ∈ [weighingLast 1 [5] svc, weighingLast 4 [] (staged 8 svc)],
      s.phase = .service ∧ s.csq.state = .check ∧ s.csq.tagEnded = true ∧ s.wch.heldByte = some 0x0D ∧
      s.wch.activity = .weighing ∧ s.wch.window.length = 15 ∧ s.wch.gap ≠ none ∧ s.csq.weighSeen = false) ∧
    StableWindow 12 (completed 3433) ∧ ¬ StableWindow 12 (completed 3434) ∧ svc.cfg.stability = 12 :=
  ⟨runs_all (by decide +kernel), by decide, completed_stable 12 3433 (by decide), completed_unstable, rfl⟩

/-- A drum in a mode at a count. -/
def drum (m : RotorMode) (count : W16) (reached : Int) (s : State) : State :=
  { s with rct := { s.rct with mode := m, count := count, maxReached := reached } }

theorem witness_EncoderCounts :
    (∀ s ∈ [svc, drum .reverse 0xFFFF 0 (inState .home svc)], Runs s) ∧
    (svc.rct.mode = .stopped ∧ svc.rct.count = 0 ∧ svc.rct.underflow = false ∧
      (drum .reverse 0xFFFF 0 svc).rct.mode = .reverse ∧ (drum .reverse 0xFFFF 0 svc).rct.count = 0xFFFF) ∧
    ForwardStep ⟨false, false⟩ ⟨true, false⟩ ∧ ForwardStep ⟨false, true⟩ ⟨false, false⟩ :=
  ⟨runs_all (by decide +kernel), by decide, by decide, by decide⟩

/-- The landing input at work. -/
def landing (count : Nat) (s : State) : State := { s with ldi := { s.ldi with taking := true, count := count } }

/-- The landing settle timer running, in a sequencer state. -/
def settlingIn (st : SeqState) (s : State) : State :=
  inState st { s with csq := { s.csq with landingSettle := some 200 } }

theorem witness_TurnSteps :
    (∀ s ∈ [drum .forward 399 399 (inState .turn svc), drum .forward 401 401 (inState .turn svc),
        drum .watch 398 406 (inState .fall svc), drum .forward 0 0 (inState .turn svc),
        drum .watch 399 406 (inState .fall svc), drum .forward 0xFFFF 0 (inState .turn svc),
        drum .forward 399 399 (landing 1 (inState .turn svc)),
        drum .forward 399 399 (landing 2 (settlingIn .turn (fullOf (.claim 2 5) svc))),
        drum .forward 0 0 (fullOf (.claim 2 5) (selfHolding (inState .turn svc))),
        drum .forward 399 399 (landing 1 (inState .turn (configAtHead svc))),
        drum .forward 399 399 (landing 1 (inState .turn (atHome (staged 8 svc)))),
        driven (drum .forward 399 399 (inState .turn svc))], Ready s) ∧
    ((drum .forward 399 399 svc).rct.position + 1 = svc.cfg.dropTarget ∧ svc.ldi.count = 0 ∧
      (drum .forward 401 401 svc).rct.position - 1 = svc.cfg.dropTarget ∧
      (401 : Int) - svc.cfg.reverseSlack ≤ 400 ∧
      (drum .watch 398 406 svc).rct.position - 1 < 406 - svc.cfg.reverseSlack ∧
      (406 : Int) - svc.cfg.reverseSlack ≤ (drum .watch 399 406 svc).rct.position - 1 ∧
      (drum .forward 0 0 svc).rct.underflow = false ∧ (landing 1 svc).ldi.count ≠ 0 ∧
      svc.csq.landingSettle = none ∧ (settlingIn .turn svc).csq.landingSettle ≠ none ∧
      (staged 8 svc).jnc.staging.length = 8 ∧ (staged 8 svc).jnc.seqCounter ≠ 0xFFFFFFFF) :=
  ⟨Ready.all (by decide +kernel), by decide⟩

theorem witness_HomeSwitchAndDeadTime :
    (∀ s ∈ [drum .reverse 3 406 (inState .home svc), driven (drum .reverse 3 406 (inState .home svc)), svc],
      Runs s) ∧
    (svc.rct.homeActive = false ∧ svc.csq.holds.weigh = false ∧ svc.wch.activity ≠ .tare ∧
      svc.rct.mode ≠ .reverse ∧ ({ svc.rct with deadTime := some 10 }).deadTime ≠ none) :=
  ⟨runs_all (by decide +kernel), by decide⟩

/-- A state in FALL whose own hold has had some landings. -/
def landed (count : Nat) : State := selfHolding (landing count (inState .fall svc))

/-- A newest staged record that is an UNCLAIMED record of the own shaft. -/
def unclaimedStaged : State :=
  { svc with jnc := { svc.jnc with staging := [stamped svc (unclaimedRecord 0 none 2)], seqCounter := 1 } }

theorem witness_LandingEvents :
    (∀ s ∈ [svc, seen 2 (.held 5) (landing 0 svc), landed 0, landed 1, landed 255], Runs s) ∧
    (∀ s ∈ [landing 0 svc, seen 2 .jammed (landing 0 svc), staged 1 (landing 0 svc), landing 0 unclaimedStaged],
      Ready s) ∧
    (svc.ldi.beamActive = false ∧ svc.ldi.taking = false ∧ (landing 0 svc).ldi.taking = true ∧
      ownView (seen 2 (.held 5) svc) = .held 5 ∧ (5 : BitVec 4) ≠ svc.straps.adr ∧
      selfHeld (landed 255) = true ∧ (landed 255).ldi.count = 255 ∧ ownView svc = .free) ∧
    (∃ init r, (landing 0 unclaimedStaged).jnc.staging = init ++ [r] ∧ r.kind = 4 ∧
      r.shaft = shaftByte unclaimedStaged.straps.shf ∧ unclaimedStaged.jnc.array ≠ .program) :=
  ⟨runs_all (by decide +kernel), Ready.all (by decide +kernel), by decide, [], _, rfl, by decide⟩

theorem witness_LandingCompletes :
    (∀ s ∈ [settlingIn .turn svc, settlingIn .fall svc, settlingIn .fall (atHome svc),
        settlingIn .fall (queued 7 svc), settlingIn .fall (staged 7 svc), settlingIn .fall (fullOf (.claim 2 5) svc),
        settlingIn .fall (setTally 2 { count := 399, mass := 0 } svc), settlingIn .fall (fullOf (.jam 0) svc),
        settlingIn .fall (configAtHead svc), settlingIn .fall (staged 8 svc), settlingIn .fall (lastSeq svc),
        settlingIn .fall (freeLink svc)], Ready s) ∧
    ((settlingIn .fall svc).csq.landingSettle ≠ none ∧ (staged 7 svc).jnc.staging.length < 8 ∧
      8 ≤ (staged 8 svc).jnc.staging.length ∧ (staged 8 svc).jnc.seqCounter ≠ 0xFFFFFFFF ∧
      tallyFull svc.cfg { count := 400, mass := 0 } = true ∧ tallyFull svc.cfg { count := 1, mass := 0 } = false) :=
  ⟨Ready.all (by decide +kernel), by decide⟩

/-- The fall window running. -/
def waitingFall (s : State) : State := inState .fall { s with csq := { s.csq with fallWindow := some 1500 } }

theorem witness_FallWindowExpires :
    (∀ s ∈ [waitingFall svc, waitingFall (atHome svc), waitingFall (queued 7 svc), waitingFall (staged 5 svc),
        waitingFall (fullOf (.claim 2 5) svc), waitingFall (fullOf (.jam 2) svc), waitingFall (configAtHead svc),
        waitingFall (staged 6 svc), waitingFall (staged 7 svc), waitingFall (staged 8 svc), waitingFall (lastSeq svc),
        waitingFall { svc with jnc := { svc.jnc with seqCounter := 0xFFFFFFFE } }, waitingFall (withHold .jam svc)],
      Ready s) ∧
    LeastUrgent ⟨.claim 2 5, 0, 7⟩ (fullOf (.claim 2 5) svc).lkc ∧
    ((waitingFall svc).csq.fallWindow ≠ none ∧ (staged 5 svc).jnc.staging.length = 5 ∧
      (staged 8 svc).jnc.staging.length = 8 ∧ (staged 8 svc).jnc.seqCounter.toNat < 0xFFFFFFFE) :=
  ⟨Ready.all (by decide +kernel), by decide, by decide⟩

/-- The retry interval running in CLAIM. -/
def retrying (s : State) : State := inState .claim { s with csq := { s.csq with retry := some 200 } }

theorem witness_ClaimIsQueuedAgain :
    (∀ s ∈ [retrying svc, retrying (queued 7 svc), retrying (fullOf (.jam 0) svc),
        retrying (fullOf (.sync 0 0 true) svc), retrying (seen 2 .jammed svc), spaced], Ready s) ∧
    LeastUrgent ⟨.jam 0, 0, 7⟩ (fullOf (.jam 0) svc).lkc ∧
    LeastUrgent ⟨.sync 0 0 true, 0, 7⟩ (fullOf (.sync 0 0 true) svc).lkc ∧
    ((retrying svc).csq.retry ≠ none ∧ svc.shc.phase = .idle ∧ (fullOf (.jam 0) svc).lkc.hasClaim = false ∧
      (fullOf (.sync 0 0 true) svc).lkc.hasClaim = false ∧ spaced.shc.spacing ≠ none ∧
      spaced.shc.claimSerial = some 5 ∧ ownView spaced = .free ∧ ownFull spaced = false) :=
  ⟨Ready.all (by decide +kernel), by decide, by decide, by decide⟩

/-- The claim wait timer running in CLAIM. -/
def seeking (s : State) : State := inState .claim { s with csq := { s.csq with claimWait := some 30000 } }

/-- A CLAIM whose outcome is awaited, and a bag whose RETURN record is deferred. -/
def awaited (c : AwaitCause) : State :=
  sending (.claim 2 5) 0 (inState .claim { svc with
    csq := { svc.csq with awaiting := some c }, shc := { svc.shc with phase := .sending } })
/-- See `awaited`. -/
def returning (s : State) : State := inState .claim { s with csq := { s.csq with returnWait := true } }

theorem witness_ClaimIsAbandoned_awaited :
    (∀ s ∈ [awaited .timeout, awaited .power, returning (staged 8 svc)], Ready s) ∧
    (∀ s ∈ [awaited .timeout, awaited .power, returning (staged 8 svc)],
      s.supply.level = .normal ∧ s.csq.state = .claim ∧ (s.csq.awaiting ≠ none ∨ s.csq.returnWait = true)) ∧
    ((awaited .timeout).csq.awaiting = some .timeout ∧ (awaited .timeout).csq.returnWait = false ∧
      (awaited .power).csq.awaiting ≠ some .timeout) :=
  ⟨Ready.all (by decide +kernel), by decide, by decide⟩

theorem witness_ClaimIsAbandoned :
    (∀ s ∈ [seeking (staged 7 svc), seeking (staged 6 svc), seeking (staged 8 svc),
        seeking (sending (.claim 2 5) 0 svc), seeking (claimQueued svc), seeking spaced, seeking (claiming .deferred svc),
        seeking (sending (.claim 2 5) 0 { svc with shc := { svc.shc with phase := .sending, givenUp := true } }),
        seeking (configAtHead svc)], Ready s) ∧
    (8 ≤ (staged 8 svc).jnc.staging.length ∧ (staged 8 svc).jnc.seqCounter ≠ 0xFFFFFFFF) ∧
    ((seeking svc).csq.claimWait ≠ none ∧ svc.shc.givenUp = false ∧
      (sending (.claim 2 5) 0 svc).lkc.claimInTx = true ∧ svc.lkc.claimInTx = false ∧
      svc.csq.awaiting = none ∧ svc.csq.returnWait = false ∧ svc.supply.level = .normal) ∧
    ({ svc.lkc with queue := [⟨.claim 2 5, 0, 3⟩] } : Link).queuedClaim = some ⟨.claim 2 5, 0, 3⟩ :=
  ⟨Ready.all (by decide +kernel), by decide, by decide, by decide⟩

/-- The lamps of a part with a row active. -/
def rowState (r : LampRow) : State := lit { svc with lms := { svc.lms with row := some r } }
/-- The ACCEPTED lamp lit. -/
def acceptedState : State := lit { svc with csq := { svc.csq with accepted := some 5000 } }
/-- The READY dimming timer running. -/
def readyState : State := lit (inState .idle { svc with lms := { svc.lms with readyTimer := some 300000 } })

/-- The READY dimming timer at work: an entry to IDLE from HELD, a stay in IDLE, and IDLE left. -/
theorem witness_LampTimers_ready :
    (∀ s ∈ [readyState, lit (recovering .warn (withHold .power (inState .held svc)))],
      StartRight s ∧ LampsRight s ∧ (s.csq.state ≠ .idle → s.lms.readyTimer = none)) ∧
    after .millisecondEnd readyState (fun t => (t.phase, t.csq.state)) = some (.service, .idle) ∧
    after .supplyWarn readyState (fun t => (t.phase, t.csq.state)) = some (.service, .held) ∧
    after .supplyRecoveryExpiry (lit (recovering .warn (withHold .power (inState .held svc))))
      (fun t => (t.phase, t.csq.state)) = some (.service, .idle) ∧
    (∀ s ∈ [readyState, lit (inState .idle svc)], Runs s ∧ s.phase = .service ∧ s.csq.state = .idle ∧
      s.csq.hatch = .closed) := by decide +kernel

theorem witness_LampTimers :
    (∀ s ∈ [acceptedState, readyState, lit (inState .fault svc), rowState .lr0, rowState .lr1], Runs s) ∧
    (∀ s ∈ [acceptedState, readyState, lit (inState .fault svc), rowState .lr0, rowState .lr1], LampsRight s) ∧
    (acceptedState.csq.accepted ≠ none ∧ readyState.lms.readyTimer ≠ none ∧ readyState.csq.state = .idle ∧
      (lit (inState .fault svc)).lms.modes.get .service = .flash) :=
  ⟨runs_all (by decide +kernel), by decide, by decide⟩

/-- The own shaft held by station 5 while the own claim is deferred. -/
def deferredBy5 : State := seen 2 (.held 5) { svc with shc := { svc.shc with phase := .deferred } }

theorem witness_ViewLapses :
    (∀ s ∈ [deferredBy5, seen 3 (.held 15) svc], Runs s) ∧
    (deferredBy5.shc.views.get 2 = .held 5 ∧ (5 : BitVec 4) ≠ svc.straps.adr ∧
      deferredBy5.shc.holdAge.get 2 ≠ none ∧ ownFull deferredBy5 = false ∧
      (seen 3 (.held 15) svc).shc.views.get 3 = .held 15) :=
  ⟨runs_all (by decide +kernel), by decide⟩

/-- The sync timer running. -/
def syncing (s : State) : State := { s with nck := { s.nck with syncTimer := some 1000 } }

theorem witness_ClockTimers :
    (∀ s ∈ [syncing svc, syncing (queued 7 svc), syncing (sending (.sync 0 0 true) 0 svc),
        syncing (fullOf (.journal 9 []) svc), syncing (fullOf (.jam 0) svc), freeLink (syncing svc)], Ready s) ∧
    LeastUrgent ⟨.journal 9 [], 0, 7⟩ (fullOf (.journal 9 []) svc).lkc ∧
    ((syncing svc).nck.syncTimer ≠ none ∧ (sending (.sync 0 0 true) 0 svc).lkc.hasSync = true ∧
      (fullOf (.journal 9 []) svc).lkc.hasSync = false ∧ (fullOf (.jam 0) svc).lkc.hasSync = false) :=
  ⟨Ready.all (by decide +kernel), by decide, by decide⟩

/-- n frames in the receive queue. -/
def rxHolding (n : Nat) (s : State) : State := { s with lkc := { s.lkc with rx := List.replicate n (.jam 0) } }

theorem witness_LinkPhases :
    (∀ s ∈ [svc, { svc with lkc := { svc.lkc with phase := .off } }, receiving (.judged (judgedFrame none none)) svc,
        receiving (.bits []) (rxHolding 4 svc), receiving (.bits (bytesBits [0x10, 2])) (rxHolding 4 svc),
        receiving (.bits []) (rxHolding 3 svc), queued 1 svc, fullOf (.claim 2 5) svc,
        receiving (.judged (judgedFrame none (some (.jam 0)))) (rxHolding 4 svc)], Runs s) ∧
    (svc.shc.lost = false ∧ bytesBits [0x10, 2] <+: bytesBits [0x10, 2, 0] ∧
      bytesBits [0x10, 2] <+: bytesBits [0x10, 2, 0, 32, 1] ∧ ¬ bytesBits [0x10, 2] <+: bytesBits [0x18, 2, 0] ∧
      bytesBits (0x20 :: 5 :: 0 :: BitVec.ofNat 8 ([] : List Byte).length :: ([] ++ [0])) =
        bytesBits [0x20, 5, 0, 0, 0]) ∧
    (svc.lkc.phase = .settling ∧ svc.lkc.holding = false ∧ svc.lkc.queue = [] ∧ (queued 1 svc).lkc.queue ≠ [] ∧
      (rxHolding 4 svc).lkc.rx.length = 4 ∧ (rxHolding 3 svc).lkc.rx.length < 4) :=
  ⟨runs_all (by decide +kernel), by decide, by decide⟩

/-- A frame with its right check byte. -/
def good (kind source dest : Byte) (payload : List Byte) : Frame :=
  { kind := kind, source := source, dest := dest, payload := payload
    check := crc8 (Frame.checkedBytes ⟨kind, source, dest, payload, 0⟩) }

theorem witness_CheckByteJudgement :
    (∀ s ∈ [receiving (.bits []) svc, receiving (.bits (bytesBits [0x10])) (inState .idle svc)], Runs s) ∧
    ((receiving (.bits []) svc).lkc.reception = .bits [] ∧ svc.lkc.holding = false ∧
      svc.straps.srv = true ∧ ([] ++ byteBits 0x10).length < 32) ∧
    (Frame.bits (good 0x10 5 0 [1])).take 8 ++ (Frame.bits (good 0x10 5 0 [1])).drop 8 =
      bytesBits (0x10 :: 5 :: 0 :: 1 :: ([1] ++ [(good 0x10 5 0 [1]).check])) ∧
    (∀ f ∈ [good 0x20 5 0 [3, 0, 0, 0, 5], good 0x20 1 0 [4, 0, 0, 0, 5], good 0x20 15 0 [0, 0, 0, 0],
        good 0x10 15 0 [4], good 0x14 15 0 (List.replicate 13 0), good 0x18 1 0 [0x21],
        good 0x30 1 0 (List.replicate 7 0), good 0x38 9 0 [1, 2], good 0x3C 9 0 [0, 255], good 0x48 9 1 [1],
        good 0x4C 9 1 [0, 0, 0, 1], good 0x50 9 1 [0, 0, 0, 1, 8], good 0x54 9 1 [], good 0x58 1 1 [73, 0],
        good 0x58 1 1 (74 :: List.replicate 24 0), good 0x48 9 2 [1], good 0x48 9 1 []],
      Frame.crcGood f = true ∧ f.payload.length ≤ 32 ∧ 1 ≤ f.source.toNat ∧ f.source.toNat ≤ 15) ∧
    Frame.crcGood { good 0x20 5 0 [3, 0, 0, 0, 5] with check := 0xFF } = false ∧
    32 < (good 0x20 5 0 (List.replicate 33 0)).payload.length :=
  ⟨runs_all (by decide +kernel), by decide, by decide +kernel, by decide +kernel⟩

/-- A CLAIM with the own source address, judged. -/
def claimOfOwn : Judged :=
  let j := judgedFrame (some 2) none
  { j with frame := { j.frame with source := 1 }, driveA := true }

theorem witness_EndMarkTakesFrame :
    (∀ s ∈ [receiving .absent svc, receiving (.bits [true]) svc, receiving .followed svc,
        receiving (.judged (judgedFrame none (some (.jam 0)))) (rxHolding 3 svc),
        receiving (.judged (judgedFrame none none)) (rxHolding 4 svc),
        receiving (.judged claimOfOwn) (inState .idle svc), receiving (.judged claimOfOwn) svc],
      runs s ∧ StartRight s) ∧
    ((rxHolding 3 svc).lkc.rx.length < 4 ∧ svc.lkc.holding = false ∧ (judgedFrame none none).crcGood = true ∧
      svc.ownByte = 1 ∧ claimOfOwn.frame.source = svc.ownByte ∧ claimOfOwn.driveA = true ∧
      claimOfOwn.crcGood = true) :=
  ⟨by decide +kernel, by decide⟩

/-- A CLAIM of station 5 for the own shaft, judged. -/
def claimOf5 : Judged := judgedFrame (some (BitVec.ofNat 8 (2 : Fin 4).val)) none

theorem witness_CleanSlotSetsView :
    (∀ s ∈ [svc, seen 2 (.held 5) svc, seen 2 .jammed svc, claimQueued svc, spaced],
      Runs (receiving (.judged claimOf5) s)) ∧
    (claimOf5.take = none ∧ claimOf5.frame.source ≠ svc.ownByte ∧ svc.lkc.holding = false) := by
  refine ⟨fun s hs => ?_, by decide⟩
  have h := runs_all (l := [svc, seen 2 (.held 5) svc, seen 2 .jammed svc, claimQueued svc, spaced].map
    (receiving (.judged claimOf5))) (by decide +kernel)
  exact h _ (List.mem_map_of_mem hs)

theorem witness_FrameLeavesTheLink :
    (∀ s ∈ [sending (.jam 0) 0 svc, sending (.jam 0) 2 svc, sending (.jam 0) 3 svc,
        sending (.sync 0 0 true) 0 svc, reading [false, false, false] (sending (.jam 0) 0 svc)], Runs s) ∧
    ((sending (.jam 0) 3 svc).lkc.phase = .transmitting ∧
      (sending (.jam 0) 3 svc).lkc.current = some ⟨.jam 0, 3, 7⟩ ∧ svc.lkc.holding = false) ∧
    ((Frame.bits (TxFrame.toFrame svc.ownByte (.jam 0)))[3]? = some true ∧
      [false, false, false] = (Frame.bits (TxFrame.toFrame svc.ownByte (.jam 0))).take 3 ∧
      [false, false, false] ++ [true] <+: Frame.bits (TxFrame.toFrame svc.ownByte (.jam 0)) ∧
      ¬ [false, false, false] ++ [false] <+: Frame.bits (TxFrame.toFrame svc.ownByte (.jam 0))) ∧
    (∀ k, (Frame.bits (TxFrame.toFrame svc.ownByte (.jam 0)))[k]? = some true →
      (sending (.jam 0) 0 svc).lkc.reception ≠ .bits ((Frame.bits (TxFrame.toFrame svc.ownByte (.jam 0))).take k)) :=
  ⟨runs_all (by decide +kernel), by decide, by decide +kernel, fun k _ => by
    rw [show (sending (.jam 0) 0 svc).lkc.reception = .absent from rfl]
    exact Reception.noConfusion⟩

/-- The own CLAIM in transmission, its outcome awaited or not. -/
def claimOut (k : Nat) (a : Option AwaitCause) (s : State) : State :=
  sending (.claim 2 5) k (inState .claim { s with csq := { s.csq with awaiting := a } })

/-- A claim that has lost contention and waits for the frame that won to end. -/
def lostClaim (s : State) : State :=
  { s with
    lkc := { s.lkc with queue := [{ content := .claim 2 5, attempts := 0, age := 7 }], nextAge := 8 }
    shc := { s.shc with phase := .queued, lost := true } }

theorem witness_ClaimLeavesTheLink :
    (∀ s ∈ [claimOut 0 none (staged 7 svc), claimOut 3 none svc, claimOut 2 none (seen 2 .jammed svc),
        claimOut 3 (some .timeout) (staged 8 svc), claimOut 0 (some .power) svc,
        reading [false, false] (claimOut 0 none svc), reading [false, false] (claimOut 0 (some .power) svc)],
      Ready s) ∧
    ((claimOut 3 none svc).lkc.current = some ⟨.claim 2 5, 3, 7⟩ ∧ svc.shc.givenUp = false ∧
      ownView svc = .free ∧ ownFull svc = false ∧ ownView (seen 2 .jammed svc) = .jammed) ∧
    ((Frame.bits (TxFrame.toFrame svc.ownByte (.claim 2 5)))[2]? = some true ∧
      [false, false] = (Frame.bits (TxFrame.toFrame svc.ownByte (.claim 2 5))).take 2) :=
  ⟨Ready.all (by decide +kernel), by decide, by decide +kernel⟩

theorem witness_ClaimLeavesTheLink_givenUp :
    (∀ s ∈ [claimOut 0 none { svc with shc := { svc.shc with givenUp := true } }, sending (.claim 2 5) 3 svc,
        reading [false, false] (sending (.claim 2 5) 0 svc)], Ready s) ∧
    (svc.csq.state ≠ .claim ∧ (sending (.claim 2 5) 3 svc).lkc.current = some ⟨.claim 2 5, 3, 7⟩) :=
  ⟨Ready.all (by decide +kernel), by decide⟩

theorem witness_ClaimLeavesTheLink_lost :
    (∀ s ∈ [lostClaim svc, lostClaim (seen 2 .jammed svc), lostClaim (receiving (.bits []) svc),
        { seen 2 .jammed svc with
          lkc := (fullOf (.claim 2 5) svc).lkc, shc := { (seen 2 .jammed svc).shc with phase := .queued, lost := true } }],
      Ready s) ∧
    ((lostClaim svc).shc.phase = .queued ∧ (lostClaim svc).shc.lost = true ∧ (lostClaim svc).lkc.inTx = none ∧
      svc.lkc.holding = false ∧ svc.lkc.phase = .settling) :=
  ⟨Ready.all (by decide +kernel), by decide⟩

theorem witness_ClaimOutcome :
    (∀ s ∈ [claimOut 0 none svc, claimOut 0 none (staged 8 svc), claimOut 0 (some .timeout) svc,
        claimOut 0 none { svc with nls := { svc.nls with entries := [0] } },
        claimOut 0 none { svc with rct := { svc.rct with deadTime := some 10, lastDir := some .rev } },
        claimOut 0 none { svc with rct := { svc.rct with count := 400 } }, sending (.claim 2 5) 0 svc,
        claimOut 0 none { svc with shc := { svc.shc with givenUp := true } }], Ready s) ∧
    (({ svc with rct := { svc.rct with count := 400 } } : State).rct.position = svc.cfg.dropTarget ∧
      svc.csq.state ≠ .claim ∧ (claimOut 0 none svc).lkc.current = some ⟨.claim 2 5, 0, 7⟩ ∧ svc.csq.bag.serial = 0 ∧
      svc.rct.position ≠ svc.cfg.dropTarget) :=
  ⟨Ready.all (by decide +kernel), by decide⟩

theorem witness_JamAndReleaseTaken :
    (∀ s ∈ [withRx (.jam 2) svc, withRx (.jam 2) (selfHolding (inState .turn svc)),
        withRx (.jam 3) (seen 3 (.held 5) svc), withRx (.jam 4) svc, withRx (.jam 2) (seen 2 .jammed svc),
        withRx (.release 3) (seen 3 (.held 5) svc), withRx (.release 4) svc, withRx (.release 2) deferredBy5,
        withRx (.jam 2) (claimQueued svc), withRx (.jam 2) spaced,
        idleArray { svc with lkc := { svc.lkc with rx := [.jam 2, .configWrite 5 [1]] } }], Ready s) ∧
    (ownFull deferredBy5 = false ∧ (withRx (.jam 4) svc).lkc.rx = [.jam 4] ∧ (withRx (.release 4) svc).lkc.rx = [.release 4]) :=
  ⟨Ready.all (by decide +kernel), by decide⟩

theorem witness_LandedTaken :
    (∀ s ∈ [withRx (.landed 2 5 9999 400 0) svc, withRx (.landed 3 5 10000 400 0) (seen 3 (.held 5) svc),
        withRx (.landed 4 5 9999 400 0) svc, withRx (.landed 2 5 9 400 0) (claimQueued svc),
        withRx (.landed 2 5 9 0 0) deferredBy5, withRx (.landed 2 5 9 400 0) spaced], Runs s) ∧
    (deferredBy5.shc.phase = .deferred ∧ spaced.shc.phase = .spacing ∧
      StartRight (withRx (.landed 2 5 9999 400 0) svc)) ∧
    (tallyFull svc.cfg (ownTally svc) = false ∧ tallyFull svc.cfg { count := 400, mass := 9999 } = true ∧
      tallyFull svc.cfg { count := 1, mass := 9 } = false ∧
      tallyFull svc.cfg { count := 399, mass := 249999 } = false) :=
  ⟨runs_all (by decide +kernel), by decide, by decide⟩

/-- The part in night 412. -/
def night412 (s : State) : State := { s with nls := { s.nls with night := 412 } }

theorem witness_SyncTaken :
    (∀ s ∈ [withRx (.sync 9 413 0) (night412 (staged 6 svc)), withRx (.sync 9 413 1) (night412 (staged 7 svc)),
        withRx (.sync 9 412 1) (night412 svc), withRx (.sync 9 411 0) (night412 (queued 7 svc)),
        withRx (.sync 9 412 2) (night412 svc), withRx (.sync 9 411 0) (night412 (sending (.sync 0 0 true) 0 svc)),
        withRx (.sync 9 411 0) (night412 (fullOf (.journal 9 []) svc)),
        withRx (.sync 9 411 0) (night412 (fullOf (.jam 0) svc)), withRx (.sync 9 411 0) (night412 (freeLink svc)),
        withRx (.sync 9 412 0) (night412 { svc with nck := { svc.nck with synced := true } }),
        withRx (.sync 9 413 0) (night412 (lastSeq svc)),
        idleArray { night412 svc with lkc := { svc.lkc with rx := [.sync 9 413 0, .configWrite 5 [1]] } }],
      Ready s) ∧
    (LeastUrgent ⟨.journal 9 [], 0, 7⟩ (fullOf (.journal 9 []) svc).lkc ∧
      LeastUrgent ⟨.jam 0, 0, 7⟩ (fullOf (.jam 0) svc).lkc ∧ (fullOf (.jam 0) svc).lkc.hasSync = false) ∧
    ((staged 6 svc).jnc.staging.length < 7 ∧ 7 ≤ (staged 7 svc).jnc.staging.length ∧
      (staged 6 svc).jnc.seqCounter ≠ 0xFFFFFFFF) :=
  ⟨Ready.all (by decide +kernel), by decide, by decide⟩

theorem witness_CloseTaken :
    (∀ s ∈ [withRx (.close 412) (night412 (staged 6 svc)), withRx (.close 413) (night412 (staged 6 svc)),
        withRx (.close 413) (night412 (staged 7 svc)), withRx (.close 413) (night412 (lastSeq svc)),
        receiving (.bits []) svc], Ready s) ∧
    (Frame.crcGood (good 0x38 15 0 [1, 157]) = true ∧ (412 : W16).toNat ≤ (night412 svc).nls.night.toNat ∧ (night412 svc).nls.night.toNat < (413 : W16).toNat) :=
  ⟨Ready.all (by decide +kernel), by decide +kernel, by decide⟩

/-- The own claim deferred by a JAMMED own shaft, and by a full own bin. -/
def deferredJammed : State := seen 2 .jammed { svc with shc := { svc.shc with phase := .deferred } }
/-- See `deferredJammed`. -/
def deferredFull : State :=
  setTally 2 { count := 400, mass := 9 } { svc with shc := { svc.shc with phase := .deferred } }

/-- R117, R133, R134: a CLEAR of what barred the own claim lets it go on to SPACING. -/
theorem test_clear_frees_claim :
    after .clearShaft (withRx (.clear 1 2) deferredJammed) (fun t => (t.shc.phase, t.shc.spacing)) =
      some (.spacing, some 200) ∧
    after .clearBin (withRx (.clear 2 2) deferredFull) (fun t => (t.shc.phase, t.shc.spacing)) =
      some (.spacing, some 200) := by decide

theorem witness_ClearTaken :
    (∀ s ∈ [withRx (.clear 0 2) svc, withRx (.clear 4 2) svc, withRx (.clear 1 2) (staged 6 svc),
        withRx (.clear 1 3) svc, withRx (.clear 1 4) svc, withRx (.clear 2 2) (staged 7 svc),
        withRx (.clear 2 3) svc, withRx (.clear 2 4) svc, withRx (.clear 3 1) svc,
        withRx (.clear 3 2) (inState .fault svc), withRx (.clear 3 1) (inState .fault svc),
        withRx (.clear 3 1) (atHome (inState .fault svc)), withRx (.clear 3 1) (open' (inState .fault svc)),
        withRx (.clear 3 1) (open' (inState .fault (staged 6 svc))),
        withRx (.clear 3 1) (open' (inState .fault (staged 8 svc))),
        withRx (.clear 1 2) deferredJammed, withRx (.clear 2 2) deferredFull,
        withRx (.clear 2 2) { deferredFull with shc := { deferredFull.shc with views := deferredJammed.shc.views } },
        idleArray { svc with lkc := { svc.lkc with rx := [.clear 1 2, .configWrite 5 [1]] } }],
      Ready s) ∧
    (deferredJammed.shc.phase = .deferred ∧ ownView deferredJammed = .jammed ∧ ownFull deferredJammed = false ∧
      deferredFull.shc.phase = .deferred ∧ ownView deferredFull = .free ∧ ownFull deferredFull = true) ∧
    svc.ownByte = 1 ∧ svc.csq.hatch = .closed ∧
    (∀ s ∈ [open' (inState .fault svc), open' (inState .fault (staged 6 svc)), open' (inState .fault (staged 8 svc))],
      s.csq.hatch = .opened ∧ s.csq.state = .fault ∧ selfHeld s = false) :=
  ⟨Ready.all (by decide +kernel), by decide, by decide, by decide, by decide⟩

theorem witness_HoldTaken :
    (∀ s ∈ [withRx (.hold 0) svc, withRx (.hold 1) svc, withRx (.hold 255) (inState .idle svc),
        withRx (.hold 0) (withHold .audit (inState .held svc))], Ready s) ∧
    svc.csq.holds.audit = false ∧ (withHold .audit svc).csq.holds.audit = true :=
  ⟨Ready.all (by decide +kernel), by decide⟩

/-- A journal whose mark may advance from 8 to 9. -/
def marked : State := { svc with jnc := { svc.jnc with newest := 9, auditMark := 8 } }

theorem witness_JournalFramesTaken :
    (∀ s ∈ [withRx (.auditMark 9) marked, withRx (.auditMark 8) marked, withRx (.readJournal 9 1 1) svc,
        withRx (.readJournal 9 1 1) (idleArray (queued 7 svc)), withRx (.readJournal 9 1 1) (idleArray (fullOf (.jam 0) svc)),
        withRx (.configWrite 0 [1]) svc,
        withRx (.configWrite 0 [1]) (idleArray svc)], Ready s) ∧
    (marked.jnc.auditMark.toNat < min (9 : W32).toNat marked.jnc.newest.toNat ∧ svc.jnc.pendingRead = none) :=
  ⟨Ready.all (by decide +kernel), by decide⟩

theorem witness_JournalFramesTaken_flash :
    (∃ q ∈ (journalRecords (recordInSlot0 5 0)).map (·.2), q.kind = 5) ∧
    eraseWanted (idleArray svc) = false ∧ eraseWanted { idleArray svc with flash := [(0, 0)] } = true ∧
    runs { idleArray svc with flash := [(0, 0)] } = true ∧ (queued 7 svc).lkc.queue.length + 1 ≤ 8 :=
  ⟨record_in_slot0 (by decide +kernel), by decide +kernel, by decide +kernel, by decide +kernel, by decide⟩

theorem witness_ReadStateTaken :
    (∀ s ∈ [withRx (.readState 9) (queued 7 svc), withRx (.readState 9) (fullOf (.journal 9 []) svc),
        withRx (.readState 9) (freeLink svc)], Ready s) ∧
    LeastUrgent ⟨.journal 9 [], 0, 7⟩ (fullOf (.journal 9 []) svc).lkc :=
  ⟨Ready.all (by decide +kernel), by decide⟩

/-- The programming of a record under way, with a deferred request or without. -/
def programming (d : Option RecordReq) (wait : Bool) : State :=
  { inState .check (staged 8 svc) with
    csq := { (inState .check svc).csq with returnWait := wait }
    jnc := { (staged 8 svc).jnc with array := .program, deferred := d, writePtr := 511 } }

theorem witness_ProgramCompletes :
    (∀ s ∈ [{ staged 1 svc with jnc := { (staged 1 svc).jnc with array := .program } }, programming none false,
        programming (some (RecordReq.blank .returned 2)) true, programming (some (RecordReq.blank .deposit 2)) false,
        inState .claim (programming (some (RecordReq.blank .returned 2)) true), reading8 (programming none false),
        { programming none false with lkc := { svc.lkc with rx := [.configWrite 5 [1]] } }], Ready s) ∧
    ((inState .claim (programming none true)).csq.returnWait = true ∧ (reading8 svc).jnc.pendingRead ≠ none) ∧
    ((programming none false).jnc.staging.length = 8 ∧ (programming none true).csq.state = .check ∧
      (programming none false).jnc.seqCounter ≠ 0xFFFFFFFF ∧ flashWf svc.flash = true ∧
      (programming none false).jnc.writePtr < 512) :=
  ⟨Ready.all (by decide +kernel), by decide, by decide⟩

/-- An information-page operation under way. -/
def infoWriting (o : Byte) : State := { svc with jnc := { svc.jnc with array := .info o [1] } }

theorem witness_EraseAndInfoComplete :
    (∀ s ∈ [svc, infoWriting 0, infoWriting 73, reading8 svc, reading8 (infoWriting 0), freeLink (reading8 svc),
        inState .idle svc, withHold .journalFull (inState .held svc), staged 1 svc], Ready s) ∧
    (flashWf svc.flash = true ∧ svc.jnc.array = .erase 0 ∧ (infoWriting 73).jnc.array = .info 73 [1] ∧
      (73 : Byte).toNat + 0 ≤ 73) :=
  ⟨Ready.all (by decide +kernel), by decide⟩

end Sys2Proof.Tests
end

section
/-! PROOFS. The weigh channel: windows and the mass they give (R33, R37, R38), the sample that is taken (R30 to R33), and
the channel's timers (R31, R32, R34, R39). -/

namespace Sys2Proof.Machine

/-! ## Windows (R33) -/

theorem le_windowMax {x : W16} {w : List W16} (h : x ∈ w) : x.toNat ≤ windowMax w := by
  induction h with
  | head rest => exact le_max_left _ _
  | tail y _ ih => exact ih.trans (le_max_right _ _)

theorem windowMin_le {x : W16} {w : List W16} (h : x ∈ w) : windowMin w ≤ x.toNat := by
  induction h with
  | head rest => exact min_le_left _ _
  | tail y _ ih => exact (min_le_right _ _).trans ih

theorem exists_mem_windowMax {w : List W16} (h : w ≠ []) : ∃ x ∈ w, x.toNat = windowMax w := by
  induction w with
  | nil => exact absurd rfl h
  | cons a rest ih =>
    rcases le_total (windowMax rest) a.toNat with ha | ha
    · exact ⟨a, List.mem_cons_self, (max_eq_left ha).symm⟩
    · by_cases hr : rest = []
      · exact ⟨a, List.mem_cons_self, by simp [windowMax, hr]⟩
      · obtain ⟨x, hx, e⟩ := ih hr
        exact ⟨x, List.mem_cons_of_mem a hx, e.trans (max_eq_right ha).symm⟩

theorem exists_mem_windowMin {w : List W16} (h : w ≠ []) : ∃ x ∈ w, x.toNat = windowMin w := by
  induction w with
  | nil => exact absurd rfl h
  | cons a rest ih =>
    rcases le_total a.toNat (windowMin rest) with ha | ha
    · exact ⟨a, List.mem_cons_self, (min_eq_left ha).symm⟩
    · by_cases hr : rest = []
      · have := a.isLt
        exact ⟨a, List.mem_cons_self, by simp only [windowMin, hr]; omega⟩
      · obtain ⟨x, hx, e⟩ := ih hr
        exact ⟨x, List.mem_cons_of_mem a hx, e.trans (min_eq_right ha).symm⟩

/-- R33: the spread is within a limit exactly where every two samples are. -/
theorem windowSpread_le_iff {limit : Nat} {w : List W16} : windowSpread w ≤ limit ↔ StableWindow limit w := by
  unfold windowSpread
  constructor
  · intro h x hx y hy
    have := le_windowMax hx
    have := windowMin_le hy
    omega
  · intro h
    by_cases hw : w = []
    · simp [hw, windowMax]
    · obtain ⟨x, hx, ex⟩ := exists_mem_windowMax hw
      obtain ⟨y, hy, ey⟩ := exists_mem_windowMin hw
      have := h x hx y hy
      omega

theorem windowSum_eq_sumOf (w : List W16) : (windowSum w : Int) = sumOf w := by
  induction w with
  | nil => rfl
  | cons a rest ih => simp [windowSum, sumOf, ih]

/-! ## The mass of a window (R37, R38) -/

/-- R37: where the net sum is above 0, the quotient in whole numbers is the one of the rule. -/
theorem netGrams_of_lt (scaleK : Nat) {sum t16 : Nat} (h : t16 < sum) :
    (netGrams scaleK sum t16 : Int) = (((sum : Int) - t16) * scaleK + 131072) / 262144 := by
  rw [netGrams, if_neg (by omega)]
  push_cast [h.le]
  rfl

theorem netGrams_of_le (scaleK : Nat) {sum t16 : Nat} (h : sum ≤ t16) : netGrams scaleK sum t16 = 0 := if_pos h

/-- R33, R37, R38: what the model hands over for a window is what the rules give for it. -/
theorem massResult_weighsAs (s : State) (w : List W16) :
    WeighsAs s w (massResult s.cfg.scaleK (windowSum w) s.wch.t16).1
      (massResult s.cfg.scaleK (windowSum w) s.wch.t16).2 (!decide (windowSpread w ≤ s.cfg.stability)) := by
  unfold WeighsAs massResult
  simp only [← windowSum_eq_sumOf, ← windowSpread_le_iff, decide_eq_true_eq, decide_eq_false_iff_not]
  refine ⟨fun h => ?_, fun h hq => ?_, fun h hq => ?_, by simp⟩
  · rw [netGrams_of_le _ (by omega)]
    decide
  · rw [← netGrams_of_lt _ (by omega)] at hq ⊢
    omega
  · rw [← netGrams_of_lt _ (by omega)] at hq
    omega

/-! ## The end of a weighing (R35) -/

theorem judgeCheckEnd_of_tags_open {s : State} (h : s.csq.tagEnded = false) : judgeCheckEnd s = s := by
  simp [judgeCheckEnd, h]

/-- R35: while the tag window is open, the end of a weighing only hands its outcome over. -/
theorem endWeighing_of_tags_open {s : State} (o : WeighOutcome) (h : s.csq.tagEnded = false) :
    endWeighing o s = { s with
      wch := { s.wch with activity := .idle, window := [], settle := none }
      csq := { s.csq with weighed := some o } } :=
  judgeCheckEnd_of_tags_open h

/-- R35: a stable window, or the fourth, ends the weighing with its mass. -/
theorem weighWindow_ends {s : State} {w : List W16}
    (h : StableWindow s.cfg.stability w ∨ 4 ≤ s.wch.windowNumber) :
    weighWindow w s = endWeighing (.weighed (massResult s.cfg.scaleK (windowSum w) s.wch.t16).1
      (massResult s.cfg.scaleK (windowSum w) s.wch.t16).2 (!decide (windowSpread w ≤ s.cfg.stability))) s := by
  unfold weighWindow
  exact if_pos (by rwa [decide_eq_true_eq, windowSpread_le_iff])

/-- R35: an unstable window before the fourth is set aside. -/
theorem weighWindow_set_aside {s : State} {w : List W16} (h : ¬ StableWindow s.cfg.stability w)
    (hn : s.wch.windowNumber < 4) :
    weighWindow w s = { s with wch := { s.wch with window := [], windowNumber := s.wch.windowNumber + 1 } } := by
  unfold weighWindow
  exact if_neg (by rw [decide_eq_true_eq, windowSpread_le_iff, not_or]; exact ⟨h, by omega⟩)

/-! ## The sample that is taken (R30 to R33) -/

/-- R30 to R32: what a sample changes before it joins a window. -/
def sampleTaken (s : State) : State :=
  { s with wch := { s.wch with
      heldByte := none, gap := some 20
      recovery := if s.csq.holds.weigh = true ∧ s.wch.recovery = none then some 1000 else s.wch.recovery } }

/-- R30: a second byte completes a sample. -/
theorem weighByte_completes {s : State} {first : Byte} (b : Byte) (h : s.wch.heldByte = some first) :
    weighByte b false false s = gatherSample (first ++ b) (sampleTaken s) := by
  simp only [weighByte, h, Bool.false_eq_true, if_false]
  rfl

theorem exec_sample {s : State} {first : Byte} (b : Byte) (h : s.wch.heldByte = some first) :
    exec (.weighByteReceived b false false) s = running s (gatherSample (first ++ b) (sampleTaken s)) :=
  congrArg (running s) (weighByte_completes b h)

/-- R33: a sample in the window. -/
def sampleJoined (v : W16) (s : State) : State :=
  { s with wch := { s.wch with window := s.wch.window ++ [v] } }

/-- R33: the 16th sample of a CHECK window has the window judged. -/
theorem gatherSample_weighing_full {s : State} (v : W16) (ha : s.wch.activity = .weighing)
    (hw : s.wch.window.length = 15) :
    gatherSample v s = weighWindow (s.wch.window ++ [v]) (sampleJoined v s) := by
  simp [gatherSample, ha, hw, sampleJoined]

/-! ## Settled states -/

/-- Whether a state is settled rests on few of its fields. -/
theorem Settled.congr {s t : State} (h : Settled s) (hs : t.csq.state = s.csq.state)
    (hh : t.csq.holds = s.csq.holds) (hc : t.csq.hatch = s.csq.hatch) (hr : t.rct = s.rct)
    (ha : t.wch.activity = .tare ↔ s.wch.activity = .tare) (ht : t.wch.tareInterval = s.wch.tareInterval) :
    Settled t := by
  have he : tareEligible t = tareEligible s := by simp only [tareEligible, hs, hh, hc, hr]
  simpa only [Settled, he, hs, hh, hc, ha, ht, ne_eq] using h

/-! ## The 16th sample of a CHECK window -/

/-- Settles O27: the window ends the weighing with its mass (R35, R37, R38), or is set aside. -/
theorem weighingWindow : Obligations.WeighingWindow := by
  intro b first s ⟨hp, hs⟩ hf ha hw ht
  have hx : exec (.weighByteReceived b false false) s = running s
      (weighWindow (s.wch.window ++ [first ++ b]) (sampleJoined (first ++ b) (sampleTaken s))) := by
    rw [exec_sample b hf, gatherSample_weighing_full (s := sampleTaken s) _ ha hw]
    rfl
  refine ⟨fun h => ⟨_, _, _, massResult_weighsAs s _, ?_⟩, fun h hn => ?_⟩
  · rw [hx, weighWindow_ends (s := sampleJoined _ (sampleTaken s)) h,
      endWeighing_of_tags_open (s := sampleJoined _ (sampleTaken s)) _ ht]
    exact running_of_settled hp (hs.congr rfl rfl rfl rfl (by simp [ha]) rfl)
  · rw [hx, weighWindow_set_aside (s := sampleJoined _ (sampleTaken s)) h hn]
    exact running_of_settled hp (hs.congr rfl rfl rfl rfl Iff.rfl rfl)

/-! ## The weigh channel through the end of CHECK (R12 to R17) -/

theorem returnBag_wch (r : ReturnReason) (s : State) : (returnBag r s).wch = s.wch := by
  unfold returnBag
  dsimp only
  split <;> exact (askBag_op _ _).wch

/-- R15: what a return leaves of the sequencer: the state, unless it is PRESENT, the hatch and the reason WEIGH. -/
theorem returnBag_weigh_hatch_state (r : ReturnReason) (s : State) :
    (returnBag r s).csq.holds.weigh = s.csq.holds.weigh ∧ (returnBag r s).csq.hatch = s.csq.hatch ∧
    ((returnBag r s).csq.state = .present ∨ (returnBag r s).csq.state = s.csq.state) := by
  have k := askBag_op (returnRecord r s.csq.bag s.straps.shf) { s with csq := { s.csq with
    bag := { s.csq.bag with reason := some r }, claimWait := none, retry := none, awaiting := none } }
  unfold returnBag
  dsimp only
  split
  · exact ⟨congrArg (·.holds.weigh) k.csq, congrArg (·.hatch) k.csq, .inl rfl⟩
  · exact ⟨congrArg (·.holds.weigh) k.csq, congrArg (·.hatch) k.csq, .inr (congrArg (·.state) k.csq)⟩

theorem enterClaim_wch (s : State) : (enterClaim s).wch = s.wch := (requestClaim_op _ _).wch

theorem checkRules_wch (mass : Nat) (overRange unstable : Bool) (s : State) :
    (checkRules mass overRange unstable s).wch = s.wch := by
  unfold checkRules
  split
  · rfl
  · split
    · exact returnBag_wch _ s
    · split
      · exact returnBag_wch _ s
      · split
        · split
          · exact returnBag_wch _ s
          · split
            · exact returnBag_wch _ s
            · exact enterClaim_wch _
        · exact returnBag_wch _ s
        · exact returnBag_wch _ s

theorem checkOrder_wch (w : WeighOutcome) (s : State) : (checkOrder w s).wch = s.wch := by
  unfold checkOrder
  dsimp only
  split
  · exact returnBag_wch _ _
  · split
    · exact returnBag_wch _ _
    · exact checkRules_wch _ _ _ _

/-- R12: whatever the check order gives, the weigh channel stays. -/
theorem judgeCheckEnd_wch (s : State) : (judgeCheckEnd s).wch = s.wch := by
  unfold judgeCheckEnd
  split
  · split
    · rfl
    · exact checkOrder_wch _ s
  · rfl

theorem endWeighing_wch (o : WeighOutcome) (s : State) :
    (endWeighing o s).wch = { s.wch with activity := .idle, window := [], settle := none } := judgeCheckEnd_wch _

/-- R13: a weighing that ends with a sample gap keeps WEIGH and the hatch, and at most returns the bag. -/
theorem endWeighing_gap_weigh_hatch_state (s : State) :
    (endWeighing .gap s).csq.holds.weigh = s.csq.holds.weigh ∧ (endWeighing .gap s).csq.hatch = s.csq.hatch ∧
    ((endWeighing .gap s).csq.state = .present ∨ (endWeighing .gap s).csq.state = s.csq.state) := by
  unfold endWeighing judgeCheckEnd
  split
  · exact returnBag_weigh_hatch_state _ _
  · exact ⟨rfl, rfl, .inr rfl⟩

/-! ## The judgements at the end of a step -/

/-- R8, R11: what the judgement of the set leaves alone. -/
theorem judgeHeld_frame (s : State) :
    judgeHeld s = { s with
      csq := { s.csq with state := (judgeHeld s).csq.state, lock := (judgeHeld s).csq.lock }
      lms := (judgeHeld s).lms } := by
  unfold judgeHeld
  split
  · rfl
  · split <;> rfl

@[simp] theorem judgeHeld_wch (s : State) : (judgeHeld s).wch = s.wch := by rw [judgeHeld_frame]

/-- R39: IDLE and HELD are alike to the tare check. -/
theorem tareEligible_judgeHeld (s : State) : tareEligible (judgeHeld s) = tareEligible s := by
  unfold judgeHeld
  split
  · next h => simp [tareEligible, h.1]
  · split
    · next h => simp [tareEligible, h.1]
    · rfl

/-- R8: a raised set takes IDLE to HELD. -/
theorem judgeHeld_of_raised {s : State} (h : s.csq.holds.isEmpty = false) :
    judgeHeld s = if s.csq.state = .idle then enterState .held s else s := by
  simp [judgeHeld, h]

/-- R11: out of IDLE, the set that is empty takes HELD to IDLE. -/
theorem judgeHeld_of_not_idle {s : State} (h : s.csq.state ≠ .idle) :
    judgeHeld s = if s.csq.state = .held ∧ s.csq.holds.isEmpty = true then enterState .idle s else s := by
  simp [judgeHeld, h]

/-- R26: with the hatch shut wherever it has to be, no forced hatch is found at the end of a step. -/
theorem settleStep_of_hatch {s : State}
    (h : s.csq.state = .idle ∨ s.csq.state.locked = true → s.csq.hatch = .closed) :
    settleStep s = judgeTare (judgeHeld s) := by
  have hn : ¬ ((judgeHeld s).csq.state.locked = true ∧ (judgeHeld s).csq.hatch = .opened) := by
    rintro ⟨hl, ho⟩
    rw [judgeHeld_frame] at ho
    unfold judgeHeld at hl
    split at hl
    · next hi => rw [h (.inl hi.1)] at ho; cases ho
    · split at hl
      · cases hl
      · rw [h (.inr hl)] at ho; cases ho
  unfold settleStep judgeHatch
  rw [if_neg hn]

/-- R39, R40: while WEIGH is raised the tare interval timer is stopped. -/
theorem judgeTare_of_weigh {s : State} (hw : s.csq.holds.weigh = true) (ha : s.wch.activity ≠ .tare) :
    judgeTare s = { s with wch := { s.wch with tareInterval := none } } := by
  simp [judgeTare, tareEligible, hw, ha]

/-- R39: with no check in progress and the timer stopped, the timer starts exactly where a check may run. -/
theorem judgeTare_of_stopped {s : State} (ha : s.wch.activity ≠ .tare) (ht : s.wch.tareInterval = none) :
    judgeTare s =
      { s with wch := { s.wch with tareInterval := if tareEligible s = true then some 2000 else none } } := by
  by_cases he : tareEligible s = true <;> simp [judgeTare, he, ha, ht]

theorem isEmpty_of_weigh {h : HoldSet} (hw : h.weigh = true) : h.isEmpty = false := by
  simp [HoldSet.isEmpty, hw]

/-- R39: while WEIGH is raised no tare check is in progress and the tare interval timer is stopped. -/
theorem Settled.no_tare_of_weigh {s : State} (h : Settled s) (hw : s.csq.holds.weigh = true) :
    s.wch.activity ≠ .tare ∧ s.wch.tareInterval = none := by
  obtain ⟨-, -, -, -, hn⟩ := h
  exact hn (by simp [tareEligible, hw])

/-! ## The gap and recovery timers through a step (R31, R32) -/

/-- From s to t neither the gap timer nor the recovery timer has changed. -/
structure SampleTimersKept (s t : State) : Prop where
  gap : t.wch.gap = s.wch.gap
  recovery : t.wch.recovery = s.wch.recovery

theorem SampleTimersKept.of_wch {s t : State} (h : t.wch = s.wch) : SampleTimersKept s t := ⟨by rw [h], by rw [h]⟩

theorem SampleTimersKept.trans {s t u : State} (h : SampleTimersKept s t) (k : SampleTimersKept t u) :
    SampleTimersKept s u := ⟨k.gap.trans h.gap, k.recovery.trans h.recovery⟩

theorem weighWindow_timers (w : List W16) (s : State) : SampleTimersKept s (weighWindow w s) := by
  unfold weighWindow
  dsimp only
  split
  · constructor <;> rw [endWeighing_wch]
  · exact ⟨rfl, rfl⟩

theorem tareWindow_timers (w : List W16) (s : State) : SampleTimersKept s (tareWindow w s) := by
  unfold tareWindow
  dsimp only
  split
  · split <;> exact ⟨rfl, rfl⟩
  · split
    · exact SampleTimersKept.trans (t := raiseHold .zero { s with wch := badCheck s.wch }) ⟨rfl, rfl⟩
        (.of_wch (askGeneral_op _ _).wch)
    · exact ⟨rfl, rfl⟩

/-- R33: whatever a sample does to a window. -/
theorem gatherSample_timers (v : W16) (s : State) : SampleTimersKept s (gatherSample v s) := by
  have hj : SampleTimersKept s (sampleJoined v s) := ⟨rfl, rfl⟩
  unfold gatherSample
  dsimp only
  split
  · split
    · exact hj.trans (weighWindow_timers _ _)
    · exact hj
  · split
    · exact hj.trans (tareWindow_timers _ _)
    · exact hj
  · exact ⟨rfl, rfl⟩
  · exact ⟨rfl, rfl⟩

theorem endHoldForFault_wch (o : SeqState) (s : State) : (endHoldForFault o s).wch = s.wch := by
  unfold endHoldForFault
  split
  · exact (queueFrame_op _ _).wch
  · split
    · exact (giveUpClaim_op s).wch
    · rfl

theorem enterFault_timers (r : FaultReason) (s : State) : SampleTimersKept s (enterFault r s) := by
  have ha : ∀ o u, SampleTimersKept u (abandonCheck o u) := fun o u => by
    unfold abandonCheck
    split <;> exact ⟨rfl, rfl⟩
  have hs : SampleTimersKept s (stopSequencer { s with rct := s.rct.stop }) := ⟨rfl, rfl⟩
  unfold enterFault
  exact (hs.trans (ha s.csq.state _)).trans (.of_wch ((askGeneral_op _ _).wch.trans (endHoldForFault_wch _ _)))

theorem judgeTare_timers (s : State) : SampleTimersKept s (judgeTare s) := by
  unfold judgeTare
  split
  · split <;> exact ⟨rfl, rfl⟩
  · split <;> exact ⟨rfl, rfl⟩

/-- The judgements at the end of a step leave both timers. -/
theorem settleStep_timers (s : State) : SampleTimersKept s (settleStep s) := by
  have hh : SampleTimersKept s (judgeHeld s) := .of_wch (by rw [judgeHeld_frame])
  have hf (u : State) : SampleTimersKept u (judgeHatch u) := by
    unfold judgeHatch
    split
    · exact enterFault_timers _ u
    · exact ⟨rfl, rfl⟩
  exact (hh.trans (hf _)).trans (judgeTare_timers _)

/-- R31, R32: a sample taken, in every activity. -/
theorem exec_sample_timers {s : State} (hp : s.phase ≠ .inReset) {first : Byte} (b : Byte)
    (h : s.wch.heldByte = some first) :
    ∃ t, exec (.weighByteReceived b false false) s = .next t ∧ SampleTimersKept (sampleTaken s) t :=
  ⟨_, (exec_sample b h).trans (running_eq hp), (gatherSample_timers _ _).trans (settleStep_timers _)⟩

/-! ## The sample gap (R31, R36) -/

theorem exec_sampleGap {s : State} (hp : s.phase ≠ .inReset) (hg : s.wch.gap ≠ none) :
    exec .sampleGapExpiry s = .next (settleStep (sampleGap s)) :=
  (congrArg (running s) (if_neg hg)).trans (running_eq hp)

theorem sampleGap_wch (s : State) :
    (sampleGap s).wch =
      { s.wch with gap := none, recovery := none, window := [], settle := none, activity := .idle } := by
  unfold sampleGap
  dsimp only
  split
  · rw [endWeighing_wch]; rfl
  · rfl

/-- R31, R36: WEIGH is raised, and the sequencer at most returns the bag of the weighing. -/
theorem sampleGap_weigh_hatch_state (s : State) :
    (sampleGap s).csq.holds.weigh = true ∧ (sampleGap s).csq.hatch = s.csq.hatch ∧
    ((sampleGap s).csq.state = .present ∨ (sampleGap s).csq.state = s.csq.state) := by
  unfold sampleGap
  dsimp only
  split
  · exact endWeighing_gap_weigh_hatch_state _
  · exact ⟨rfl, rfl, .inr rfl⟩

/-- R31, R36: while the tag window is open, a weighing only hands its sample gap over. -/
theorem sampleGap_of_tags_open {s : State} (h : s.csq.tagEnded = false) :
    sampleGap s = { s with
      wch := { s.wch with gap := none, recovery := none, window := [], settle := none, activity := .idle }
      csq := { s.csq with
        holds := { s.csq.holds with weigh := true }
        weighSeen := s.csq.weighSeen || (s.csq.state == .check)
        weighed := if s.wch.activity = .settle ∨ s.wch.activity = .weighing then some .gap else s.csq.weighed } } := by
  unfold sampleGap
  dsimp only
  split
  · exact endWeighing_of_tags_open _ h
  · rfl

/-- R8, R26, R40: what follows a sample gap: IDLE gives way to HELD, and the tare interval timer stops. -/
theorem settleStep_sampleGap {s : State} (h : Settled s) :
    settleStep (sampleGap s) =
      let t := if (sampleGap s).csq.state = .idle then enterState .held (sampleGap s) else sampleGap s
      { t with wch := { t.wch with tareInterval := none } } := by
  obtain ⟨hw, hc, hst⟩ := sampleGap_weigh_hatch_state s
  have hhatch : (sampleGap s).csq.state = .idle ∨ (sampleGap s).csq.state.locked = true →
      (sampleGap s).csq.hatch = .closed := by
    obtain ⟨-, -, hs, -⟩ := h
    rcases hst with e | e <;> rw [e, hc]
    · exact fun hl => absurd hl (by decide)
    · exact hs
  rw [settleStep_of_hatch hhatch, judgeHeld_of_raised (isEmpty_of_weigh hw)]
  refine judgeTare_of_weigh ?_ ?_
  · split <;> exact hw
  · split <;> simp [sampleGap_wch]

/-- R31, R34, R36: the sample gap while the tag window is open. -/
theorem exec_sampleGap_of_tags_open {s : State} (hr : Runs s) (hb : s.phase ≠ .badAddress) (hg : s.wch.gap ≠ none)
    (ht : s.csq.tagEnded = false) :
    ∃ t, exec .sampleGapExpiry s = .next t ∧
      t = { s with
        wch := { s.wch with
          gap := none, recovery := none, window := [], settle := none, activity := .idle
          tareInterval := none }
        csq := { s.csq with
          holds := { s.csq.holds with weigh := true }
          weighSeen := s.csq.weighSeen || (s.csq.state == .check)
          weighed := if s.wch.activity = .settle ∨ s.wch.activity = .weighing then some .gap else s.csq.weighed
          state := if s.csq.state = .idle then .held else s.csq.state
          lock := if s.csq.state = .idle then .low else s.csq.lock }
        lms := t.lms } := by
  refine ⟨_, exec_sampleGap hr.1 hg, ?_⟩
  rw [settleStep_sampleGap hr.2, sampleGap_of_tags_open ht]
  by_cases hi : s.csq.state = .idle
  · simp [hi, enterState, refreshLamps, lockLine, hr.1, hb]
  · simp [hi]

/-- R31, R40: the sample gap, whatever it ends. -/
theorem exec_sampleGap_wch_weigh {s : State} (hr : Runs s) (hg : s.wch.gap ≠ none) :
    ∃ t, exec .sampleGapExpiry s = .next t ∧
      t.wch = { s.wch with
        gap := none, recovery := none, window := [], settle := none, activity := .idle, tareInterval := none } ∧
      t.csq.holds.weigh = true := by
  refine ⟨_, exec_sampleGap hr.1 hg, ?_⟩
  rw [settleStep_sampleGap hr.2]
  dsimp only
  split <;> exact ⟨by simp [sampleGap_wch], (sampleGap_weigh_hatch_state s).1⟩

/-! ## The recovery (R32) -/

theorem exec_weighRecovery {s : State} (hp : s.phase ≠ .inReset) (hr : s.wch.recovery ≠ none) :
    exec .weighRecoveryExpiry s = .next (settleStep (weighRecovered s)) :=
  (congrArg (running s) (if_neg hr)).trans (running_eq hp)

/-- R39: where a tare check may run once WEIGH is clear. -/
theorem tareEligible_weighRecovered (s : State) :
    tareEligible (weighRecovered s) = true ↔
      (s.csq.state = .idle ∨ s.csq.state = .held) ∧ s.csq.hatch = .closed ∧ s.rct.homeActive = true := by
  simp [tareEligible, weighRecovered, HoldSet.put, and_assoc]

/-- R8, R11, R39: where the recovery clears WEIGH, HELD may give way to IDLE, and the tare interval starts where it
may. -/
theorem settleStep_weighRecovered {s : State} (h : Settled s) (hw : s.csq.holds.weigh = true) :
    settleStep (weighRecovered s) =
      { judgeHeld (weighRecovered s) with wch := { s.wch with
          recovery := none
          tareInterval :=
            if (s.csq.state = .idle ∨ s.csq.state = .held) ∧ s.csq.hatch = .closed ∧ s.rct.homeActive = true then
              some 2000
            else s.wch.tareInterval } } := by
  obtain ⟨ha, ht⟩ := h.no_tare_of_weigh hw
  obtain ⟨-, -, hhatch, -⟩ := h
  rw [settleStep_of_hatch (s := weighRecovered s) hhatch,
    judgeTare_of_stopped (by rw [judgeHeld_wch]; exact ha) (by rw [judgeHeld_wch]; exact ht)]
  simp only [tareEligible_judgeHeld, tareEligible_weighRecovered, judgeHeld_wch, ht]
  rfl

/-- R11, R32: the state, the lock and the lamps where the recovery clears WEIGH. -/
theorem judgeHeld_weighRecovered {s : State} (h : Settled s) (hw : s.csq.holds.weigh = true) :
    judgeHeld (weighRecovered s) =
      if s.csq.state = .held ∧ (weighRecovered s).csq.holds.isEmpty = true then enterState .idle (weighRecovered s)
      else weighRecovered s := by
  obtain ⟨hidle, -⟩ := h
  refine judgeHeld_of_not_idle (s := weighRecovered s) fun e => ?_
  exact absurd (hidle e) (by simp [isEmpty_of_weigh hw])

/-- R32: where WEIGH is clear already, the expiry only stops the timer. -/
theorem settleStep_weighRecovered_of_clear {s : State} (h : Settled s) (hw : s.csq.holds.weigh = false) :
    settleStep (weighRecovered s) = { s with wch := { s.wch with recovery := none } } := by
  have e : weighRecovered s = { s with wch := { s.wch with recovery := none } } := by
    simp [weighRecovered, clearHold, HoldSet.put, ← hw]
  rw [e]
  exact settleStep_of_settled (h.congr rfl rfl rfl rfl Iff.rfl rfl)

/-! ## The tare interval (R39) -/

/-- R39: the timer that runs out was running, so a check may run, and now is in progress. -/
theorem settled_tareBegins {s : State} (h : Settled s) (ht : s.wch.tareInterval ≠ none) : Settled (tareBegins s) := by
  obtain ⟨hidle, hheld, hhatch, -, hno⟩ := h
  have he : tareEligible s = true := by
    by_contra hn
    exact ht (hno (by simpa using hn)).2
  exact ⟨hidle, hheld, hhatch, fun _ => iff_of_true rfl rfl, fun hn => absurd (he.symm.trans hn) (by decide)⟩

/-! ## The timers of the channel -/

/-- Settles O29, timer by timer: the sample gap (R31, R36), a sample taken (R31, R32), the recovery (R32), the tare
interval (R39, R40) and the settle timer (R34). -/
theorem weighTimers : Obligations.WeighTimers := by
  intro s hr hb
  have ⟨hp, hs⟩ := hr
  refine ⟨exec_sampleGap_of_tags_open hr hb, exec_sampleGap_wch_weigh hr, fun b first hf => ?_, fun hrec => ?_,
    fun hw => ?_, fun ht ha => ?_, fun ht => ?_⟩
  · obtain ⟨t, ht, hk⟩ := exec_sample_timers hp b hf
    exact ⟨t, ht, hk.gap, hk.recovery⟩
  · refine ⟨_, exec_weighRecovery hp hrec, ?_⟩
    cases hw : s.csq.holds.weigh with
    | false =>
      rw [settleStep_weighRecovered_of_clear hs hw]
      obtain ⟨-, hheld, -⟩ := hs
      refine ⟨rfl, by simp, rfl, by simp [← hw], fun h => ?_, fun _ => rfl, fun _ => ⟨rfl, rfl⟩,
        fun h => absurd rfl h⟩
      simp [h, hheld h]
    | true =>
      rw [settleStep_weighRecovered hs hw, judgeHeld_weighRecovered hs hw]
      split
      · next hc =>
        obtain ⟨hh, he⟩ := hc
        have hl : lockLine s.phase .idle = .high := by simp [lockLine, hp, hb]
        refine ⟨rfl, by simp, rfl, rfl, fun _ => (if_pos he).symm, fun h => absurd hh h, fun h => ?_, fun _ => hl⟩
        cases h.trans hh
      · next hc =>
        exact ⟨rfl, by simp, rfl, rfl, fun h => h.trans (if_neg fun he => hc ⟨h, he⟩).symm, fun _ => rfl,
          fun _ => ⟨rfl, rfl⟩, fun h => absurd rfl h⟩
  · obtain ⟨-, ht⟩ := hs.no_tare_of_weigh hw
    exact (congrArg (running s) (if_pos ht)).trans (running_self hr)
  · exact (congrArg (running s) (if_neg ht)).trans
      (running_of_settled hp (hs.congr rfl rfl rfl rfl (by simp [settleOver, ha]) rfl))
  · exact (congrArg (running s) (if_neg ht)).trans (running_of_settled hp (settled_tareBegins hs ht))

end Sys2Proof.Machine
end

section
/-! PROOFS. The lamps: what every operation does to the READY lamp and its dimming timer (R184), and the ends of the
accepted-lamp timer, the READY dimming timer, a flash half and a row time (R23, R181, R182). -/

namespace Sys2Proof.Machine

/-! ## The READY lamp from one state to another (R184) -/

/-- From s to t neither the sequencer's state nor the READY dimming timer nor the READY lamp has changed. -/
structure ReadyKept (s t : State) : Prop where
  state : t.csq.state = s.csq.state
  timer : t.lms.readyTimer = s.lms.readyTimer
  mode : t.lms.modes.ready = s.lms.modes.ready

/-- R184: the dimming timer and the READY lamp as the entry to the state of t sets them. -/
structure ReadyEntered (t : State) : Prop where
  timer : t.lms.readyTimer = if t.csq.state = .idle then some 300000 else none
  mode : t.lms.modes.ready = if t.csq.state = .idle then .full else .off

/-- From s to t the READY lamp has stayed, or a state has been entered from another state than IDLE. -/
inductive ReadyStep (s t : State) : Prop where
  | kept (h : ReadyKept s t)
  | entered (hn : s.csq.state ≠ .idle) (h : ReadyEntered t)

/-- R184: from s to t the READY lamp has stayed, or a state has been entered, and it is not IDLE where s is in IDLE. -/
inductive ReadyFollows (s t : State) : Prop where
  | kept (h : ReadyKept s t)
  | entered (h : ReadyEntered t) (hn : s.csq.state = .idle → t.csq.state ≠ .idle)

/-- R184: between steps the dimming timer is stopped outside IDLE, and the READY lamp is as Table 10-2 gives. -/
structure ReadyRight (s : State) : Prop where
  timer : s.csq.state ≠ .idle → s.lms.readyTimer = none
  mode : s.lms.modes.ready = lampMode s .ready

theorem ReadyKept.refl (s : State) : ReadyKept s s := ⟨rfl, rfl, rfl⟩

theorem ReadyKept.trans {s t u : State} (h : ReadyKept s t) (k : ReadyKept t u) : ReadyKept s u :=
  ⟨k.state.trans h.state, k.timer.trans h.timer, k.mode.trans h.mode⟩

theorem ReadyKept.after {s t u : State} (k : ReadyKept t u) (h : ReadyKept s t) : ReadyKept s u := h.trans k

theorem ReadyKept.of_lms {s t : State} (hs : t.csq.state = s.csq.state) (hl : t.lms = s.lms) : ReadyKept s t :=
  ⟨hs, by rw [hl], by rw [hl]⟩

theorem ReadyKept.not_idle {s t : State} (h : ReadyKept s t) (hn : s.csq.state ≠ .idle) : t.csq.state ≠ .idle := by
  rwa [h.state]

theorem ReadyEntered.of_kept {t u : State} (h : ReadyEntered t) (k : ReadyKept t u) : ReadyEntered u :=
  ⟨by rw [k.timer, k.state, h.timer], by rw [k.mode, k.state, h.mode]⟩

theorem ReadyStep.refl (s : State) : ReadyStep s s := .kept (.refl s)

theorem ReadyStep.trans {s t u : State} (h : ReadyStep s t) (k : ReadyStep t u) : ReadyStep s u := by
  cases h with
  | kept h =>
    cases k with
    | kept k => exact .kept (h.trans k)
    | entered hn k => exact .entered (h.state ▸ hn) k
  | entered hn h =>
    cases k with
    | kept k => exact .entered hn (h.of_kept k)
    | entered _ k => exact .entered hn k

/-- An operation after one that leaves the READY lamp alone. -/
theorem ReadyStep.after {s t u : State} (k : ReadyStep t u) (h : ReadyKept s t) : ReadyStep s u :=
  (ReadyStep.kept h).trans k

/-- A guarded operation: the guard says in which states it is taken. -/
theorem ReadyStep.ite {c : Prop} [Decidable c] {s t u : State} (h : c → ReadyStep s t) (k : ¬ c → ReadyStep s u) :
    ReadyStep s (if c then t else u) := by
  split
  · exact h ‹_›
  · exact k ‹_›

theorem ReadyStep.follows {s t : State} (h : ReadyStep s t) : ReadyFollows s t := by
  cases h with
  | kept h => exact .kept h
  | entered hn h => exact .entered h fun e => absurd e hn

/-- A command that leaves IDLE, if it does, only as its step is judged, follows R184. -/
theorem ReadyStep.trans_follows {s t u : State} (h : ReadyStep s t) (k : ReadyFollows t u) : ReadyFollows s u := by
  cases h with
  | kept h =>
    cases k with
    | kept k => exact .kept (h.trans k)
    | entered k hn => exact .entered k (h.state ▸ hn)
  | entered hn h =>
    cases k with
    | kept k => exact .entered (h.of_kept k) fun e => absurd e hn
    | entered k _ => exact .entered k fun e => absurd e hn

/-! ## Operations that leave the READY lamp alone -/

theorem QueueOp.readyKept {s t : State} (h : QueueOp s t) : ReadyKept s t := .of_lms (by rw [h.csq]) h.lms

theorem JournalOp.readyKept {s t : State} (h : JournalOp s t) : ReadyKept s t := .of_lms (by rw [h.csq]) h.lms

theorem QueueOp.readyStep {s t : State} (h : QueueOp s t) : ReadyStep s t := .kept h.readyKept

theorem JournalOp.readyStep {s t : State} (h : JournalOp s t) : ReadyStep s t := .kept h.readyKept

theorem raiseIfFull_readyKept (s : State) : ReadyKept s (raiseIfFull s) := by
  unfold raiseIfFull
  split <;> exact ⟨rfl, rfl, rfl⟩

theorem raiseJam_readyKept (s : State) : ReadyKept s (raiseJam s) := by
  unfold raiseJam
  split
  · exact .refl s
  · exact ReadyKept.trans (t := raiseHold .jam s) ⟨rfl, rfl, rfl⟩ (askGeneral_op _ _).readyKept

theorem releaseShaft_readyKept (r : ReleaseReason) (s : State) : ReadyKept s (releaseShaft r s) :=
  ReadyKept.trans (t := setView s.straps.shf .free none s) ⟨rfl, rfl, rfl⟩ (queueFrame_op _ _).readyKept

theorem endHoldForFault_readyKept (o : SeqState) (s : State) : ReadyKept s (endHoldForFault o s) := by
  obtain ⟨hc, -, -, -, -, hl, -⟩ := endHoldForFault_spec o s
  exact .of_lms (by rw [hc]) hl

theorem takeOwnLanding_readyKept (s : State) : ReadyKept s (takeOwnLanding s) :=
  (raiseIfFull_readyKept _).after ⟨rfl, rfl, rfl⟩

/-! ## Entries to a state -/

theorem enterState_entered (st : SeqState) (s : State) : ReadyEntered (enterState st s) := by
  refine ⟨rfl, ?_⟩
  rw [show (enterState st s).lms.modes.ready = lampMode (enterState st s) .ready from rfl]
  by_cases h : st = .idle <;> simp [lampMode, h]

theorem enterFault_entered (r : FaultReason) (s : State) : ReadyEntered (enterFault r s) :=
  (enterState_entered .fault _).of_kept ((endHoldForFault_readyKept _ _).trans (askGeneral_op _ _).readyKept)

theorem enterHome_readyStep {s : State} (hn : s.csq.state ≠ .idle) : ReadyStep s (enterHome s) := by
  refine .ite (fun _ => ?_) fun _ => .ite (fun _ => ?_) fun _ => ?_
  · exact .entered hn (enterFault_entered _ _)
  · exact .entered hn (enterState_entered _ _)
  · exact .entered hn ((enterState_entered .home _).of_kept ⟨rfl, rfl, rfl⟩)

theorem returnBag_readyStep (r : ReturnReason) {s : State} (hn : s.csq.state ≠ .idle) :
    ReadyStep s (returnBag r s) := by
  refine .ite (fun _ => .entered hn (enterState_entered _ _)) fun _ => .kept ?_
  have h : ReadyKept s (askBag (returnRecord r s.csq.bag s.straps.shf) { s with csq := { s.csq with
      bag := { s.csq.bag with reason := some r }, claimWait := none, retry := none, awaiting := none } }) :=
    (askBag_op _ _).readyKept.after ⟨rfl, rfl, rfl⟩
  exact h.trans ⟨rfl, rfl, rfl⟩

theorem completeLanding_readyStep {s : State} (hn : s.csq.state ≠ .idle) : ReadyStep s (completeLanding s) := by
  unfold completeLanding
  dsimp only
  set s1 := takeOwnLanding { s with csq := { s.csq with landingSettle := none } }
  set s3 := queueFrame (landedFrame s.csq.bag (ownTally s1) s.straps.shf)
    (askBag (depositRecord s.csq.bag (ownTally s1).count s.straps.shf) s1)
  have k1 : ReadyKept s s1 := (takeOwnLanding_readyKept _).after ⟨rfl, rfl, rfl⟩
  have k3 : ReadyKept s s3 := (k1.trans (askBag_op _ _).readyKept).trans (queueFrame_op _ _).readyKept
  have k4 : ReadyKept s { s3 with csq := { s3.csq with accepted := some 5000 } } := k3.trans ⟨rfl, rfl, rfl⟩
  exact (ReadyStep.kept k4).trans (enterHome_readyStep (k4.not_idle hn))

theorem enterFall_readyStep {s : State} (hn : s.csq.state ≠ .idle) : ReadyStep s (enterFall s) := by
  have h := enterState_entered .fall { s with csq := { s.csq with turnLimit := none } }
  refine .ite (fun _ => ?_) fun _ => .ite (fun _ => ?_) fun _ => ?_
  · exact .entered hn (h.of_kept ⟨rfl, rfl, rfl⟩)
  · exact (ReadyStep.entered hn h).trans (completeLanding_readyStep (by simp))
  · exact .entered hn h

theorem enterTurn_readyStep {s : State} (hn : s.csq.state ≠ .idle) : ReadyStep s (enterTurn s) := by
  unfold enterTurn
  dsimp only
  have h (u : State) (r : Rotor) : ReadyStep s { enterState .turn u with rct := r } :=
    .entered hn ((enterState_entered .turn u).of_kept ⟨rfl, rfl, rfl⟩)
  exact .ite (fun _ => (h _ _).trans (enterFall_readyStep (by simp))) fun _ => h _ _

/-! ## The claim's outcomes (R17 to R19, R27) -/

theorem claimStillSought_not_idle {s : State} (h : claimStillSought s = true) : s.csq.state ≠ .idle := by
  simp only [claimStillSought, Bool.and_eq_true, beq_iff_eq] at h
  simp [h.1]

theorem takeBusyRefusal_readyStep {s : State} (hn : s.csq.state ≠ .idle) : ReadyStep s (takeBusyRefusal s) := by
  unfold takeBusyRefusal
  split
  · exact (startRetry_op s).readyStep
  · exact returnBag_readyStep _ hn

theorem takeGrant_readyStep {s : State} (hn : s.csq.state ≠ .idle) : ReadyStep s (takeGrant s) := by
  unfold takeGrant
  set s1 := { s with csq := { s.csq with claimWait := none, retry := none, awaiting := none } }
  have k1 : ReadyKept s s1 := ⟨rfl, rfl, rfl⟩
  have k2 : ReadyKept s (releaseShaft .duplicate s1) := k1.trans (releaseShaft_readyKept _ _)
  refine .ite (fun _ => ?_) fun _ => ?_
  · exact (ReadyStep.kept k2).trans (returnBag_readyStep _ (k2.not_idle hn))
  · exact (ReadyStep.kept k1).trans (enterTurn_readyStep hn)

theorem claimOutcome_readyStep (slot : SlotLevels) (s : State) : ReadyStep s (claimOutcome slot s) := by
  have h : ReadyStep s (claimIdle s) := (claimIdle_op s).readyStep
  refine .ite (fun hc => ?_) fun _ => .ite (fun _ => ?_) fun _ => h
  · have hn : (claimIdle s).csq.state ≠ .idle := claimStillSought_not_idle (s := s) hc
    exact h.trans (.ite (fun _ => returnBag_readyStep _ hn) fun _ =>
      .ite (fun _ => takeBusyRefusal_readyStep hn) fun _ => takeGrant_readyStep hn)
  · exact h.trans (.kept (releaseShaft_readyKept _ _))

theorem claimBack_readyStep {back : State → State} {s : State} (hb : QueueOp s (back s)) :
    ReadyStep s (claimBack back s) := by
  have h : QueueOp s (claimIdle (withdrawClaim s)) := (withdrawClaim_op s).trans (claimIdle_op _)
  refine .ite (fun hc => ?_) fun _ => h.readyStep
  split
  · exact hb.readyStep
  · exact h.readyStep.trans (returnBag_readyStep _ (h.readyKept.not_idle (claimStillSought_not_idle hc)))

theorem claimDropped_readyStep (s : State) : ReadyStep s (claimDropped s) := by
  have h : ReadyStep s (claimIdle s) := (claimIdle_op s).readyStep
  exact .ite (fun hc => h.trans (takeBusyRefusal_readyStep (claimStillSought_not_idle (s := s) hc))) fun _ => h

theorem abandonClaim_readyStep (c : AwaitCause) {s : State} (hn : s.csq.state ≠ .idle) :
    ReadyStep s (abandonClaim c s) := by
  have h := giveUpClaim_op s
  exact .ite (fun _ => .kept ⟨rfl, rfl, rfl⟩) fun _ =>
    h.readyStep.trans (returnBag_readyStep _ (h.readyKept.not_idle hn))

theorem spacingOver_op (s : State) : QueueOp s (spacingOver s) := by
  unfold spacingOver
  split
  · split
    · exact queueClaim_op _ s
    · exact setClaimPhase_op _ _ s
  · exact setClaimPhase_op _ _ s

/-! ## The check order (R12, R13) -/

theorem enterClaim_readyStep {s : State} (hn : s.csq.state ≠ .idle) : ReadyStep s (enterClaim s) :=
  (ReadyStep.entered hn (enterState_entered .claim _)).trans (requestClaim_op _ _).readyStep

theorem checkRules_readyStep (mass : Nat) (overRange unstable : Bool) {s : State} (hn : s.csq.state ≠ .idle) :
    ReadyStep s (checkRules mass overRange unstable s) := by
  refine .ite (fun _ => .entered hn (enterState_entered _ s)) fun _ =>
    .ite (fun _ => returnBag_readyStep _ hn) fun _ => .ite (fun _ => returnBag_readyStep _ hn) fun _ => ?_
  split
  · refine .ite (fun _ => returnBag_readyStep _ hn) fun _ => .ite (fun _ => returnBag_readyStep _ hn) fun _ => ?_
    exact (enterClaim_readyStep (by exact hn)).after ⟨rfl, rfl, rfl⟩
  · exact returnBag_readyStep _ hn
  · exact returnBag_readyStep _ hn

theorem checkOrder_readyStep (w : WeighOutcome) {s : State} (hn : s.csq.state ≠ .idle) :
    ReadyStep s (checkOrder w s) := by
  refine ReadyStep.trans (t := { s with csq := { s.csq with
    weighed := none, tagEnded := false
    bag := fillBag s.csq.bag w s.tgi.readSet s.tgi.firstRead } }) (.kept ⟨rfl, rfl, rfl⟩) ?_
  cases w with
  | gap => exact returnBag_readyStep _ hn
  | weighed mass overRange unstable =>
    exact .ite (fun _ => returnBag_readyStep _ hn) fun _ => checkRules_readyStep _ _ _ hn

theorem judgeCheckEnd_readyStep (s : State) : ReadyStep s (judgeCheckEnd s) := by
  refine .ite (fun ⟨hc, _⟩ => ?_) fun _ => .refl s
  split
  · exact .refl s
  · exact checkOrder_readyStep _ (by simp [hc])

/-! ## The weigh channel (R30 to R43) -/

theorem endWeighing_readyStep (o : WeighOutcome) (s : State) : ReadyStep s (endWeighing o s) :=
  (judgeCheckEnd_readyStep _).after ⟨rfl, rfl, rfl⟩

theorem weighWindow_readyStep (w : List W16) (s : State) : ReadyStep s (weighWindow w s) :=
  .ite (fun _ => endWeighing_readyStep _ s) fun _ => .kept ⟨rfl, rfl, rfl⟩

theorem tareWindow_readyStep (w : List W16) (s : State) : ReadyStep s (tareWindow w s) := by
  refine .ite (fun _ => .ite (fun _ => ?_) fun _ => ?_) fun _ => .ite (fun _ => ?_) fun _ => ?_
  · exact .kept ⟨rfl, rfl, rfl⟩
  · exact .kept ⟨rfl, rfl, rfl⟩
  · exact (askGeneral_op _ _).readyStep.after ⟨rfl, rfl, rfl⟩
  · exact .kept ⟨rfl, rfl, rfl⟩

theorem gatherSample_readyStep (v : W16) (s : State) : ReadyStep s (gatherSample v s) := by
  have hj : ReadyStep s (sampleJoined v s) := .kept ⟨rfl, rfl, rfl⟩
  unfold gatherSample
  dsimp only
  split
  · exact .ite (fun _ => hj.trans (weighWindow_readyStep _ _)) fun _ => hj
  · exact .ite (fun _ => hj.trans (tareWindow_readyStep _ _)) fun _ => hj
  · exact .refl s
  · exact .refl s

theorem weighByte_readyStep (b : Byte) (framingError late : Bool) (s : State) :
    ReadyStep s (weighByte b framingError late s) := by
  refine .ite (fun _ => .kept ⟨rfl, rfl, rfl⟩) fun _ => ?_
  split
  · exact .kept ⟨rfl, rfl, rfl⟩
  · exact .ite (fun _ => .kept ⟨rfl, rfl, rfl⟩) fun _ =>
      (gatherSample_readyStep _ _).after ⟨rfl, rfl, rfl⟩

theorem sampleGap_readyStep (s : State) : ReadyStep s (sampleGap s) :=
  .ite (fun _ => (endWeighing_readyStep _ _).after ⟨rfl, rfl, rfl⟩) fun _ => .kept ⟨rfl, rfl, rfl⟩

theorem tagWindowEnds_readyStep (s : State) : ReadyStep s (tagWindowEnds s) :=
  (judgeCheckEnd_readyStep _).after ⟨rfl, rfl, rfl⟩

/-! ## The hatch (R8, R9, R12) -/

theorem requestWeighing_readyKept (s : State) : ReadyKept s (requestWeighing s) := by
  unfold requestWeighing
  split <;> exact ⟨rfl, rfl, rfl⟩

theorem hatchCloses_readyStep (s : State) : ReadyStep s (hatchCloses s) := by
  refine .ite (fun h => ?_) fun _ => .kept ⟨rfl, rfl, rfl⟩
  exact .entered (by simpa using ne_of_eq_of_ne h (by decide))
    ((enterState_entered .check _).of_kept ((requestWeighing_readyKept _).trans ⟨rfl, rfl, rfl⟩))

/-! ## The drum and the landing beam (R7, R20 to R22, R67 to R82) -/

theorem reverseTravel_readyStep (s : State) : ReadyStep s (reverseTravel s) := by
  refine .ite (fun h => .entered ?_ (enterFault_entered _ _)) fun _ => .kept ⟨rfl, rfl, rfl⟩
  rcases h with h | h <;> simp [h]

theorem encoderError_readyStep (s : State) : ReadyStep s (encoderError s) := by
  refine .ite (fun h => .entered ?_ (enterFault_entered _ _)) fun _ => .kept ⟨rfl, rfl, rfl⟩
  rcases h with h | h | h <;> simp [h]

theorem compareDrop_readyStep (s : State) : ReadyStep s (compareDrop s) := by
  refine .ite (fun _ => .ite (fun h => ?_) fun _ => .kept ⟨rfl, rfl, rfl⟩) fun _ => .refl s
  exact (enterFall_readyStep (by simp [h])).after ⟨rfl, rfl, rfl⟩

theorem encoderSample_readyStep (p : EncPair) (s : State) : ReadyStep s (encoderSample p s) := by
  have h : ReadyStep s { s with rct := { s.rct with encRef := p } } := .kept ⟨rfl, rfl, rfl⟩
  refine .ite (fun _ => .refl s) fun _ => .ite (fun _ => ?_) fun _ => .ite (fun _ => ?_) fun _ => ?_
  · exact (compareDrop_readyStep _).after ⟨rfl, rfl, rfl⟩
  · exact h.trans (.ite (fun _ => .refl _) fun _ => encoderError_readyStep _)
  · exact .ite (fun _ => (reverseTravel_readyStep _).after ⟨rfl, rfl, rfl⟩)
      fun _ => (compareDrop_readyStep _).after ⟨rfl, rfl, rfl⟩

theorem homeSwitchOn_readyStep (s : State) : ReadyStep s (homeSwitchOn s) := by
  refine .ite (fun _ => .ite (fun h => ?_) fun _ => .kept ⟨rfl, rfl, rfl⟩) fun _ => .kept ⟨rfl, rfl, rfl⟩
  exact .entered (by simp [h]) (enterState_entered _ _)

theorem ownLanding_readyKept (s : State) : ReadyKept s (ownLanding s) := by
  unfold ownLanding furtherLanding
  dsimp only
  split
  · split
    · exact ⟨rfl, rfl, rfl⟩
    · split <;> exact ⟨rfl, rfl, rfl⟩
  · exact ⟨rfl, rfl, rfl⟩

theorem attributeLanding_readyKept (s : State) : ReadyKept s (attributeLanding s) := by
  unfold attributeLanding
  split
  · split
    · exact ownLanding_readyKept s
    · exact .refl s
  · exact (askGeneral_op _ _).readyKept
  · exact (askGeneral_op _ _).readyKept

theorem beamBreaks_readyStep (s : State) : ReadyStep s (beamBreaks s) :=
  .ite (fun _ => .kept ((attributeLanding_readyKept _).after ⟨rfl, rfl, rfl⟩)) fun _ => .kept ⟨rfl, rfl, rfl⟩

theorem fallWindowOver_readyStep {s : State} (hn : s.csq.state ≠ .idle) : ReadyStep s (fallWindowOver s) := by
  unfold fallWindowOver
  dsimp only
  set bag : PendingBag := { s.csq.bag with fall := 0xFFFF, flags := { s.csq.bag.flags with notLanded := true } }
  set s1 : State := { s with csq := { s.csq with bag := bag, fallWindow := none } }
  set s2 := askBag (depositRecord bag (ownTally s).count s.straps.shf) s1
  have k2 : ReadyKept s s2 := ReadyKept.trans (t := s1) ⟨rfl, rfl, rfl⟩ (askBag_op _ _).readyKept
  have k3 : ReadyKept s (setView s.straps.shf .jammed none s2) := k2.trans ⟨rfl, rfl, rfl⟩
  have k4 := (k3.trans (queueFrame_op (.jam s.straps.shf) _).readyKept).trans (raiseJam_readyKept _)
  exact (ReadyStep.kept k4).trans (enterHome_readyStep (k4.not_idle hn))

theorem settleTimeOver_readyStep (s : State) : ReadyStep s (settleTimeOver s) :=
  .ite (fun h => completeLanding_readyStep (by simp [h])) fun _ => .kept ⟨rfl, rfl, rfl⟩

/-! ## Start-up and supply (R174, R178) -/

theorem foldl_askGeneral_readyKept (reqs : List RecordReq) (s : State) :
    ReadyKept s (reqs.foldl (fun t req => askGeneral req t) s) := by
  induction reqs generalizing s with
  | nil => exact .refl s
  | cons req reqs ih => exact (askGeneral_op req s).readyKept.trans (ih _)

theorem scanRebuild_readyKept (s : State) : ReadyKept s (scanRebuild s) :=
  (raiseIfFull_readyKept _).after (.of_lms (by simp) (by simp))

theorem stageStart_readyKept (s : State) : ReadyKept s (stageStart s) :=
  (foldl_askGeneral_readyKept _ _).after ((askGeneral_op _ _).readyKept.after ⟨rfl, rfl, rfl⟩)

theorem endScan_readyStep {s : State} (hn : s.csq.state ≠ .idle) : ReadyStep s (endScan s) := by
  have k1 : ReadyKept s (judgeFull { scanRebuild s with phase := .service }) :=
    (scanRebuild_readyKept s).trans ⟨rfl, rfl, rfl⟩
  have k2 : ReadyKept s (joinLink (stageStart (giveArray (judgeFull { scanRebuild s with phase := .service })))) :=
    ((k1.trans (giveArray_op _).readyKept).trans (stageStart_readyKept _)).trans ⟨rfl, rfl, rfl⟩
  exact (ReadyStep.kept k2).trans (enterHome_readyStep (k2.not_idle hn))

theorem powerInClaim_readyStep (s : State) : ReadyStep s (powerInClaim s) := by
  refine .ite (fun ⟨hc, _⟩ => ?_) fun _ => .refl s
  split
  · exact .kept ⟨rfl, rfl, rfl⟩
  · exact .refl s
  · exact abandonClaim_readyStep _ (by simp [hc])

theorem warnEffect_readyStep (s : State) : ReadyStep s (warnEffect s) :=
  (powerInClaim_readyStep _).after ((askGeneral_op _ _).readyKept.after ⟨rfl, rfl, rfl⟩)

theorem restoredEffect_readyStep (s : State) : ReadyStep s (restoredEffect s) :=
  ((askGeneral_op _ _).trans (giveArray_op _)).readyStep.after ⟨rfl, rfl, rfl⟩

/-! ## The flash array's completions (R152 to R158) -/

theorem waitsForReturn_not_idle {s : State} (h : waitsForReturn s = true) : s.csq.state ≠ .idle := by
  simp only [waitsForReturn, Bool.and_eq_true, Bool.or_eq_true, beq_iff_eq] at h
  obtain ⟨-, h | h⟩ := h <;> simp [h]

theorem stageDeferred_readyStep (s : State) : ReadyStep s (stageDeferred s) := by
  unfold stageDeferred
  split
  · exact .refl s
  · refine .ite (fun _ => .ite (fun h => ?_) fun _ => .kept ?_) fun _ => .refl s
    · exact .entered (waitsForReturn_not_idle h) (enterState_entered _ _)
    · split <;> exact ⟨rfl, rfl, rfl⟩

theorem programDone_readyStep (s : State) : ReadyStep s (programDone s) := by
  unfold programDone
  split
  · exact .refl s
  · next r rest _ =>
    have h : ReadyStep s (stageDeferred (recordWritten r rest s)) :=
      (stageDeferred_readyStep _).after ⟨rfl, rfl, rfl⟩
    exact h.trans (((judgeBusy_op _).trans (judgeFull_op _)).trans (giveArray_op _)).readyStep

/-! ## The link lines (R89 to R107) -/

theorem asTransmitter_readyStep {f : TxEntry → State → State} {s : State} (hf : ∀ e, ReadyStep s (f e s)) :
    ReadyStep s (asTransmitter f s) := by
  refine .ite (fun _ => ?_) fun _ => .refl s
  split
  · exact hf _
  · exact .refl s

theorem readZero_readyStep (e : TxEntry) (s : State) : ReadyStep s (readZero e s) := by
  unfold readZero
  split
  · refine .ite (fun _ => ?_) fun _ => .refl s
    exact .ite (fun _ => (claimBack_readyStep (queuedAfterLoss_op _)).after ⟨rfl, rfl, rfl⟩)
      fun _ => .kept ⟨rfl, rfl, rfl⟩
  · exact .refl s
  · exact .refl s
  · exact .refl s

theorem readAsSent_readyStep (more : List Bool) (e : TxEntry) (s : State) : ReadyStep s (readAsSent more e s) := by
  unfold readAsSent
  split
  · exact .ite (fun _ => .kept ⟨rfl, rfl, rfl⟩) fun _ => .refl s
  · exact .refl s
  · exact .refl s
  · exact .refl s

theorem abandonFrame_readyStep (e : TxEntry) (s : State) : ReadyStep s (abandonFrame e s) := by
  refine ReadyStep.trans (t := entryBack (toReceiving .absent s)) (.kept ⟨rfl, rfl, rfl⟩) ?_
  refine .ite (fun _ => .ite (fun _ => ?_) fun _ => ?_) fun _ => .ite (fun _ => ?_) fun _ => ?_
  · exact (claimBack_readyStep (judgeBack_op _)).after ⟨rfl, rfl, rfl⟩
  · exact .kept ⟨rfl, rfl, rfl⟩
  · exact (claimDropped_readyStep _).after ⟨rfl, rfl, rfl⟩
  · exact .kept ⟨rfl, rfl, rfl⟩

theorem completeFrame_readyStep (slot : SlotLevels) (e : TxEntry) (s : State) :
    ReadyStep s (completeFrame slot e s) := by
  refine ReadyStep.trans (t := { entryBack (toSettling s) with lkc := (entryBack (toSettling s)).lkc.without e.age })
    (.kept ⟨rfl, rfl, rfl⟩) ?_
  unfold completeFrame reportCompleted
  dsimp only
  split
  · exact claimOutcome_readyStep _ _
  · exact .kept ⟨rfl, rfl, rfl⟩
  all_goals exact .refl _

theorem foreignStartMark_readyStep (s : State) : ReadyStep s (foreignStartMark s) := by
  have h (r : Reception) : ReadyStep s (toReceiving r (judgeLost s)) :=
    (judgeLost_op s).readyStep.trans (.kept ⟨rfl, rfl, rfl⟩)
  unfold foreignStartMark
  split
  · exact .refl s
  · exact h _
  · exact h _
  · exact h _
  · exact asTransmitter_readyStep (abandonFrame_readyStep · s)

theorem linkBecomesFree_readyStep (s : State) : ReadyStep s (linkBecomesFree s) :=
  (startIfFree_op _).readyStep.after ((judgeLost_op s).readyKept.trans ⟨rfl, rfl, rfl⟩)

theorem holdIfFull_readyStep (kind source dest : Byte) (rest : List Byte) (s : State) :
    ReadyStep s (holdIfFull kind source dest rest s) := by
  refine .ite (fun _ => ?_) fun _ => .refl s
  dsimp only
  split
  · exact .ite (fun _ => .kept ⟨rfl, rfl, rfl⟩) fun _ => .refl s
  · exact .ite (fun _ => .kept ⟨rfl, rfl, rfl⟩) fun _ => .refl s
  · exact .refl s
  · exact .refl s

theorem takeBits_readyStep (more : List Bool) (s : State) : ReadyStep s (takeBits more s) := by
  unfold takeBits
  split
  · unfold receiveBits
    split
    · exact .kept ⟨rfl, rfl, rfl⟩
    · exact .refl s
  · exact asTransmitter_readyStep (readAsSent_readyStep more · s)
  all_goals exact .refl s

theorem takeCleanSlot_readyStep (shaft source : Byte) (slot : SlotLevels) (s : State) :
    ReadyStep s (takeCleanSlot shaft source slot s) := by
  unfold takeCleanSlot
  split
  · exact .refl s
  · exact .ite (fun _ => (watchClaim_op _ _).readyStep.after ⟨rfl, rfl, rfl⟩) fun _ => .refl s

theorem judgeClash_readyKept (j : Judged) (s : State) : ReadyKept s (judgeClash j s) := by
  unfold judgeClash
  split <;> exact ⟨rfl, rfl, rfl⟩

theorem pushRx_readyKept (m : Option RxMsg) (s : State) : ReadyKept s (pushRx m s) := by
  unfold pushRx
  split <;> exact ⟨rfl, rfl, rfl⟩

theorem completeReception_readyStep (j : Judged) (others : SlotLevels) (s : State) :
    ReadyStep s (completeReception j others s) := by
  have h : ReadyStep s (pushRx j.take (judgeClash j (toSettling s))) :=
    .kept ((pushRx_readyKept _ _).after ((judgeClash_readyKept j _).after ⟨rfl, rfl, rfl⟩))
  unfold completeReception
  dsimp only
  split
  · exact h
  · exact h.trans (takeCleanSlot_readyStep _ _ _ _)

theorem endMarkSeen_readyStep (slot : Option SlotLevels) (s : State) : ReadyStep s (endMarkSeen slot s) := by
  unfold endMarkSeen
  split
  · exact completeReception_readyStep _ _ s
  · exact .kept ⟨rfl, rfl, rfl⟩

/-! ## The frames taken from the receive queue (R25, R28, R59, R128 to R134, R141, R161, R163) -/

/-- A frame at the head of the receive queue, taken. -/
theorem takeRx_readyStep {s t : State} (h : ReadyStep (takeRx s) t) : ReadyStep s t :=
  (takeRx_op s).readyStep.trans h

theorem jamView_readyKept (s : State) (i : Fin 4) : ReadyKept s (jamView s i) := by
  unfold jamView
  split <;> exact ⟨rfl, rfl, rfl⟩

theorem freeView_readyKept (i : Fin 4) (s : State) : ReadyKept s (freeView i s) := by
  unfold freeView
  split <;> exact ⟨rfl, rfl, rfl⟩

theorem takeJam_readyStep (shaft : Byte) (s : State) : ReadyStep s (takeJam shaft s) := by
  unfold takeJam
  split
  · exact .refl s
  · next i _ =>
    have h : ReadyStep s (jamView s i) := .kept (jamView_readyKept s i)
    exact ReadyStep.trans (.ite (fun _ => h.trans (.kept (raiseJam_readyKept _))) fun _ => h)
      (watchClaim_op _ _).readyStep

theorem mergeLanding_readyStep (i : Fin 4) (mass count : W16) (binMass : W32) (s : State) :
    ReadyStep s (mergeLanding i mass count binMass s) := by
  have h (t : Tally) : ReadyStep s (setTally i t (freeView i s)) :=
    .kept ((freeView_readyKept i s).trans ⟨rfl, rfl, rfl⟩)
  exact ReadyStep.trans (.ite (fun _ => (h _).trans (.kept (raiseIfFull_readyKept _))) fun _ => h _)
    (watchClaim_op _ _).readyStep

theorem takeLanded_readyStep (shaft : Byte) (serial : W32) (mass count : W16) (binMass : W32) (s : State) :
    ReadyStep s (takeLanded shaft serial mass count binMass s) := by
  have h : ReadyStep s (giveSerial serial s) := .kept ⟨rfl, rfl, rfl⟩
  unfold takeLanded
  dsimp only
  split
  · exact h
  · exact h.trans (mergeLanding_readyStep _ _ _ _ _)

theorem takeRelease_readyStep (shaft : BitVec 4) (s : State) : ReadyStep s (takeRelease shaft s) := by
  unfold takeRelease
  split
  · exact .refl s
  · exact (ReadyStep.kept (freeView_readyKept _ s)).trans (watchClaim_op _ _).readyStep

theorem closeActions_readyStep (night : W16) (detail : Byte) (nck : NightClock) (s : State) :
    ReadyStep s (closeActions night detail nck s) :=
  (askGeneral_op _ _).readyStep.after ⟨rfl, rfl, rfl⟩

theorem judgeSync_readyStep (offered : W32) (night : W16) (senderSynced : Bool) (s : State) :
    ReadyStep s (judgeSync offered night senderSynced s) :=
  .ite (fun _ => .ite (fun _ => closeActions_readyStep _ _ _ _) fun _ => .refl s) fun _ =>
    .ite (fun _ => .kept ⟨rfl, rfl, rfl⟩) fun _ => (queueSync_op s).readyStep

theorem takeSync_readyStep (elapsed clock : W32) (night : W16) (flag : Byte) (s : State) :
    ReadyStep s (takeSync elapsed clock night flag s) :=
  .ite (fun _ => (judgeSync_readyStep _ _ _ s).trans (.kept ⟨rfl, rfl, rfl⟩)) fun _ => .refl s

theorem takeClear_readyStep {own : Byte} {effect : Byte → State → State}
    (he : ∀ index s, ReadyStep s (effect index s)) (s : State) : ReadyStep s (takeClear own effect s) := by
  unfold takeClear
  split
  · exact .ite (fun _ => takeRx_readyStep (he _ _)) fun _ =>
      .ite (fun _ => (takeRx_op s).readyStep) fun _ => .refl s
  · exact .refl s

theorem clearShaftAt_readyStep (index : Byte) (s : State) : ReadyStep s (clearShaftAt index s) := by
  unfold clearShaftAt
  dsimp only
  split
  · exact .refl s
  · next i _ =>
    set s1 := if s.shc.views.get i = .jammed then setView i .free none s else s with h1
    have k1 : ReadyKept s s1 := by
      rw [h1]
      split <;> exact ⟨rfl, rfl, rfl⟩
    refine (watchClaim_op _ _).readyStep.after ?_
    split
    · exact (askGeneral_op _ _).readyKept.after (k1.trans ⟨rfl, rfl, rfl⟩)
    · exact k1

theorem clearBinAt_readyStep (index : Byte) (s : State) : ReadyStep s (clearBinAt index s) := by
  unfold clearBinAt
  dsimp only
  split
  · exact .refl s
  · refine (watchClaim_op _ _).readyStep.after ?_
    split
    · exact (askGeneral_op _ _).readyKept.after ⟨rfl, rfl, rfl⟩
    · exact ⟨rfl, rfl, rfl⟩

theorem clearStationAt_readyStep (index : Byte) (s : State) : ReadyStep s (clearStationAt index s) := by
  refine .ite (fun ⟨hf, _⟩ => ?_) fun _ => .refl s
  set s1 := askGeneral (clearRecord 3 index s.straps.shf) { s with rct := s.rct.stop }
  have k1 : ReadyKept s s1 :=
    ReadyKept.trans (t := { s with rct := s.rct.stop }) ⟨rfl, rfl, rfl⟩ (askGeneral_op _ _).readyKept
  have hn : s1.csq.state ≠ .idle := k1.not_idle (by simp [hf])
  exact (enterHome_readyStep (by exact hn)).after (k1.trans ⟨rfl, rfl, rfl⟩)

theorem takeHold_readyStep (arg : Byte) (s : State) : ReadyStep s (takeHold arg s) :=
  .ite (fun _ => .refl s) fun _ => (askGeneral_op _ _).readyStep.after ⟨rfl, rfl, rfl⟩

theorem takeAuditMark_readyStep (m : W32) (s : State) : ReadyStep s (takeAuditMark m s) :=
  .ite (fun _ => .refl s) fun _ =>
    ((askGeneral_op _ _).trans (giveArray_op _)).readyStep.after ⟨rfl, rfl, rfl⟩

theorem takeReadJournal_readyStep (req : ReadReq) (s : State) : ReadyStep s (takeReadJournal req s) :=
  .ite (fun _ => (serveRead_op _ _).readyStep) fun _ => .kept ⟨rfl, rfl, rfl⟩

/-! ## The judgements at the end of a step (R8, R11, R26) -/

theorem judgeTare_readyKept (s : State) : ReadyKept s (judgeTare s) := .of_lms (by simp) (by simp)

/-- R8, R11: the hold set takes IDLE to HELD, or HELD to IDLE, or neither. -/
theorem judgeHeld_readyFollows (s : State) : ReadyFollows s (judgeHeld s) := by
  unfold judgeHeld
  split
  · exact .entered (enterState_entered _ s) fun _ => by simp
  · split
    · next h => exact .entered (enterState_entered _ s) fun e => by simp [e] at h
    · exact .kept (.refl s)

/-- R26: a forced hatch is found outside IDLE. -/
theorem judgeHatch_readyStep (s : State) : ReadyStep s (judgeHatch s) := by
  refine .ite (fun h => .entered (fun e => ?_) (enterFault_entered _ s)) fun _ => .refl s
  simp [e, SeqState.locked] at h

/-- R26: what a forced hatch enters is not IDLE. -/
theorem judgeHatch_idle {s : State} (h : (judgeHatch s).csq.state = .idle) : s.csq.state = .idle := by
  unfold judgeHatch at h
  split at h
  · obtain ⟨hf, -⟩ := enterFault_spec .hatchForced s
    cases hf.symm.trans h
  · exact h

theorem settleStep_readyFollows (s : State) : ReadyFollows s (settleStep s) := by
  have hh := judgeHeld_readyFollows s
  have hk : ReadyStep (judgeHeld s) (settleStep s) :=
    (judgeHatch_readyStep _).trans (.kept (judgeTare_readyKept _))
  have hi : (settleStep s).csq.state = .idle → (judgeHeld s).csq.state = .idle := fun e =>
    judgeHatch_idle ((judgeTare_readyKept _).state.symm.trans e)
  cases hk with
  | kept hk =>
    cases hh with
    | kept hh => exact .kept (hh.trans hk)
    | entered hh hn => exact .entered (hh.of_kept hk) fun e => hk.state ▸ hn e
  | entered hn hk => exact .entered hk fun _ e => hn (hi e)

/-! ## The commands -/

/-- A command whose effect leaves IDLE to the judgements at the end of the step. -/
theorem running_readyFollows {r s u t : State} (hx : running r u = .next t) (ht : t.phase ≠ .inReset)
    (h : ReadyStep s u) : ReadyFollows s t := by
  by_cases hp : r.phase = .inReset
  · rw [running_inReset hp] at hx
    cases hx
    exact absurd hp ht
  · rw [running_eq hp] at hx
    cases hx
    exact h.trans_follows (settleStep_readyFollows u)

/-- R183: where nothing that READY depends on has changed, the lamps judged again leave it. -/
theorem ReadyRight.accepted_expiry {s : State} (h : ReadyRight s) :
    ReadyKept s (refreshLamps { s with csq := { s.csq with accepted := none } }) := ⟨rfl, rfl, h.mode.symm⟩

/-- R8, R16: a hatch opening takes IDLE and PRESENT to OPEN. -/
theorem exec_hatchOpening_enters {s : State} (hc : s.csq.hatch = .closed)
    (hs : s.csq.state = .idle ∨ s.csq.state = .present) :
    exec .hatchOpening s = running s (enterState .opened { s with csq := { s.csq with hatch := .opened } }) := by
  simp [exec, execHatchOpening, hatchOpens, hc, hs]

/-- R8, R11, R26: the judgements at the end of a step leave OPEN as it has been entered. -/
theorem settleStep_opened_readyKept (s : State) :
    ReadyKept (enterState .opened s) (settleStep (enterState .opened s)) := by
  have he : settleStep (enterState .opened s) = judgeTare (enterState .opened s) := by
    simp [settleStep, judgeHeld, judgeHatch, SeqState.locked]
  rw [he]
  exact judgeTare_readyKept _

theorem exec_hatchOpening_readyFollows {s t : State} (hx : exec .hatchOpening s = .next t)
    (ht : t.phase ≠ .inReset) (hp : s.phase ≠ .inReset) : ReadyFollows s t := by
  by_cases ho : s.csq.hatch = .closed ∧ (s.csq.state = .idle ∨ s.csq.state = .present)
  · obtain ⟨hc, hs⟩ := ho
    rw [exec_hatchOpening_enters hc hs, running_eq hp] at hx
    cases hx
    have k := settleStep_opened_readyKept { s with csq := { s.csq with hatch := .opened } }
    exact .entered ((enterState_entered _ _).of_kept k) fun _ => by simp [k.state]
  · refine running_readyFollows hx ht (.ite (fun hc => ?_) fun _ => .refl s)
    exact .ite (fun hs => absurd ⟨hc, hs⟩ ho) fun _ => .kept ⟨rfl, rfl, rfl⟩

/-- R177, R184: a start that begins leaves the part in START, the dimming timer stopped. -/
theorem exec_start_cases {lines : StartLines} {s t : State} (hx : exec (.start lines) s = .next t) :
    t = s ∨ ReadyEntered t ∧ t.csq.state = .start := by
  cases (show t = _ from (Host.Outcome.next.inj hx).symm)
  split
  · exact .inr ⟨⟨rfl, rfl⟩, rfl⟩
  · exact .inl rfl

/-- R175, R176: out of reset leads a start only, and it leads to START. -/
theorem exec_inReset_entered {c : Instr} {s t : State} (hp : s.phase = .inReset) (hx : exec c s = .next t)
    (ht : t.phase ≠ .inReset) : ReadyEntered t ∧ t.csq.state = .start := by
  have stays {r u : State} (h : r.phase = .inReset) (hu : running r u = .next t) : t.phase = .inReset := by
    cases (running_inReset h).symm.trans hu
    exact h
  cases c with
  | start lines =>
    rcases exec_start_cases hx with rfl | h
    · exact absurd hp ht
    · exact h
  | rstLow => cases hx; exact absurd (holdInReset_phase s) ht
  | rstHigh => cases hx; exact absurd hp ht
  | supplyWarn =>
    simp only [exec, execSupplyWarn] at hx
    split at hx
    · exact absurd (stays (r := setLevel .warn s) hp hx) ht
    · cases hx; exact absurd hp ht
  | supplyCut =>
    simp only [exec, execSupplyCut] at hx
    split at hx
    · cases hx; exact absurd hp ht
    · cases hx; exact absurd (holdInReset_phase _) ht
  | powerLoss => cases hx; exact absurd (losePower_phase s) ht
  | supplyRise =>
    cases (show t = _ from (Host.Outcome.next.inj hx).symm)
    split at ht <;> exact absurd hp ht
  | supplyDip => cases hx; exact absurd hp ht
  | supplyRecoveryExpiry =>
    simp only [exec, execSupplyRecoveryExpiry] at hx
    split at hx
    · cases hx; exact absurd hp ht
    · split at hx
      · exact absurd (stays (r := setLevel .normal s) hp hx) ht
      · cases hx; exact absurd hp ht
  | _ => exact absurd (stays hp hx) ht

/-- R184: over every command but the expiry of the dimming timer itself, the READY lamp stays or follows the entry to
a state. -/
theorem exec_readyFollows {c : Instr} {s t : State} (hst : s.csq.state = .start ↔ s.phase ≠ .service)
    (hr : ReadyRight s) (hp : s.phase ≠ .inReset) (hc : c ≠ .readyDimmingExpiry) (hx : exec c s = .next t)
    (ht : t.phase ≠ .inReset) : ReadyFollows s t := by
  cases c with
  | start lines =>
    rcases exec_start_cases hx with rfl | ⟨h, hs⟩
    · exact .kept (.refl _)
    · exact .entered h fun _ => by simp [hs]
  | scanComplete =>
    refine running_readyFollows hx ht (.ite (fun hp => endScan_readyStep ?_) fun _ => .refl s)
    rw [hst.2 (by simp [hp])]
    decide
  | rstLow => cases hx; exact absurd (holdInReset_phase s) ht
  | rstHigh => cases hx; exact .kept ⟨rfl, rfl, rfl⟩
  | supplyWarn =>
    simp only [exec, execSupplyWarn] at hx
    split at hx
    · exact running_readyFollows hx ht ((warnEffect_readyStep _).after ⟨rfl, rfl, rfl⟩)
    · cases hx; exact .kept (.refl s)
  | supplyCut =>
    simp only [exec, execSupplyCut] at hx
    split at hx
    · cases hx; exact .kept (.refl s)
    · cases hx; exact absurd (holdInReset_phase _) ht
  | powerLoss => cases hx; exact absurd (losePower_phase s) ht
  | supplyRise =>
    cases (show t = _ from (Host.Outcome.next.inj hx).symm)
    exact ReadyStep.follows (.ite (fun _ => .refl s) fun _ => .kept ⟨rfl, rfl, rfl⟩)
  | supplyDip => cases hx; exact .kept ⟨rfl, rfl, rfl⟩
  | supplyRecoveryExpiry =>
    simp only [exec, execSupplyRecoveryExpiry] at hx
    split at hx
    · cases hx; exact .kept (.refl s)
    · split at hx
      · exact running_readyFollows hx ht ((restoredEffect_readyStep _).after ⟨rfl, rfl, rfl⟩)
      · cases hx; exact .kept ⟨rfl, rfl, rfl⟩
  | hatchOpening => exact exec_hatchOpening_readyFollows hx ht hp
  | hatchClosing => exact running_readyFollows hx ht (.ite (fun _ => hatchCloses_readyStep s) fun _ => .refl s)
  | weighByteReceived b framingError late =>
    exact running_readyFollows hx ht (weighByte_readyStep b framingError late s)
  | sampleGapExpiry => exact running_readyFollows hx ht (.ite (fun _ => .refl s) fun _ => sampleGap_readyStep s)
  | weighRecoveryExpiry => exact running_readyFollows hx ht (.ite (fun _ => .refl s) fun _ => .kept ⟨rfl, rfl, rfl⟩)
  | settleTimerExpiry => exact running_readyFollows hx ht (.ite (fun _ => .refl s) fun _ => .kept ⟨rfl, rfl, rfl⟩)
  | tareIntervalExpiry => exact running_readyFollows hx ht (.ite (fun _ => .refl s) fun _ => .kept ⟨rfl, rfl, rfl⟩)
  | tagByteReceived b framingError => exact running_readyFollows hx ht (.kept ⟨rfl, rfl, rfl⟩)
  | byteGapExpiry => exact running_readyFollows hx ht (.ite (fun _ => .refl s) fun _ => .kept ⟨rfl, rfl, rfl⟩)
  | tagWindowExpiry => exact running_readyFollows hx ht (.ite (fun _ => .refl s) fun _ => tagWindowEnds_readyStep s)
  | encoderStep p => exact running_readyFollows hx ht (encoderSample_readyStep p s)
  | invalidTransition => exact running_readyFollows hx ht (encoderSample_readyStep _ s)
  | homeSwitchActive => exact running_readyFollows hx ht (.ite (fun _ => .refl s) fun _ => homeSwitchOn_readyStep s)
  | homeSwitchInactive => exact running_readyFollows hx ht (.kept ⟨rfl, rfl, rfl⟩)
  | deadTimeExpiry => exact running_readyFollows hx ht (.ite (fun _ => .refl s) fun _ => .kept ⟨rfl, rfl, rfl⟩)
  | landingEvent => exact running_readyFollows hx ht (.ite (fun _ => .refl s) fun _ => beamBreaks_readyStep s)
  | beamClear => exact running_readyFollows hx ht (.kept ⟨rfl, rfl, rfl⟩)
  | homeLimitExpiry =>
    refine running_readyFollows hx ht (.ite (fun h => ?_) fun _ => .refl s)
    exact .entered (by simp [h.2]) (enterFault_entered _ s)
  | turnLimitExpiry =>
    refine running_readyFollows hx ht (.ite (fun h => ?_) fun _ => .refl s)
    exact .entered (by simp [h.2]) (enterFault_entered _ s)
  | fallWindowExpiry =>
    exact running_readyFollows hx ht (.ite (fun h => fallWindowOver_readyStep (by simp [h.2])) fun _ => .refl s)
  | landingSettleExpiry =>
    exact running_readyFollows hx ht (.ite (fun _ => .refl s) fun _ => settleTimeOver_readyStep s)
  | claimWaitExpiry =>
    exact running_readyFollows hx ht (.ite (fun h => abandonClaim_readyStep _ (by simp [h.2])) fun _ => .refl s)
  | retryIntervalExpiry =>
    refine running_readyFollows hx ht (.ite (fun _ => ?_) fun _ => .refl s)
    exact (requestClaim_op _ _).readyStep.after ⟨rfl, rfl, rfl⟩
  | acceptedLampExpiry =>
    exact running_readyFollows hx ht (.ite (fun _ => .refl s) fun _ => .kept hr.accepted_expiry)
  | readyDimmingExpiry => exact absurd rfl hc
  | rowTimeExpiry =>
    refine running_readyFollows hx ht ?_
    split
    · exact .refl s
    · exact .kept ⟨rfl, rfl, rfl⟩
  | flashHalfExpiry lamp =>
    exact running_readyFollows hx ht (.ite (fun _ => .kept ⟨rfl, rfl, rfl⟩) fun _ => .refl s)
  | spacingTimerExpiry =>
    exact running_readyFollows hx ht (.ite (fun _ => (spacingOver_op s).readyStep) fun _ => .refl s)
  | lapse i =>
    refine running_readyFollows hx ht (.ite (fun _ => ?_) fun _ => .refl s)
    exact (watchClaim_op _ _).readyStep.after ⟨rfl, rfl, rfl⟩
  | syncTimerExpiry =>
    refine running_readyFollows hx ht (.ite (fun _ => .refl s) fun _ => ?_)
    exact (queueSync_op _).readyStep.after ⟨rfl, rfl, rfl⟩
  | linkFree => exact running_readyFollows hx ht (.ite (fun _ => linkBecomesFree_readyStep s) fun _ => .refl s)
  | startMark => exact running_readyFollows hx ht (.ite (fun _ => .refl s) fun _ => foreignStartMark_readyStep s)
  | holdTheClock kind source dest rest =>
    exact running_readyFollows hx ht (holdIfFull_readyStep kind source dest rest s)
  | checkByte bits => exact running_readyFollows hx ht (takeBits_readyStep bits s)
  | endMark slot => exact running_readyFollows hx ht (.ite (fun _ => endMarkSeen_readyStep slot s) fun _ => .refl s)
  | overlongFrame =>
    refine running_readyFollows hx ht ?_
    split
    · exact .kept ⟨rfl, rfl, rfl⟩
    · exact .refl s
  | frameTimeout => exact running_readyFollows hx ht (.ite (fun _ => .kept ⟨rfl, rfl, rfl⟩) fun _ => .refl s)
  | lossOfContention => exact running_readyFollows hx ht (asTransmitter_readyStep (readZero_readyStep · s))
  | stall => exact running_readyFollows hx ht (asTransmitter_readyStep (abandonFrame_readyStep · s))
  | abandonment => exact running_readyFollows hx ht (asTransmitter_readyStep (abandonFrame_readyStep · s))
  | completed slot => exact running_readyFollows hx ht (asTransmitter_readyStep (completeFrame_readyStep slot · s))
  | jamTaken =>
    refine running_readyFollows hx ht ?_
    split
    · exact takeRx_readyStep (takeJam_readyStep _ _)
    · exact .refl s
  | landedTaken =>
    refine running_readyFollows hx ht ?_
    split
    · exact takeRx_readyStep (takeLanded_readyStep _ _ _ _ _ _)
    · exact .refl s
  | releaseTaken =>
    refine running_readyFollows hx ht ?_
    split
    · exact takeRx_readyStep (takeRelease_readyStep _ _)
    · exact .refl s
  | syncTaken elapsed =>
    refine running_readyFollows hx ht ?_
    split
    · exact takeRx_readyStep (takeSync_readyStep _ _ _ _ _)
    · exact .refl s
  | closeTaken =>
    refine running_readyFollows hx ht ?_
    split
    · exact takeRx_readyStep (.ite (fun _ => closeActions_readyStep _ _ _ _) fun _ => .refl _)
    · exact .refl s
  | clearShaft => exact running_readyFollows hx ht (takeClear_readyStep clearShaftAt_readyStep s)
  | clearBin => exact running_readyFollows hx ht (takeClear_readyStep clearBinAt_readyStep s)
  | clearStation => exact running_readyFollows hx ht (takeClear_readyStep clearStationAt_readyStep s)
  | hold =>
    refine running_readyFollows hx ht ?_
    split
    · exact takeRx_readyStep (takeHold_readyStep _ _)
    · exact .refl s
  | auditMark =>
    refine running_readyFollows hx ht ?_
    split
    · exact takeRx_readyStep (takeAuditMark_readyStep _ _)
    · exact .refl s
  | readJournal =>
    refine running_readyFollows hx ht ?_
    split
    · exact takeRx_readyStep (takeReadJournal_readyStep _ _)
    · exact .refl s
  | readState =>
    refine running_readyFollows hx ht ?_
    split
    · exact takeRx_readyStep (queueFrame_op _ _).readyStep
    · exact .refl s
  | configWrite =>
    refine running_readyFollows hx ht ?_
    split
    · exact (giveArray_op s).readyStep
    · exact .refl s
  | programCompletion =>
    exact running_readyFollows hx ht (.ite (fun _ => programDone_readyStep s) fun _ => .refl s)
  | eraseCompletion =>
    refine running_readyFollows hx ht ?_
    split
    · exact ((judgeFull_op _).trans (giveArray_op _)).readyStep.after ⟨rfl, rfl, rfl⟩
    · exact .refl s
  | infoCompletion =>
    refine running_readyFollows hx ht ?_
    split
    · exact (giveArray_op _).readyStep.after ⟨rfl, rfl, rfl⟩
    · exact .refl s
  | millisecondEnd => exact running_readyFollows hx ht (.kept ⟨rfl, rfl, rfl⟩)
  | settleTimeRestart => exact running_readyFollows hx ht (.ite (fun _ => .kept ⟨rfl, rfl, rfl⟩) fun _ => .refl s)

/-! ## The READY dimming timer over every command (R184) -/

/-- R184: the dimming timer and the READY lamp over the command c, from s to t. -/
abbrev DimmingRule (c : Instr) (s t : State) : Prop :=
  (t.csq.state ≠ .idle → t.lms.readyTimer = none) ∧
  (s.csq.state ≠ .idle → t.csq.state = .idle → t.lms.readyTimer = some 300000) ∧
  (s.csq.state = .idle → t.csq.state = .idle → c ≠ .readyDimmingExpiry → t.lms.readyTimer = s.lms.readyTimer) ∧
  (t.csq.state = .idle → t.lms.modes.ready = (if t.lms.readyTimer = none then .dim else .full)) ∧
  (t.csq.state ≠ .idle → t.lms.modes.ready = .off)

theorem ReadyKept.dimmingRule {s t : State} (h : ReadyKept s t) (hr : ReadyRight s) (c : Instr) :
    DimmingRule c s t := by
  unfold DimmingRule
  rw [h.state, h.timer, h.mode, hr.mode]
  exact ⟨hr.timer, fun hn e => absurd e hn, fun _ _ _ => rfl, fun e => if_pos e, fun hn => if_neg hn⟩

theorem ReadyEntered.dimmingRule {s t : State} (h : ReadyEntered t) (hn : s.csq.state = .idle → t.csq.state ≠ .idle)
    (c : Instr) : DimmingRule c s t := by
  unfold DimmingRule
  rw [h.mode, h.timer]
  exact ⟨fun e => if_neg e, fun _ e => if_pos e, fun e e' => absurd e' (hn e), fun e => by simp [e],
    fun e => if_neg e⟩

theorem ReadyFollows.dimmingRule {s t : State} (h : ReadyFollows s t) (hr : ReadyRight s) (c : Instr) :
    DimmingRule c s t := by
  cases h with
  | kept h => exact h.dimmingRule hr c
  | entered h hn => exact h.dimmingRule hn c

/-- R183: the lamps as Table 10-2 gives them make the READY lamp right. -/
theorem LampsRight.ready {s : State} (h : LampsRight s) (hp : s.phase ≠ .inReset)
    (ht : s.csq.state ≠ .idle → s.lms.readyTimer = none) : ReadyRight s := ⟨ht, by rw [h hp]; rfl⟩

/-- R184: the expiry of the dimming timer, in IDLE. -/
theorem dimmed_readyRight {s : State} (hi : s.csq.state = .idle) :
    ReadyRight (refreshLamps { s with lms := { s.lms with readyTimer := none } }) :=
  ⟨fun hn => absurd hi hn, rfl⟩

/-- R184: in IDLE the bag is taken whatever the dimming timer says: the hatch opening leads to OPEN. -/
theorem exec_hatchOpening_of_idle {s : State} (hp : s.phase ≠ .inReset) (hi : s.csq.state = .idle)
    (hc : s.csq.hatch = .closed) :
    ∃ t, exec .hatchOpening s = .next t ∧ t.csq.state = .opened ∧ t.lms.readyTimer = none := by
  have k := settleStep_opened_readyKept { s with csq := { s.csq with hatch := .opened } }
  exact ⟨_, (exec_hatchOpening_enters hc (.inl hi)).trans (running_eq hp), k.state, k.timer⟩

/-- R184: the expiry of the dimming timer in IDLE. -/
theorem exec_readyDimmingExpiry {s : State} (ht : s.lms.readyTimer ≠ none) :
    exec .readyDimmingExpiry s =
      running s (refreshLamps { s with lms := { s.lms with readyTimer := none } }) :=
  congrArg (running s) (if_neg ht)

theorem exec_readyDimmingExpiry_dimmingRule {s t : State} (hr : ReadyRight s)
    (hx : exec .readyDimmingExpiry s = .next t) (ht : t.phase ≠ .inReset) :
    DimmingRule .readyDimmingExpiry s t := by
  by_cases hn : s.lms.readyTimer = none
  · exact (running_readyFollows hx ht (.ite (fun _ => .refl s) fun h => absurd hn h)).dimmingRule hr _
  · have hi : s.csq.state = .idle := by
      by_contra h
      exact hn (hr.timer h)
    rw [exec_readyDimmingExpiry hn] at hx
    obtain ⟨hout, -, -, hidle, hdark⟩ :=
      (running_readyFollows hx ht (.refl _)).dimmingRule (dimmed_readyRight hi) .readyDimmingExpiry
    exact ⟨hout, fun h => absurd hi h, fun _ _ h => absurd rfl h, hidle, hdark⟩

/-- R184 over every command. -/
theorem exec_dimmingRule {c : Instr} {s t : State} (hst : StartRight s) (hl : LampsRight s)
    (hr : s.csq.state ≠ .idle → s.lms.readyTimer = none) (hx : exec c s = .next t) (ht : t.phase ≠ .inReset) :
    DimmingRule c s t := by
  by_cases hp : s.phase = .inReset
  · obtain ⟨he, hs⟩ := exec_inReset_entered hp hx ht
    exact he.dimmingRule (fun _ => by simp [hs]) c
  · by_cases hc : c = .readyDimmingExpiry
    · subst hc
      exact exec_readyDimmingExpiry_dimmingRule (hl.ready hp hr) hx ht
    · exact (exec_readyFollows hst.1 (hl.ready hp hr) hp hc hx ht).dimmingRule (hl.ready hp hr) c

/-! ## A value for each lamp -/

@[simp] theorem PerLamp.get_ofFn {α : Type} (f : Lamp → α) (l : Lamp) : (PerLamp.ofFn f).get l = f l := by
  cases l <;> rfl

@[simp] theorem PerLamp.get_set {α : Type} (p : PerLamp α) (l k : Lamp) (v : α) :
    (p.set l v).get k = if k = l then v else p.get k := by
  cases l <;> cases k <;> rfl

/-! ## The timers of the lamps (R23, R181, R182, R184) -/

/-- R182: the halves of the flashing lamps of s go on in t, and a lamp that does not flash has none. -/
abbrev HalvesStand (s t : State) : Prop := ∀ l,
  (s.lms.modes.get l = .flash →
    t.lms.fullHalf.get l = s.lms.fullHalf.get l ∧ t.lms.halfTimer.get l = s.lms.halfTimer.get l) ∧
  (s.lms.modes.get l ≠ .flash → t.lms.fullHalf.get l = false ∧ t.lms.halfTimer.get l = none)

/-- R182, R183: lamps judged again keep their halves where the same lamps flash. -/
theorem refreshLamps_halvesStand {s u : State} (hm : u.lms.modes = s.lms.modes)
    (hf : u.lms.fullHalf = s.lms.fullHalf) (ht : u.lms.halfTimer = s.lms.halfTimer)
    (h : ∀ l, lampMode u l = .flash ↔ s.lms.modes.get l = .flash) : HalvesStand s (refreshLamps u) := by
  intro l
  simp only [refreshLamps, PerLamp.get_ofFn, hm, hf, ht, h l]
  exact ⟨fun e => by simp [e], fun e => by simp [e]⟩

/-- A command that changes only the lamps and the accepted-lamp timer leaves a settled state settled. -/
theorem running_lamps {s : State} (hr : Runs s) (a : Timer) (l : Lamps) :
    running s { s with csq := { s.csq with accepted := a }, lms := l } =
      .next { s with csq := { s.csq with accepted := a }, lms := l } :=
  running_of_settled hr.1 (hr.2.congr rfl rfl rfl rfl Iff.rfl rfl)

/-- R23: the accepted-lamp timer ends. -/
theorem exec_acceptedLampExpiry {s : State} (hr : Runs s) (hl : LampsRight s) (ha : s.csq.accepted ≠ none) :
    ∃ t, exec .acceptedLampExpiry s = .next t ∧ HalvesStand s t ∧
      t = { s with
        csq := { s.csq with accepted := none }
        lms := { s.lms with
          modes := { s.lms.modes with accepted := .off }
          fullHalf := t.lms.fullHalf, halfTimer := t.lms.halfTimer } } := by
  have hm := hl hr.1
  refine ⟨refreshLamps { s with csq := { s.csq with accepted := none } }, ?_, ?_, ?_⟩
  · exact (congrArg (running s) (if_neg ha)).trans (running_lamps hr none _)
  · refine refreshLamps_halvesStand rfl rfl rfl fun l => ?_
    rw [hm, PerLamp.get_ofFn]
    cases l <;> simp [lampMode, ha]
  · simp only [refreshLamps, hm]
    rfl

/-- R184: the dimming timer ends. -/
theorem exec_readyDimmingExpiry_of_idle {s : State} (hr : Runs s) (hl : LampsRight s)
    (ht : s.lms.readyTimer ≠ none) (hi : s.csq.state = .idle) :
    ∃ t, exec .readyDimmingExpiry s = .next t ∧ HalvesStand s t ∧
      t = { s with lms := { s.lms with
        modes := { s.lms.modes with ready := .dim }, readyTimer := none
        fullHalf := t.lms.fullHalf, halfTimer := t.lms.halfTimer } } := by
  have hm := hl hr.1
  refine ⟨refreshLamps { s with lms := { s.lms with readyTimer := none } }, ?_, ?_, ?_⟩
  · exact (exec_readyDimmingExpiry ht).trans (running_lamps hr s.csq.accepted _)
  · refine refreshLamps_halvesStand rfl rfl rfl fun l => ?_
    rw [hm, PerLamp.get_ofFn]
    cases l <;> simp [lampMode, hi, ht]
  · simp only [refreshLamps, hm]
    simp [PerLamp.ofFn, lampMode, hi]

/-- R182: a half of a flashing lamp ends. -/
theorem exec_flashHalfExpiry {s : State} {l : Lamp} (hr : Runs s) (hf : s.lms.modes.get l = .flash) :
    ∃ t, exec (.flashHalfExpiry l) s = .next t ∧
      t = { s with lms := { s.lms with fullHalf := t.lms.fullHalf, halfTimer := t.lms.halfTimer } } ∧
      t.lms.fullHalf.get l = !s.lms.fullHalf.get l ∧ t.lms.halfTimer.get l = some 500 ∧
      ∀ k, k ≠ l → t.lms.fullHalf.get k = s.lms.fullHalf.get k ∧
        t.lms.halfTimer.get k = s.lms.halfTimer.get k :=
  ⟨{ s with lms := nextHalf l s.lms },
    (congrArg (running s) (if_pos hf)).trans (running_lamps hr s.csq.accepted _), rfl, by simp [nextHalf],
    by simp [nextHalf], fun k hk => by simp [nextHalf, hk]⟩

/-- R181: a row time ends. -/
theorem exec_rowTimeExpiry {s : State} {r : LampRow} (hr : Runs s) (h : s.lms.row = some r) :
    exec .rowTimeExpiry s = .next { s with lms := nextRow r s.lms } := by
  have e : exec .rowTimeExpiry s = running s { s with lms := nextRow r s.lms } := by
    simp only [exec, execRowTimeExpiry, h]
  exact e.trans (running_lamps hr s.csq.accepted _)

/-- Settles O41: the READY dimming timer over every command (R184), and the ends of the accepted-lamp timer (R23), the
dimming timer (R184), a flash half (R182) and a row time (R181). -/
theorem lampTimers : Obligations.LampTimers := by
  refine ⟨fun c s t => exec_dimmingRule, fun s hr _ => exec_hatchOpening_of_idle hr.1, fun s hr hl =>
    ⟨exec_acceptedLampExpiry hr hl, exec_readyDimmingExpiry_of_idle hr hl, fun l => exec_flashHalfExpiry hr,
      fun r h => ⟨fun e => ?_, fun e => ?_⟩⟩⟩
  all_goals
    subst e
    exact exec_rowTimeExpiry hr h

end Sys2Proof.Machine
end

section
/-! PROOFS. What the operations of the transmit queue keep (R89, R90, R104, R105): its length, its ages, the one CLAIM,
and that nothing waits in FREE. -/

namespace Sys2Proof.Machine

/-- From s to t the queues of the link keep their sizes and ages, and no frame has been judged; in FREE a frame may
wait to be started. -/
structure LinkLoose (s t : State) : Prop where
  sizes : LinkRight s → t.lkc.rx.length ≤ 4 ∧ t.lkc.queue.length ≤ 8 ∧
    (t.lkc.queue.filter (fun e => e.content.isClaim)).length ≤ 1
  ages : AgesRight s → AgesRight t
  drop : s.lkc.dropCount ≤ 255 → t.lkc.dropCount ≤ 255
  judged : ∀ j, t.lkc.reception = .judged j → s.lkc.reception = .judged j

/-- From s to t the queues of the link keep what is said of them between steps, and no frame has been judged. -/
structure LinkKeeps (s t : State) : Prop extends LinkLoose s t where
  link : LinkRight s → LinkRight t

/-- An operation of the link's transmit side that keeps what is said of the queues. -/
structure LinkOp (s t : State) : Prop extends QueueOp s t, LinkKeeps s t

theorem LinkLoose.keeps {s t : State} (h : LinkLoose s t)
    (hf : LinkRight s → t.lkc.phase = .free → t.lkc.queue = []) : LinkKeeps s t :=
  ⟨h, fun x => ⟨(h.sizes x).1, (h.sizes x).2.1, (h.sizes x).2.2, hf x⟩⟩

theorem LinkKeeps.of_lkc {s t : State} (h : t.lkc = s.lkc) : LinkKeeps s t := by
  refine ⟨⟨?_, ?_, ?_, ?_⟩, ?_⟩ <;> simp +contextual [LinkRight, AgesRight, h]

theorem LinkLoose.trans {s t u : State} (h : LinkKeeps s t) (k : LinkLoose t u) : LinkLoose s u where
  sizes := fun x => k.sizes (h.link x)
  ages := fun x => k.ages (h.ages x)
  drop := fun x => k.drop (h.drop x)
  judged := fun j x => h.judged j (k.judged j x)

theorem LinkKeeps.trans {s t u : State} (h : LinkKeeps s t) (k : LinkKeeps t u) : LinkKeeps s u :=
  ⟨k.toLinkLoose.trans h, fun x => k.link (h.link x)⟩

theorem LinkOp.refl (s : State) : LinkOp s s := ⟨.refl s, .of_lkc rfl⟩

theorem LinkOp.trans {s t u : State} (h : LinkOp s t) (k : LinkOp t u) : LinkOp s u :=
  ⟨h.toQueueOp.trans k.toQueueOp, h.toLinkKeeps.trans k.toLinkKeeps⟩

/-- An operation on the claim alone. -/
theorem QueueOp.link_of_lkc {s t : State} (h : QueueOp s t) (hl : t.lkc = s.lkc) : LinkOp s t := ⟨h, .of_lkc hl⟩

/-- A guarded operation. -/
theorem LinkOp.ite {c : Prop} [Decidable c] {s t u : State} (h : c → LinkOp s t) (k : ¬ c → LinkOp s u) :
    LinkOp s (if c then t else u) := by
  split
  · exact h ‹_›
  · exact k ‹_›

/-! ## Queues that lose entries, or have them changed -/

/-- What R104 says of an entry: its age, and whether it is a CLAIM. -/
def TxEntry.key (e : TxEntry) : Nat × Bool := (e.age, e.content.isClaim)

theorem claimCount_eq (q : List TxEntry) :
    (q.filter (fun e => e.content.isClaim)).length = ((q.map TxEntry.key).filter (·.2)).length := by
  simp [List.filter_map, TxEntry.key, Function.comp_def]

/-- A queue that only loses entries keeps what R104 says of it. -/
theorem LinkLoose.of_keys {s t : State} (hk : (t.lkc.queue.map TxEntry.key).Sublist (s.lkc.queue.map TxEntry.key))
    (hn : t.lkc.nextAge = s.lkc.nextAge) (hr : t.lkc.rx.length ≤ s.lkc.rx.length)
    (hd : t.lkc.dropCount = s.lkc.dropCount ∨ t.lkc.dropCount ≤ 255)
    (hj : ∀ j, t.lkc.reception = .judged j → s.lkc.reception = .judged j) : LinkLoose s t := by
  have ha : ∀ q : List TxEntry, q.map (fun e => e.age) = (q.map TxEntry.key).map (·.1) := fun q => by
    simp [TxEntry.key]
  have hlt : ∀ q : List TxEntry, (∀ e ∈ q, e.age < s.lkc.nextAge) ↔ ∀ k ∈ q.map TxEntry.key, k.1 < s.lkc.nextAge :=
    fun q => by simp [TxEntry.key]
  refine ⟨fun ⟨h1, h2, h3, _⟩ => ⟨by omega, ?_, ?_⟩, fun ⟨h1, h2⟩ => ⟨?_, ?_⟩, fun h => ?_, hj⟩
  · have := hk.length_le
    simp only [List.length_map] at this
    omega
  · have := (hk.filter (·.2)).length_le
    rw [claimCount_eq] at h3 ⊢
    omega
  · rw [ha] at h1 ⊢
    exact (hk.map _).nodup h1
  · rw [hn]
    exact (hlt _).2 fun k hm => (hlt _).1 h2 k (hk.subset hm)
  · rcases hd with e | e <;> omega

theorem keys_setAttempts (age n : Nat) (l : Link) :
    (setAttempts age n l).queue.map TxEntry.key = l.queue.map TxEntry.key := by
  simp only [setAttempts, List.map_map]
  refine List.map_congr_left fun e _ => ?_
  simp only [Function.comp_apply]
  split <;> rfl

theorem keys_loadEntry (s : State) (age : Nat) :
    (loadEntry s age).map TxEntry.key = s.lkc.queue.map TxEntry.key := by
  simp only [loadEntry, List.map_map]
  refine List.map_congr_left fun e _ => ?_
  simp only [Function.comp_apply]
  split
  · unfold loadedContent
    cases e
    dsimp only
    split <;> rfl
  · rfl

/-! ## The start of a frame (R90) -/

/-- R90: what the start of a frame leaves of the queue; in FREE nothing waits afterwards. -/
theorem startFrame_queue (s : State) :
    (startFrame s).lkc.queue.map TxEntry.key = s.lkc.queue.map TxEntry.key ∧
    (startFrame s).lkc.nextAge = s.lkc.nextAge ∧ (startFrame s).lkc.dropCount = s.lkc.dropCount ∧
    ((startFrame s).lkc.phase = .free → (startFrame s).lkc.queue = []) ∧
    ∀ j, (startFrame s).lkc.reception = .judged j → s.lkc.reception = .judged j := by
  unfold startFrame
  split
  · next h =>
    refine ⟨rfl, rfl, rfl, fun _ => ?_, fun _ h => h⟩
    by_contra hq
    obtain ⟨e, he, -⟩ := txHead_spec _ hq
    rw [he] at h
    cases h
  · split
    · refine ⟨rfl, rfl, rfl, ?_, ?_⟩ <;> simp [yieldStart]
    · refine ⟨keys_loadEntry _ _, rfl, rfl, ?_, ?_⟩ <;> simp [sendStart]

/-- R89, R90: in FREE what waits is started at once, and then nothing waits. -/
theorem startIfFree_keeps {s t : State} (h : LinkLoose s t) : LinkKeeps s (startIfFree t) := by
  unfold startIfFree
  split
  · obtain ⟨hk, hn, hd, hf, hj⟩ := startFrame_queue t
    have hr : (startFrame t).lkc.rx = t.lkc.rx := (startFrame_op t).rx
    have hlen : (startFrame t).lkc.queue.length = t.lkc.queue.length := by
      simpa using congrArg List.length hk
    refine LinkLoose.keeps ⟨fun x => ?_, fun x => ?_, fun x => hd ▸ h.drop x, fun j x => h.judged j (hj j x)⟩
      fun _ => hf
    · obtain ⟨h1, h2, h3⟩ := h.sizes x
      rw [claimCount_eq] at h3 ⊢
      rw [hr, hlen, hk]
      exact ⟨h1, h2, h3⟩
    · exact (LinkLoose.of_keys (s := t) (t := startFrame t) (by rw [hk]) hn (by rw [hr]) (.inl hd) hj).ages (h.ages x)
  · next hp => exact h.keeps fun _ h => absurd h hp

/-! ## Queuing (R104, R105) -/

theorem saturate_le (m n : Nat) : saturate m n ≤ m := by unfold saturate; exact Nat.min_le_left _ _

/-- R104, R105: a frame joins a queue that has a place, a CLAIM only where none stands. -/
theorem push_loose {c : TxFrame} {s u : State} (h : LinkKeeps s u) (h8 : LinkRight s → u.lkc.queue.length < 8)
    (hc : c.isClaim = true → u.lkc.hasClaim = false) : LinkLoose s { u with lkc := u.lkc.push c } := by
  refine ⟨fun x => ⟨(h.link x).1, ?_, ?_⟩, fun x => ⟨?_, ?_⟩, h.drop, h.judged⟩
  · simpa [Link.push] using h8 x
  · have h3 := (h.link x).2.2.1
    cases hic : c.isClaim with
    | false => simpa [Link.push, List.filter_append, hic] using h3
    | true =>
      have : u.lkc.queue.filter (fun e => e.content.isClaim) = [] := by
        simpa [List.filter_eq_nil_iff, Link.hasClaim] using hc hic
      simp [Link.push, List.filter_append, hic, this]
  · obtain ⟨h1, h2⟩ := h.ages x
    simp only [Link.push, List.map_append, List.map_cons, List.map_nil]
    exact h1.append (by simp) (by simpa using fun e he => (h2 e he).ne)
  · obtain ⟨h1, h2⟩ := h.ages x
    simp only [Link.push, List.mem_append, List.mem_singleton]
    rintro e (he | rfl)
    · exact (h2 e he).trans (Nat.lt_succ_self _)
    · exact Nat.lt_succ_self _

theorem joinQueue_keeps {c : TxFrame} {s u : State} (h : LinkKeeps s u) (h8 : LinkRight s → u.lkc.queue.length < 8)
    (hc : c.isClaim = true → u.lkc.hasClaim = false) : LinkKeeps s (joinQueue c u) :=
  startIfFree_keeps (push_loose h h8 hc)

theorem claimRefusedAtQueue_lkc (s : State) : (claimRefusedAtQueue s).lkc = s.lkc := by
  unfold claimRefusedAtQueue
  dsimp only
  split <;> rfl

theorem claimRefusedAtQueue_link (s : State) : LinkOp s (claimRefusedAtQueue s) :=
  (claimRefusedAtQueue_op s).link_of_lkc (claimRefusedAtQueue_lkc s)

theorem refuseQueue_link (c : TxFrame) (s : State) : LinkOp s (refuseQueue c s) := by
  unfold refuseQueue
  split
  · exact claimRefusedAtQueue_link s
  · exact .refl s

theorem dropped_link (s : State) : LinkOp s { s with lkc := s.lkc.dropped } :=
  ⟨by constructor <;> rfl, ⟨⟨fun h => ⟨h.1, h.2.1, h.2.2.1⟩, id, fun _ => saturate_le _ _, fun _ => id⟩, id⟩⟩

theorem without_keys (age : Nat) (l : Link) :
    ((l.without age).queue.map TxEntry.key).Sublist (l.queue.map TxEntry.key) := List.filter_sublist.map _

theorem without_link (age : Nat) (s : State) : LinkOp s { s with lkc := s.lkc.without age } where
  toQueueOp := by constructor <;> rfl
  toLinkKeeps := (LinkLoose.of_keys (t := { s with lkc := s.lkc.without age }) (without_keys age s.lkc) rfl le_rfl
    (.inl rfl) fun _ => id).keeps fun h hf => by
      have hq : s.lkc.queue = [] := h.2.2.2 hf
      simp [Link.without, hq]

theorem hasClaim_without {age : Nat} {l : Link} (h : l.hasClaim = false) : (l.without age).hasClaim = false := by
  simp only [Link.hasClaim, List.any_eq_false, Link.without, List.mem_filter] at h ⊢
  exact fun e he => h e he.1

/-- R105: a frame takes the place of an entry of the queue. -/
theorem replaceEntry_link {c : TxFrame} {e : TxEntry} {s : State} (he : e ∈ s.lkc.queue)
    (hc : c.isClaim = true → s.lkc.hasClaim = false) : LinkOp s (replaceEntry c e s) := by
  refine ⟨replaceEntry_op c e s, ?_⟩
  have h8 (h : LinkRight s) : (s.lkc.without e.age).queue.length < 8 :=
    lt_of_lt_of_le (List.length_filter_lt_length_iff_exists.2 ⟨e, he, by simp⟩) h.2.1
  have hjoin : ∀ u : State, u.lkc = s.lkc.without e.age → LinkKeeps s (joinQueue c u) := fun u hu =>
    joinQueue_keeps ((without_link e.age s).toLinkKeeps.trans (.of_lkc hu)) (fun x => hu ▸ h8 x)
      fun hi => hu ▸ hasClaim_without (hc hi)
  unfold replaceEntry
  dsimp only
  split
  · exact hjoin _ (claimRefusedAtQueue_lkc _)
  · exact hjoin _ rfl

theorem txLast_mem {q : List TxEntry} {e : TxEntry} (h : txLast q = some e) : e ∈ q := by
  have hq : q ≠ [] := by rintro rfl; cases h
  obtain ⟨e', he', hm, -⟩ := txLast_spec q hq
  rw [h] at he'
  exact Option.some.inj he' ▸ hm

/-- R104, R105: a frame that is queued. -/
theorem queueFrame_link (c : TxFrame) (s : State) : LinkOp s (queueFrame c s) := by
  refine ⟨queueFrame_op c s, ?_⟩
  unfold queueFrame
  split
  · exact (refuseQueue_link c s).toLinkKeeps
  · next hc =>
    have hc' : c.isClaim = true → s.lkc.hasClaim = false := by simpa using hc
    split
    · next h8 => exact joinQueue_keeps (.of_lkc rfl) (fun _ => h8) hc'
    · have hd := dropped_link s
      dsimp only
      split
      · exact (hd.trans (refuseQueue_link c _)).toLinkKeeps
      · next e he =>
        split
        · exact (hd.trans (replaceEntry_link (List.mem_of_mem_filter (txLast_mem he)) hc')).toLinkKeeps
        · exact (hd.trans (refuseQueue_link c _)).toLinkKeeps

theorem queueSync_link (s : State) : LinkOp s (queueSync s) := by
  unfold queueSync
  split
  · exact .refl s
  · exact queueFrame_link _ s

theorem foldl_queueFrame_link {α : Type} (f : α → TxFrame) (l : List α) (s : State) :
    LinkOp s (l.foldl (fun t r => queueFrame (f r) t) s) := by
  induction l generalizing s with
  | nil => exact .refl s
  | cons a l ih => exact (queueFrame_link (f a) s).trans (ih _)

theorem serveRead_link (req : ReadReq) (s : State) : LinkOp s (serveRead req s) := by
  unfold serveRead
  split
  · exact queueFrame_link _ s
  · exact foldl_queueFrame_link (fun (r : Nat × Record) => TxFrame.journal req.source (slotBytes s.flash r.1)) _ s

/-! ## The own claim (R106, R115 to R121) -/

theorem withdrawClaim_link (s : State) : LinkOp s (withdrawClaim s) := by
  unfold withdrawClaim
  split
  · exact .refl s
  · exact without_link _ s

theorem claimIdle_link (s : State) : LinkOp s (claimIdle s) := (claimIdle_op s).link_of_lkc rfl

theorem startRetry_link (s : State) : LinkOp s (startRetry s) := (startRetry_op s).link_of_lkc rfl

theorem setClaimPhase_link (p : ClaimPhase) (sp : Timer) (s : State) : LinkOp s (setClaimPhase p sp s) :=
  (setClaimPhase_op p sp s).link_of_lkc rfl

theorem deferClaim_link (s : State) : LinkOp s (deferClaim s) :=
  (withdrawClaim_link s).trans (setClaimPhase_link _ _ _)

theorem judgeBack_link (s : State) : LinkOp s (judgeBack s) :=
  .ite (fun _ => deferClaim_link s) fun _ => setClaimPhase_link _ _ s

theorem judgeLost_link (s : State) : LinkOp s (judgeLost s) := .ite (fun _ => judgeBack_link s) fun _ => .refl s

theorem queuedAfterLoss_link (s : State) : LinkOp s (queuedAfterLoss s) := (queuedAfterLoss_op s).link_of_lkc rfl

theorem watchClaim_link (before s : State) : LinkOp s (watchClaim before s) := by
  unfold watchClaim
  split
  · exact .ite (fun _ => deferClaim_link s) fun _ => .refl s
  · exact .ite (fun _ => setClaimPhase_link _ _ s) fun _ => .refl s
  · exact .ite (fun _ => .refl s) fun _ => setClaimPhase_link _ _ s
  · exact .refl s
  · exact .refl s

theorem queueClaim_link (serial : W32) (s : State) : LinkOp s (queueClaim serial s) :=
  LinkOp.trans (t := { s with shc := { s.shc with phase := .queued, claimSerial := some serial, spacing := none } })
    (QueueOp.link_of_lkc (by constructor <;> rfl) rfl) (queueFrame_link _ _)

theorem requestClaim_link (serial : W32) (s : State) : LinkOp s (requestClaim serial s) := by
  unfold requestClaim
  refine .ite (fun _ => startRetry_link s) fun _ => .ite (fun _ => queueClaim_link serial s) fun _ => ?_
  exact QueueOp.link_of_lkc (by constructor <;> rfl) rfl

theorem giveUpClaim_link (s : State) : LinkOp s (giveUpClaim s) := by
  unfold giveUpClaim
  split
  · exact .refl s
  · exact claimIdle_link s
  · exact claimIdle_link s
  · exact (withdrawClaim_link s).trans (claimIdle_link _)
  · exact QueueOp.link_of_lkc (by constructor <;> rfl) rfl

theorem spacingOver_link (s : State) : LinkOp s (spacingOver s) := by
  unfold spacingOver
  split
  · exact .ite (fun _ => queueClaim_link _ s) fun _ => setClaimPhase_link _ _ s
  · exact setClaimPhase_link _ _ s

/-! ## The phases of the link (R89, R92 to R95) -/

/-- An operation of the link that leaves the queue its entries and does not judge a frame. -/
theorem LinkOp.of_lkc {s : State} {l : Link}
    (hk : (l.queue.map TxEntry.key).Sublist (s.lkc.queue.map TxEntry.key)) (hn : l.nextAge = s.lkc.nextAge)
    (hr : l.rx = s.lkc.rx) (hh : l.holding = s.lkc.holding) (hf : l.phase = .free → LinkRight s → l.queue = [])
    (hd : l.dropCount = s.lkc.dropCount ∨ l.dropCount ≤ 255)
    (hj : ∀ j, l.reception = .judged j → s.lkc.reception = .judged j) : LinkOp s { s with lkc := l } where
  toQueueOp := by constructor <;> first | rfl | exact hr | exact hh
  toLinkKeeps := (LinkLoose.of_keys (t := { s with lkc := l }) hk hn (by rw [hr]) hd hj).keeps fun x y => hf y x

theorem toSettling_link (s : State) : LinkOp s (toSettling s) :=
  .of_lkc (by exact .refl _) rfl rfl rfl (fun h => nomatch h) (.inl rfl) fun _ h => nomatch h

theorem toReceiving_link {r : Reception} (hr : ∀ j, r ≠ .judged j) (s : State) : LinkOp s (toReceiving r s) :=
  .of_lkc (by exact .refl _) rfl rfl rfl (fun h => nomatch h) (.inl rfl) fun j h => absurd h (hr j)

theorem entryBack_link (s : State) : LinkOp s (entryBack s) :=
  .of_lkc (by exact .refl _) rfl rfl rfl (fun h k => k.2.2.2 h) (.inl rfl) fun _ => id

theorem setAttempts_link (age n : Nat) (s : State) : LinkOp s { s with lkc := setAttempts age n s.lkc } :=
  .of_lkc (by rw [keys_setAttempts]) rfl rfl rfl (fun h k => by simp [setAttempts, k.2.2.2 h]) (.inl rfl) fun _ => id

theorem draw_link (s : State) : LinkOp s s.draw := QueueOp.link_of_lkc (by constructor <;> rfl) rfl

/-- R89, R90, R118: the link becomes free, and the first frame in the queue is started. -/
theorem linkBecomesFree_link (s : State) : LinkOp s (linkBecomesFree s) where
  toQueueOp := (judgeLost_op s).trans (QueueOp.trans (by constructor <;> rfl) (startIfFree_op _))
  toLinkKeeps := (judgeLost_link s).toLinkKeeps.trans (startIfFree_keeps ⟨fun h => ⟨h.1, h.2.1, h.2.2.1⟩, id, id, fun _ => id⟩)

end Sys2Proof.Machine
end

section
/-! PROOFS. What a command does, taken apart into operations of one block each (`Act`), so that what holds of the part
between steps is judged once for each operation and not once for each command. -/

namespace Sys2Proof.Machine

/-! ## The operations -/

/-- R18, R20, R120: the entry to TURN up to the turn request, after which FALL may follow at once (R73). -/
def turnAsked (s : State) : State :=
  let s1 := setView s.straps.shf (.held s.straps.adr) none s
  let s2 := enterState .turn
    { s1 with
      ldi := { s1.ldi with count := 0 }
      csq := { s1.csq with turnLimit := some s.cfg.turnLimit } }
  { s2 with rct := s2.rct.turn s.cfg.dropTarget s.nck.clock }

theorem enterTurn_eq (s : State) :
    enterTurn s = if (turnAsked s).rct.mode = .watch then enterFall (turnAsked s) else turnAsked s := rfl

/-- R24: the entry to FAULT up to the end of the hold: the own shaft is not self-held any more. -/
def faultCore (s : State) : State :=
  let s1 := enterState .fault (abandonCheck s.csq.state (stopSequencer { s with rct := s.rct.stop }))
  if selfHeld s then setView s.straps.shf .free none s1 else s1

/-- R7, R76: the entry to HOME up to the home request. -/
def homeAsked (s : State) : State :=
  let s1 := enterState .home { s with csq := { s.csq with homeLimit := some s.cfg.homeLimit } }
  { s1 with rct := s1.rct.goHome }

theorem enterHome_eq (s : State) :
    enterHome s = if s.csq.hatch = .opened then enterFault .hatchForced (homeAsked s)
      else if s.rct.homeActive then homeReached (homeAsked s) else homeAsked s := rfl

/-- What of the sequencer stays through an operation on its timers and the pending bag record. -/
structure SameSeq (c d : Sequencer) : Prop where
  state : d.state = c.state
  holds : d.holds = c.holds
  hatch : d.hatch = c.hatch ∨ d.hatch = .closed
  lock : d.lock = c.lock
  accepted : d.accepted = c.accepted

/-- The states in which the drum stands still and that are entered from one another. -/
def SeqState.quiet : SeqState → Bool
  | .idle | .opened | .check | .claim | .present | .held => true
  | .start | .turn | .fall | .home | .fault => false

/-- R39, R40: the tare interval timer stands still during a tare check. -/
def tareStands (w : Weigh) : Prop := w.activity = .tare → w.tareInterval = none

/-- R26: the hatch is shut in IDLE and in the locked states. -/
def hatchShut (c : Sequencer) : Prop := c.state = .idle ∨ c.state.locked = true → c.hatch = .closed

/-- R10: a hold reason raised or cleared by its own block: not one that stands for the supply or the journal, ADDRESS_CLASH
only raised, JAM and BIN_FULL only cleared where what they stand for is gone. -/
def holdMoves (r : HoldReason) (v : Bool) (s : State) : Prop :=
  match r, v with
  | .power, _ | .journalFull, _ | .journalBusy, _ | .unconfigured, _ | .addressClash, false => False
  | .jam, false => ownView s ≠ .jammed
  | .binFull, false => ownTally s = { count := 0, mass := 0 }
  | _, _ => True

/-- One operation of the journal controller. -/
inductive JournalAct : State → State → Prop
  | ask (req : RecordReq) (s : State) : JournalAct s (askGeneral req s)
  | askBag (req : RecordReq) (s : State) (h : s.csq.state ≠ .start) : JournalAct s (askBag req s)
  | give (s : State) : JournalAct s (giveArray s)

theorem JournalAct.op {s t : State} (h : JournalAct s t) : JournalOp s t := by
  cases h with
  | ask req => exact askGeneral_op req s
  | askBag req => exact askBag_op req s
  | give => exact giveArray_op s

/-- One operation of one block of the running part. -/
inductive Act : State → State → Prop
  | link {s t : State} (h : LinkOp s t) : Act s t
  | receive (s : State) (r : Reception) (h : ∀ j, r = .judged j → ∃ f, j = judgeFrame s f) :
      Act s { s with lkc := { s.lkc with reception := r } }
  | holdClock (s : State) (r : Reception) (h : ∀ j, r = .judged j → s.lkc.reception = .judged j) :
      Act s (holdClock r s)
  | journal {s t : State} (h : JournalAct s t) : Act s t
  | clock (n : NightClock) (s : State) : Act s { s with nck := n }
  | close (night : W16) (n : NightClock) (s : State) (h : s.nls.night.toNat < night.toNat) :
      Act s { s with nls := { entries := [], night := night, closeSinceStart := true }, nck := n }
  | seq (c : Sequencer) (s : State) (h : SameSeq s.csq c)
      (hb : s.csq.state = .check → c.bag = s.csq.bag ∧ c.returnWait = s.csq.returnWait) : Act s { s with csq := c }
  | hold (r : HoldReason) (v w : Bool) (s : State) (h : holdMoves r v s) :
      Act s { s with csq := { s.csq with holds := s.csq.holds.put r v, weighSeen := w } }
  | tally (i : Fin 4) (x : Tally) (s : State) (h : i = s.straps.shf → x = { count := 0, mass := 0 }) (hx : tallyRight x) :
      Act s (setTally i x s)
  | filled (x : Tally) (s : State) (h : TalliesRight s → tallyRight x) : Act s (raiseIfFull (setTally s.straps.shf x s))
  | jammed {s u : State} (h : LinkOp (setView s.straps.shf .jammed none s) u) : Act s (raiseHold .jam u)
  | view (i : Fin 4) (v : View) (age : Timer) (s : State)
      (h : i = s.straps.shf → v ≠ .held s.straps.adr ∧ v ≠ .jammed) : Act s (setView i v age s)
  | serial (x : W32) (s : State) : Act s (giveSerial x s)
  | weigh (w : Weigh) (s : State) (h : WeighRight s → WeighRight { s with wch := w })
      (ht : tareStands s.wch → tareStands w) : Act s { s with wch := w }
  | tags (g : TagInput) (s : State) (hb : s.tgi.buffer.length < 12 → g.buffer.length < 12)
      (hr : s.tgi.readSet.length ≤ 2 ∧ s.tgi.readSet.Nodup → g.readSet.length ≤ 2 ∧ g.readSet.Nodup) :
      Act s { s with tgi := g }
  | landing (l : Landing) (s : State) (h : s.ldi.count ≤ 255 → l.count ≤ 255) : Act s { s with ldi := l }
  | drum (r : Rotor) (s : State) (h : MotorRight s → MotorRight { s with rct := r }) : Act s { s with rct := r }
  | lamps (l : Lamps) (s : State) (hm : l.modes = s.lms.modes) (hr : l.readyTimer = s.lms.readyTimer) :
      Act s { s with lms := l }
  | relamp (a b : Timer) (s : State) :
      Act s (refreshLamps { s with csq := { s.csq with accepted := a }, lms := { s.lms with readyTimer := b } })
  | enter (st : SeqState) (c : Sequencer) (s : State) (hf : s.csq.state.quiet = true ∨
        s.csq.state = .home ∧ s.rct.mode = .stopped) (ht : st.quiet = true) (hh : c.holds = s.csq.holds)
      (hs : hatchShut s.csq → st = .idle ∨ st.locked = true → c.hatch = .closed)
      (hb : st = .check → c.bag = PendingBag.absent) : Act s (enterState st { s with csq := c })
  | fault (s : State) (h : s.csq.state ≠ .start) : Act s (faultCore s)
  | home (c : Sequencer) (s : State) (hf : s.csq.state = .fall ∧ selfHeld s = false ∨ s.csq.state = .fault)
      (hh : c.holds = s.csq.holds) (ht : c.hatch = .closed) : Act s (homeAsked { s with csq := c })
  | forced (c : Sequencer) (s : State) (hf : s.csq.state = .fall ∧ selfHeld s = false ∨ s.csq.state = .fault)
      (hh : c.holds = s.csq.holds) : Act s (faultCore (homeAsked { s with csq := c }))
  | fall (r : Rotor) (c : Sequencer) (s : State) (hf : s.csq.state = .turn) (hm : r.mode = .watch) (hr : r.mrun ≠ .high)
      (hh : c.holds = s.csq.holds) (ht : c.hatch = s.csq.hatch) : Act s (enterState .fall { s with rct := r, csq := c })
  | turned (s : State) (hf : s.csq.state = .claim) (hw : (turnAsked s).rct.mode ≠ .watch) : Act s (turnAsked s)
  | dropped (c : Sequencer) (s : State) (hf : s.csq.state = .claim) (hw : (turnAsked s).rct.mode = .watch)
      (hh : c.holds = s.csq.holds) (ht : c.hatch = s.csq.hatch) : Act s (enterState .fall { turnAsked s with csq := c })

theorem Act.ask (req : RecordReq) (s : State) : Act s (askGeneral req s) := .journal (.ask req s)

theorem Act.askBag (req : RecordReq) (s : State) (h : s.csq.state ≠ .start) : Act s (askBag req s) :=
  .journal (.askBag req s h)

theorem Act.give (s : State) : Act s (giveArray s) := .journal (.give s)

/-- Operations one after another. -/
abbrev Acts : State → State → Prop := Relation.ReflTransGen Act

/-- An operation, or a change of the pending bag record in CHECK, after which CHECK ends. -/
inductive Fine : State → State → Prop
  | act {s t : State} (h : Act s t) : Fine s t
  | fill (c : Sequencer) (s : State) (h : SameSeq s.csq c) : Fine s { s with csq := c }

/-- Operations one after another, those at the end of CHECK among them. -/
abbrev Fines : State → State → Prop := Relation.ReflTransGen Fine

theorem Acts.refl {s : State} : Acts s s := Relation.ReflTransGen.refl

theorem Act.acts {s t : State} (h : Act s t) : Acts s t := .single h

theorem Act.fines {s t : State} (h : Act s t) : Fines s t := .single (.act h)

theorem Fines.fill (c : Sequencer) (s : State) (h : SameSeq s.csq c) : Fines s { s with csq := c } := .single (.fill c s h)

theorem Acts.trans {s t u : State} (h : Acts s t) (k : Acts t u) : Acts s u := Relation.ReflTransGen.trans h k

theorem Acts.fines {s t : State} (h : Acts s t) : Fines s t := Relation.ReflTransGen.mono (fun _ _ => Fine.act) _ _ h

theorem LinkOp.acts {s t : State} (h : LinkOp s t) : Acts s t := (Act.link h).acts

theorem SameSeq.refl (c : Sequencer) : SameSeq c c := ⟨rfl, rfl, .inl rfl, rfl, rfl⟩

/-- A guarded operation. -/
theorem Acts.ite {c : Prop} [Decidable c] {s t u : State} (h : c → Acts s t) (k : ¬ c → Acts s u) :
    Acts s (if c then t else u) := by
  split
  · exact h ‹_›
  · exact k ‹_›

/-! ## The journal controller and the coordinator -/

/-- Whether the own shaft is self-held is said by the views and the straps. -/
theorem selfHeld_congr {s t : State} (hv : t.shc.views = s.shc.views) (hs : t.straps = s.straps) :
    selfHeld t = selfHeld s := by
  unfold selfHeld ownView
  rw [hv, hs]

@[simp] theorem Four.get_set_same {α : Type} (f : Four α) (i : Fin 4) (v : α) : (f.set i v).get i = v := by
  fin_cases i <;> rfl

theorem Four.get_set_ne {α : Type} (f : Four α) {i k : Fin 4} (v : α) (h : k ≠ i) : (f.set i v).get k = f.get k := by
  fin_cases i <;> fin_cases k <;> first | rfl | exact absurd rfl h

theorem raiseIfFull_filled (i : Fin 4) (v : View) (age : Timer) (x : W32) (t : Tally) (s : State) :
    raiseIfFull (setView i v age (giveSerial x (setTally s.straps.shf t s))) =
      setView i v age (giveSerial x (raiseIfFull (setTally s.straps.shf t s))) := by
  unfold raiseIfFull
  rw [apply_ite (fun u => setView i v age (giveSerial x u))]
  rfl

theorem tallyRight_get {s : State} (h : TalliesRight s) (i : Fin 4) : tallyRight (s.shc.tallies.get i) := by
  obtain ⟨h0, h1, h2, h3⟩ := h
  fin_cases i <;> assumption

theorem addBag_right (t : Tally) (mass : Nat) : tallyRight (addBag t mass) := ⟨saturate_le _ _, saturate_le _ _⟩

theorem maxMerge_right (t : Tally) (mass count binMass : Nat) (hc : count ≤ countMax) (hm : binMass ≤ massMax) :
    tallyRight (maxMerge t mass count binMass) :=
  ⟨max_le (saturate_le _ _) hc, max_le (saturate_le _ _) hm⟩

theorem freeView_acts (i : Fin 4) (s : State) : Acts s (freeView i s) :=
  .ite (fun _ => (Act.view i .free none s fun _ => ⟨by simp, by simp⟩).acts) fun _ => .refl

theorem releaseShaft_acts (r : ReleaseReason) (s : State) : Acts s (releaseShaft r s) :=
  (Act.view s.straps.shf .free none s fun _ => ⟨by simp, by simp⟩).acts.trans (queueFrame_link _ _).acts

/-- A hold reason raised by its own block. -/
theorem raiseHold_act (r : HoldReason) (s : State) (h : holdMoves r true s) : Act s (raiseHold r s) := .hold r true _ s h

theorem clearHold_act (r : HoldReason) (s : State) (h : holdMoves r false s) : Act s (clearHold r s) :=
  .hold r false s.csq.weighSeen s h

theorem raiseJam_acts (s : State) : Acts s (raiseJam s) :=
  .ite (fun _ => .refl) fun _ => (raiseHold_act .jam s trivial).acts.tail (.ask _ _)

/-- R125, R129: JAM is raised for a shaft that has just become JAMMED, and its record asked for if it was clear. -/
theorem raiseJam_jammed {s u : State} (h : LinkOp (setView s.straps.shf .jammed none s) u) : Acts s (raiseJam u) := by
  have hj := Act.jammed h
  unfold raiseJam
  split
  · next hs =>
    have he : raiseHold .jam u = u := by
      unfold raiseHold
      rw [show u.csq.holds.put .jam true = u.csq.holds by rw [HoldSet.put, ← hs],
        show (HoldReason.jam == HoldReason.weigh) = false from rfl, Bool.false_and, Bool.or_false]
    rw [he] at hj
    exact hj.acts
  · exact hj.acts.tail (.ask _ _)

/-! ## The sequencer: faults, homing, returns, landings -/

/-- R24: FAULT once entered: the hold's end, and the FAULT record. -/
theorem enterFault_chain (r : FaultReason) (u : State) : Acts (faultCore u) (enterFault r u) := by
  unfold enterFault
  dsimp only
  set v := enterState .fault (abandonCheck u.csq.state (stopSequencer { u with rct := u.rct.stop })) with hv
  have hstraps : v.straps = u.straps := by
    rw [hv]; unfold abandonCheck; split <;> rfl
  have hself : selfHeld v = selfHeld u := by
    refine selfHeld_congr ?_ hstraps
    rw [hv]; unfold abandonCheck; split <;> rfl
  have hcore : faultCore u = if selfHeld u then setView u.straps.shf .free none v else v := rfl
  refine Acts.trans ?_ (Act.ask _ _).acts
  unfold endHoldForFault
  rw [hself]
  split
  · next hs =>
    rw [hcore, if_pos hs, ← hstraps]
    exact (queueFrame_link _ _).acts
  · next hs =>
    rw [hcore, if_neg hs]
    exact .ite (fun _ => (giveUpClaim_link v).acts) fun _ => .refl

theorem enterFault_acts {s u : State} (r : FaultReason) (h : Act s (faultCore u)) : Acts s (enterFault r u) :=
  h.acts.trans (enterFault_chain r u)

theorem homeReached_act {s : State} (h : s.csq.state = .home) (hm : s.rct.mode = .stopped) : Act s (homeReached s) := by
  refine .enter _ { s.csq with homeLimit := none } s (.inr ⟨h, hm⟩) ?_ rfl (fun hs _ => hs ?_) ?_
  · split <;> rfl
  · rw [h]; exact .inr rfl
  · split <;> intro h <;> cases h

/-- R7, R25, R26: the entry to HOME from FALL or FAULT. -/
theorem enterHome_acts {s : State} (c : Sequencer) (hf : s.csq.state = .fall ∧ selfHeld s = false ∨ s.csq.state = .fault)
    (hh : c.holds = s.csq.holds) : Acts s (enterHome { s with csq := c }) := by
  rw [enterHome_eq]
  refine .ite (fun _ => enterFault_acts _ (.forced c s hf hh)) fun h => ?_
  have hc : c.hatch = .closed := by
    change ¬ c.hatch = .opened at h
    cases hx : c.hatch with
    | closed => rfl
    | opened => exact absurd hx h
  have hhome := Act.home c s hf hh hc
  refine .ite (fun ha => hhome.acts.tail (homeReached_act rfl ?_)) fun _ => hhome.acts
  change s.rct.homeActive = true at ha
  unfold homeAsked Rotor.goHome
  simp [ha]

/-- R15: a return, in CHECK or CLAIM: changes of the sequencer's record and timers, the RETURN record, and PRESENT. -/
theorem returnBag_chain {R : State → State → Prop} (r : ReturnReason) {s : State} (hq : s.csq.state.quiet = true)
    (hact : ∀ a b, Act a b → R a b)
    (hseq : ∀ u c, u.csq.state = s.csq.state → SameSeq u.csq c → R u { u with csq := c }) :
    Relation.ReflTransGen R s (returnBag r s) := by
  unfold returnBag
  dsimp only
  set u : State := { s with csq := { s.csq with
    bag := { s.csq.bag with reason := some r }, claimWait := none, retry := none, awaiting := none } }
  set v := askBag (returnRecord r s.csq.bag s.straps.shf) u
  have hu : R s u := hseq s _ rfl ⟨rfl, rfl, .inl rfl, rfl, rfl⟩
  have hv : R u v := hact _ _ (.askBag _ u fun h => by
    have : s.csq.state = .start := h
    rw [this] at hq; cases hq)
  have hst : v.csq.state = s.csq.state := by rw [(askBag_op _ u).csq]
  refine (Relation.ReflTransGen.single hu |>.tail hv).tail ?_
  split
  · refine hact _ _ (.enter .present _ v (.inl (by rw [hst]; exact hq)) rfl rfl ?_ ?_)
    · rintro - (h | h) <;> cases h
    · intro h; cases h
  · exact hseq v _ hst ⟨rfl, rfl, .inl rfl, rfl, rfl⟩

theorem returnBag_acts (r : ReturnReason) {s : State} (h : s.csq.state = .claim) : Acts s (returnBag r s) :=
  returnBag_chain r (by rw [h]; rfl) (fun _ _ => id) fun u c hu hc => .seq c u hc fun hk => by
    rw [hu, h] at hk; cases hk

theorem returnBag_fines (r : ReturnReason) {s : State} (h : s.csq.state.quiet = true) : Fines s (returnBag r s) :=
  returnBag_chain r h (fun _ _ => .act) fun u c _ hc => .fill c u hc

theorem selfHeld_setView_own {i : Fin 4} {v : View} {age : Timer} {s : State} (h : i = s.straps.shf) :
    selfHeld (setView i v age s) = (v == .held s.straps.adr) := by
  unfold selfHeld ownView
  simp [h]

/-- R124: the coordinator takes the own landing. -/
theorem takeOwnLanding_acts (s : State) : Acts s (takeOwnLanding s) := by
  unfold takeOwnLanding
  dsimp only
  rw [raiseIfFull_filled]
  exact (((Act.filled _ s fun _ => addBag_right _ _).acts.tail (.serial _ _)).tail
    (.view _ .free none _ fun _ => ⟨by simp, by simp⟩))

/-- R124: the own landing taken leaves the state of the sequencer and no self-held shaft. -/
theorem takeOwnLanding_spec (s : State) :
    (takeOwnLanding s).csq.state = s.csq.state ∧ selfHeld (takeOwnLanding s) = false := by
  unfold takeOwnLanding
  dsimp only
  rw [raiseIfFull_filled]
  refine ⟨?_, ?_⟩
  · unfold raiseIfFull
    split <;> rfl
  · have hk := raiseIfFull_keeps (setTally s.straps.shf (addBag (ownTally s) s.csq.bag.mass.toNat) s)
    exact (selfHeld_setView_own (congrArg Straps.shf hk.straps).symm).trans rfl

/-- R22: the landing is completed, in FALL. -/
theorem completeLanding_acts {s : State} (h : s.csq.state = .fall) : Acts s (completeLanding s) := by
  unfold completeLanding
  dsimp only
  set u : State := { s with csq := { s.csq with landingSettle := none } }
  set bag := s.csq.bag
  set v := askBag (depositRecord bag (ownTally (takeOwnLanding u)).count s.straps.shf) (takeOwnLanding u)
  set w := queueFrame (landedFrame bag (ownTally (takeOwnLanding u)) s.straps.shf) v
  obtain ⟨hst, hself⟩ := takeOwnLanding_spec u
  have hv := askBag_op (depositRecord bag (ownTally (takeOwnLanding u)).count s.straps.shf) (takeOwnLanding u)
  have hw := queueFrame_op (landedFrame bag (ownTally (takeOwnLanding u)) s.straps.shf) v
  have hfall : (takeOwnLanding u).csq.state = .fall := hst.trans h
  have hu : Act s u := .seq _ s ⟨rfl, rfl, .inl rfl, rfl, rfl⟩ fun hc => by rw [h] at hc; cases hc
  have huv : Act (takeOwnLanding u) v := .askBag _ _ (by rw [hfall]; simp)
  refine (((hu.acts.trans (takeOwnLanding_acts u)).tail huv).tail (.link (queueFrame_link _ _))).trans
    (enterHome_acts _ (.inl ⟨?_, ?_⟩) rfl)
  · rw [hw.csq]
    show v.csq.state = _
    rw [hv.csq]
    exact hfall
  · rw [selfHeld_congr (hw.views.trans hv.views) (hw.straps.trans hv.straps), hself]

/-- R21: FALL once entered: the fall window, or the landing that was taken in TURN. -/
theorem enterFall_acts {s u : State}
    (h : Act s (enterState .fall { u with csq := { u.csq with turnLimit := none } })) : Acts s (enterFall u) := by
  unfold enterFall
  dsimp only
  refine .ite (fun _ => h.acts.tail (.seq _ _ ⟨rfl, rfl, .inl rfl, rfl, rfl⟩ fun hc => by cases hc)) fun _ =>
    .ite (fun _ => h.acts.trans (completeLanding_acts rfl)) fun _ => h.acts

theorem enterTurn_acts {s : State} (h : s.csq.state = .claim) : Acts s (enterTurn s) := by
  rw [enterTurn_eq]
  exact .ite (fun hw => enterFall_acts (.dropped _ s h hw rfl rfl)) fun hw => (Act.turned s h hw).acts

/-! ## The claim's outcomes -/

theorem takeBusyRefusal_acts {s : State} (h : s.csq.state = .claim) : Acts s (takeBusyRefusal s) := by
  unfold takeBusyRefusal
  split
  · exact (startRetry_link s).acts
  · exact returnBag_acts _ h

theorem takeGrant_acts {s : State} (h : s.csq.state = .claim) : Acts s (takeGrant s) := by
  unfold takeGrant
  dsimp only
  set u : State := { s with csq := { s.csq with claimWait := none, retry := none, awaiting := none } }
  have hu : Act s u := .seq _ s ⟨rfl, rfl, .inl rfl, rfl, rfl⟩ fun hc => by rw [h] at hc; cases hc
  refine hu.acts.trans (.ite (fun _ => (releaseShaft_acts _ u).trans (returnBag_acts _ ?_)) fun _ => enterTurn_acts h)
  unfold releaseShaft
  rw [(queueFrame_op _ _).csq]
  exact h

theorem claimStillSought_state {s : State} (h : claimStillSought s = true) : s.csq.state = .claim := by
  simp only [claimStillSought, Bool.and_eq_true, beq_iff_eq] at h
  exact h.1

theorem claimOutcome_acts (slot : SlotLevels) (s : State) : Acts s (claimOutcome slot s) := by
  unfold claimOutcome
  refine (claimIdle_link s).acts.trans (.ite (fun hc => ?_) fun _ => .ite (fun _ => releaseShaft_acts _ _) fun _ => .refl)
  have h := claimStillSought_state hc
  exact .ite (fun _ => returnBag_acts _ h) fun _ => .ite (fun _ => takeBusyRefusal_acts h) fun _ => takeGrant_acts h

theorem claimBack_acts {back : State → State} {s : State} (hb : LinkOp s (back s)) : Acts s (claimBack back s) := by
  unfold claimBack
  have hw := (withdrawClaim_link s).trans (claimIdle_link _)
  refine .ite (fun hc => ?_) fun _ => hw.acts
  split
  · exact hb.acts
  · refine hw.acts.trans (returnBag_acts _ ?_)
    rw [hw.csq]
    exact claimStillSought_state hc

theorem claimDropped_acts (s : State) : Acts s (claimDropped s) := by
  unfold claimDropped
  exact (claimIdle_link s).acts.trans
    (.ite (fun hc => by have h := claimStillSought_state hc; exact takeBusyRefusal_acts h) fun _ => .refl)

theorem abandonClaim_acts (c : AwaitCause) {s : State} (h : s.csq.state = .claim) : Acts s (abandonClaim c s) := by
  unfold abandonClaim
  refine .ite (fun _ => ?_) fun _ => (giveUpClaim_link s).acts.trans (returnBag_acts _ ?_)
  · exact Act.acts (.seq _ s ⟨rfl, rfl, .inl rfl, rfl, rfl⟩ fun hc => by rw [h] at hc; cases hc)
  · rw [(giveUpClaim_op s).csq]
    exact h

/-! ## The end of CHECK -/

theorem Fines.ite {c : Prop} [Decidable c] {s t u : State} (h : c → Fines s t) (k : ¬ c → Fines s u) :
    Fines s (if c then t else u) := by
  split
  · exact h ‹_›
  · exact k ‹_›

theorem enterHoldState_act {s : State} (h : s.csq.state = .check) :
    Act s (enterState (if s.csq.holds.isEmpty then .idle else .held) s) := by
  refine .enter _ s.csq s (.inl (by rw [h]; rfl)) (by split <;> rfl) rfl (fun hs _ => hs ?_) (by split <;> simp)
  rw [h]
  exact .inr rfl

theorem enterClaim_fines {s : State} (h : s.csq.state = .check) : Fines s (enterClaim s) := by
  refine (Act.fines ?_).trans (requestClaim_link _ _).acts.fines
  refine .enter .claim _ s (.inl (by rw [h]; rfl)) rfl rfl (fun hs _ => hs ?_) (by simp)
  rw [h]
  exact .inr rfl

theorem checkRules_fines (mass : Nat) (overRange unstable : Bool) {s : State} (h : s.csq.state = .check) :
    Fines s (checkRules mass overRange unstable s) := by
  have hr (r : ReturnReason) : Fines s (returnBag r s) := returnBag_fines r (by rw [h]; rfl)
  unfold checkRules
  refine .ite (fun _ => (enterHoldState_act h).fines) fun _ => .ite (fun _ => hr _) fun _ => .ite (fun _ => hr _) fun _ => ?_
  split
  · next serial f _ _ =>
    refine .ite (fun _ => hr _) fun _ => .ite (fun _ => hr _) fun _ => ?_
    have hfill := Fine.fill { s.csq with bag := { s.csq.bag with flags := checkFlags s mass unstable f } } s
      ⟨rfl, rfl, .inl rfl, rfl, rfl⟩
    exact .head hfill (enterClaim_fines h)
  · exact hr _
  · exact hr _

theorem checkOrder_fines (w : WeighOutcome) {s : State} (h : s.csq.state = .check) : Fines s (checkOrder w s) := by
  unfold checkOrder
  dsimp only
  set u : State := { s with csq := { s.csq with
    weighed := none, tagEnded := false, bag := fillBag s.csq.bag w s.tgi.readSet s.tgi.firstRead } }
  have hu : Fines s u := .fill _ s ⟨rfl, rfl, .inl rfl, rfl, rfl⟩
  have hr (r : ReturnReason) : Fines u (returnBag r u) := returnBag_fines r (by rw [show u.csq.state = _ from h]; rfl)
  split
  · exact hu.trans (hr _)
  · refine hu.trans (Fines.ite (fun _ => hr _) fun _ => ?_)
    exact checkRules_fines _ _ _ h

end Sys2Proof.Machine
end

section
/-! PROOFS. The effect of every command on the running part as operations of `Act`: the drum, the hatch, the weigh channel,
the tag input, the link and the frames taken. -/

namespace Sys2Proof.Machine

/-! ## What may come first, and what comes last -/

/-- What a command does before its operations, where the journal controller has work to judge again, a frame completes or
the hatch opens. -/
inductive Front (c : Instr) (s : State) : State → Prop
  | refl : Front c s s
  | taken : Front c s (takeRx s)
  | marked (m : W32) (req : RecordReq) (h : s.jnc.auditMark.toNat < m.toNat) :
      Front c s (giveArray (askGeneral req { takeRx s with jnc := { s.jnc with auditMark := m } }))
  | waits (req : ReadReq) (h : s.jnc.array ≠ .idle) :
      Front c s { takeRx s with jnc := { s.jnc with pendingRead := some req } }
  | received (j : Judged) (h : s.lkc.reception = .judged j) (hr : j.take.isSome = true → s.lkc.rx.length < 4) :
      Front c s (pushRx j.take (judgeClash j (toSettling s)))
  | claimed (j : Judged) (i : Fin 4) (age : Timer) (h : s.lkc.reception = .judged j)
      (hr : j.take.isSome = true → s.lkc.rx.length < 4) (hc : j.claimShaft ≠ none) (hd : j.driveA = false) :
      Front c s (setView i (.held (j.frame.source.setWidth 4)) age
        (pushRx j.take (judgeClash j (toSettling s))))
  | written (hc : c = .programCompletion) (h : s.jnc.array = .program) : Front c s (programDone s)
  | erased (page : Nat) (hc : c = .eraseCompletion) (h : s.jnc.array = .erase page) :
      Front c s (giveArray (judgeFull (pageErased page s)))
  | info (offset : Byte) (data : List Byte) (hc : c = .infoCompletion) (h : s.jnc.array = .info offset data) :
      Front c s (giveArray (infoWritten offset data s))
  | warned (h : s.supply.level = .normal) : Front c s (raiseHold .power (setLevel .warn s))
  | restored (h : s.supply.level = .warn) : Front c s (restoredEffect (setLevel .normal s))
  | opened (hc : c = .hatchOpening) : Front c s { s with csq := { s.csq with hatch := .opened } }

/-- What a command does in the end: nothing more, or CHECK ends with its outcome (R12, R13). -/
inductive Tail (s : State) : State → Prop
  | refl : Tail s s
  | check (w : WeighOutcome) (h : s.csq.state = .check) : Tail s (checkOrder w s)

/-- The effect of a command on the running part. -/
def Effect (c : Instr) (s t : State) : Prop := ∃ a b, Front c s a ∧ Acts a b ∧ Tail b t

theorem Tail.fines {s t : State} (h : Tail s t) : Fines s t := by
  cases h with
  | refl => exact .refl
  | check w h => exact checkOrder_fines w h

theorem Effect.of_acts {c : Instr} {s t : State} (h : Acts s t) : Effect c s t := ⟨s, t, .refl, h, .refl⟩

theorem Effect.of_front {c : Instr} {s a t : State} (h : Front c s a) (k : Acts a t) : Effect c s t := ⟨a, t, h, k, .refl⟩

theorem Effect.refl {c : Instr} {s : State} : Effect c s s := .of_acts .refl

/-- A guarded effect. -/
theorem Effect.ite {p : Prop} [Decidable p] {c : Instr} {s t : State} (h : p → Effect c s t) :
    Effect c s (if p then t else s) := by
  split
  · exact h ‹_›
  · exact .refl

/-- A command that takes the frame at the head of the receive queue. -/
theorem Effect.taken {c : Instr} {s t : State} (h : Acts (takeRx s) t) : Effect c s t := .of_front .taken h

/-! ## The drum and the landing beam -/

theorem MotorRight.stop (s : State) : MotorRight { s with rct := s.rct.stop } := by
  refine ⟨?_, ?_, ?_, fun _ => ?_⟩ <;> simp [Rotor.stop, Rotor.cutRun]
  split <;> simp_all

theorem MotorRight.congr {s t : State} (h : MotorRight s) (hst : t.csq.state = s.csq.state)
    (hm : t.rct.mode = s.rct.mode) (hr : t.rct.mrun = s.rct.mrun) (hd : t.rct.mdir = s.rct.mdir) : MotorRight t := by
  unfold MotorRight
  rw [hst, hm, hr, hd]
  exact h

/-- An operation of the rotor counter that leaves the mode and the motor lines. -/
theorem drumStep_act {s : State} {r : Rotor} (hm : r.mode = s.rct.mode) (hr : r.mrun = s.rct.mrun)
    (hd : r.mdir = s.rct.mdir) : Act s { s with rct := r } := .drum r s fun h => h.congr rfl hm hr hd

theorem drumStop_act (s : State) : Act s { s with rct := s.rct.stop } := .drum _ s fun _ => .stop s

theorem reverseTravel_acts (s : State) : Acts s (reverseTravel s) := by
  unfold reverseTravel
  refine (drumStop_act s).acts.trans (.ite (fun h => enterFault_acts _ (.fault _ ?_)) fun _ => .refl)
  rcases h with h | h <;> simp [h]

theorem encoderError_acts (s : State) : Acts s (encoderError s) := by
  unfold encoderError
  refine (drumStop_act s).acts.trans (.ite (fun h => enterFault_acts _ (.fault _ ?_)) fun _ => .refl)
  rcases h with h | h | h <;> simp [h]

theorem cutRun_mrun (r : Rotor) : r.cutRun.mrun ≠ .high := by
  unfold Rotor.cutRun
  split <;> simp_all

theorem dropCompare_acts {s : State} (h : s.rct.mode = .forward) : Acts s (dropCompare s) := by
  unfold dropCompare
  dsimp only
  split
  · next ht => exact enterFall_acts (.fall (s.rct.dropMatch s.nck.clock) _ s ht rfl (cutRun_mrun _) rfl rfl)
  · next ht => exact (Act.drum _ s fun hm => absurd (hm.1 h).1 ht).acts

theorem compareDrop_acts (s : State) : Acts s (compareDrop s) := .ite (fun h => dropCompare_acts h.1) fun _ => .refl

theorem forwardStep_acts (s : State) : Acts s (forwardStep s) := by
  unfold forwardStep
  dsimp only
  refine (drumStep_act ?_ ?_ ?_).acts.trans (compareDrop_acts _) <;> split <;> rfl

theorem reverseStep_acts (s : State) : Acts s (reverseStep s) := by
  unfold reverseStep
  exact (drumStep_act (r := s.rct.stepReverse) rfl rfl rfl).acts.trans
    (.ite (fun _ => reverseTravel_acts _) fun _ => compareDrop_acts _)

theorem encoderSample_acts (p : EncPair) (s : State) : Acts s (encoderSample p s) := by
  unfold encoderSample
  have h : Acts s { s with rct := { s.rct with encRef := p } } := .single (drumStep_act rfl rfl rfl)
  refine .ite (fun _ => .refl) fun _ => .ite (fun _ => h.trans (forwardStep_acts _)) fun _ =>
    .ite (fun _ => h.trans ?_) fun _ => h.trans (reverseStep_acts _)
  exact .ite (fun _ => .refl) fun _ => encoderError_acts _

theorem homeSwitchOn_acts (s : State) : Acts s (homeSwitchOn s) := by
  unfold homeSwitchOn
  have h : Acts s { s with rct := s.rct.preset } := .single (drumStep_act rfl rfl rfl)
  refine .ite (fun _ => ?_) fun _ => h
  have hs := h.tail (drumStop_act _)
  exact .ite (fun hh => hs.tail (homeReached_act hh rfl)) fun _ => hs

theorem deadTimeOver_act (s : State) : Act s { s with rct := s.rct.deadTimeOver } := by
  refine .drum _ s fun hm => ?_
  have hmode : s.rct.deadTimeOver.mode = s.rct.mode := by unfold Rotor.deadTimeOver; split <;> rfl
  have hdir : s.rct.deadTimeOver.mdir = s.rct.mdir := by unfold Rotor.deadTimeOver; split <;> rfl
  have hrun : s.rct.mode = .watch ∨ s.rct.mode = .stopped → s.rct.deadTimeOver.mrun = s.rct.mrun := by
    intro h
    unfold Rotor.deadTimeOver
    dsimp only
    rw [if_neg (by rcases h with h | h <;> simp [h])]
  obtain ⟨h1, h2, h3, h4⟩ := hm
  unfold MotorRight
  dsimp only
  rw [hmode, hdir]
  exact ⟨h1, fun h => by rw [hrun (.inl h)]; exact h2 h, h3, fun h => by rw [hrun (.inr h)]; exact h4 h⟩

theorem beamBreaks_acts (s : State) : Acts s (beamBreaks s) := by
  unfold beamBreaks
  set u : State := { s with ldi := { s.ldi with beamActive := true } }
  have hu : Act s u := .landing _ s id
  refine hu.acts.trans (.ite (fun _ => ?_) fun _ => .refl)
  refine (Act.landing { u.ldi with capture := some u.nck.clock, buffer := u.ldi.capture } u id).acts.trans ?_
  unfold attributeLanding
  split
  · refine .ite (fun _ => ?_) fun _ => .refl
    unfold ownLanding
    refine (Act.landing { u.ldi with
      capture := some u.nck.clock, buffer := u.ldi.capture, count := saturate 255 (u.ldi.count + 1) } _
      fun _ => saturate_le _ _).acts.trans (.ite (fun hs => ?_) fun _ => .refl)
    have hseq (c : Sequencer) (v : State) (hv : v.csq.state = .turn ∨ v.csq.state = .fall) (hc : SameSeq v.csq c) :
        Acts v { v with csq := c } := (Act.seq c v hc fun h => by rw [h] at hv; simp at hv).acts
    refine .ite (fun _ => hseq _ _ hs ⟨rfl, rfl, .inl rfl, rfl, rfl⟩) fun _ => ?_
    exact .ite (fun _ => .refl) fun _ => hseq _ _ hs ⟨rfl, rfl, .inl rfl, rfl, rfl⟩
  · exact (Act.ask _ _).acts
  · exact (Act.ask _ _).acts

/-! ## The movement timers -/

/-- R21, R125: the fall window ends, in FALL. -/
theorem fallWindowOver_acts {s : State} (h : s.csq.state = .fall) : Acts s (fallWindowOver s) := by
  unfold fallWindowOver
  dsimp only
  set bag : PendingBag := { s.csq.bag with fall := 0xFFFF, flags := { s.csq.bag.flags with notLanded := true } }
  set u : State := { s with csq := { s.csq with bag := bag, fallWindow := none } }
  have hu : Act s u := .seq _ s ⟨rfl, rfl, .inl rfl, rfl, rfl⟩ fun hc => by rw [h] at hc; cases hc
  set v := askBag (depositRecord bag (ownTally s).count s.straps.shf) u
  have hv : JournalOp u v := askBag_op _ _
  have huv : Act u v := .askBag _ u (by simp [u, h])
  have hstraps : v.straps = s.straps := hv.straps
  set w := queueFrame (.jam s.straps.shf) (setView s.straps.shf .jammed none v)
  have hw : LinkOp (setView v.straps.shf .jammed none v) w := by rw [hstraps]; exact queueFrame_link _ _
  have hj := raiseJam_keeps w
  have hstate : (raiseJam w).csq.state = .fall := by
    have hwf : w.csq.state = .fall := by
      rw [hw.csq]
      show v.csq.state = _
      rw [hv.csq]
      exact h
    unfold raiseJam
    split
    · exact hwf
    · rw [(askGeneral_op _ _).csq]
      exact hwf
  have hview : (raiseJam w).shc.views = w.shc.views := by
    unfold raiseJam
    split
    · rfl
    · exact (askGeneral_op _ _).views
  refine ((hu.acts.tail huv).trans (raiseJam_jammed hw)).trans (enterHome_acts _ (.inl ⟨hstate, ?_⟩) rfl)
  rw [selfHeld_congr hview hj.straps, selfHeld_congr hw.views hw.straps, selfHeld_setView_own rfl]
  rfl

theorem settleTimeOver_acts (s : State) : Acts s (settleTimeOver s) := by
  unfold settleTimeOver
  refine .ite (fun h => completeLanding_acts h) fun _ => ?_
  exact .single (.seq _ s ⟨rfl, rfl, .inl rfl, rfl, rfl⟩ fun _ => ⟨rfl, rfl⟩)

/-! ## The hatch, the weigh channel and the tag input -/

theorem requestWeighing_acts (s : State) : Acts s (requestWeighing s) := by
  unfold requestWeighing
  have hw (n : Timer) (a : WeighActivity) (ha : a ≠ .tare) :
      Act s { s with wch := { s.wch with activity := a, window := [], settle := n } } :=
    .weigh _ s (fun ⟨_, h2, h3, h4, h5, h6⟩ => ⟨by simp, h2, h3, h4, h5, h6⟩) fun _ he => absurd he ha
  refine .ite (fun _ => ?_) fun _ => (hw _ _ (by simp)).acts
  exact (hw none .idle (by simp)).acts.tail (.seq _ _ ⟨rfl, rfl, .inl rfl, rfl, rfl⟩ fun _ => ⟨rfl, rfl⟩)

/-- R12: the entry to CHECK from OPEN, with the hatch shut. -/
theorem hatchCloses_acts (s : State) : Acts s (hatchCloses s) := by
  unfold hatchCloses
  refine .ite (fun h => ?_) fun _ => .single (.seq _ s ⟨rfl, rfl, .inr rfl, rfl, rfl⟩ fun _ => ⟨rfl, rfl⟩)
  unfold enterCheck
  have he : Act s (enterState .check { s with csq := { s.csq with
      hatch := .closed, bag := PendingBag.absent, weighSeen := s.csq.holds.weigh, weighed := none, tagEnded := false } }) :=
    .enter .check _ s (.inl (by rw [h]; rfl)) rfl rfl (fun _ _ => rfl) fun _ => rfl
  refine (he.acts.trans (requestWeighing_acts _)).tail ?_
  exact .tags _ _ id fun _ => ⟨by simp, by simp⟩

theorem judgeCheckEnd_tail (s : State) : Tail s (judgeCheckEnd s) := by
  unfold judgeCheckEnd
  split
  · next h =>
    split
    · exact .refl
    · next w _ => exact .check w h.1
  · exact .refl

theorem endWeighing_effect {c : Instr} {s u : State} (o : WeighOutcome)
    (h : Acts s { u with wch := { u.wch with activity := .idle, window := [], settle := none } }) :
    Effect c s (endWeighing o u) := by
  refine ⟨s, _, .refl, ?_, judgeCheckEnd_tail _⟩
  exact h.tail (.seq { u.csq with weighed := some o } _ ⟨rfl, rfl, .inl rfl, rfl, rfl⟩ fun _ => ⟨rfl, rfl⟩)

/-- An operation of the weigh channel that leaves the window empty and no tare check in progress. -/
theorem weighIdle_act {s : State} {w : Weigh} (hw : w.window = []) (ha : w.activity ≠ .tare)
    (ht : s.wch.t16 ≤ 1048560 → w.t16 ≤ 1048560) (hg : s.wch.goodRun ≤ 3 → w.goodRun ≤ 3)
    (hb : s.wch.badRun ≤ 3 → w.badRun ≤ 3)
    (hn : 1 ≤ s.wch.windowNumber ∧ s.wch.windowNumber ≤ 4 → 1 ≤ w.windowNumber ∧ w.windowNumber ≤ 4) :
    Act s { s with wch := w } :=
  .weigh w s (fun ⟨_, h2, h3, h4, h5, h6⟩ => ⟨by simp [hw], ht h2, hg h3, hb h4, (hn ⟨h5, h6⟩).1, (hn ⟨h5, h6⟩).2⟩)
    fun _ he => absurd he ha

/-- R42: a good tare check keeps T16 within the sums of a window: a step stays between the old and the new value. -/
theorem tareStep_le {t16 sum m : Nat} (ht : t16 ≤ m) (hs : sum ≤ m) : tareStep t16 sum ≤ m := by
  unfold tareStep
  rcases le_total t16 sum with h | h
  · have h1 : Int.tdiv ((sum : Int) - t16) 8 ≤ (sum : Int) - t16 := Int.tdiv_le_self _ (by omega)
    omega
  · have h1 : Int.tdiv ((sum : Int) - t16) 8 ≤ 0 := by
      rw [show (sum : Int) - t16 = -((t16 : Int) - sum) by ring, Int.neg_tdiv]
      have := Int.tdiv_nonneg (a := (t16 : Int) - sum) (b := 8) (by omega) (by omega)
      omega
    omega

theorem windowSum_le (w : List W16) : windowSum w ≤ 65535 * w.length := by
  induction w with
  | nil => simp [windowSum]
  | cons x rest ih =>
    have := x.isLt
    simp only [windowSum, List.length_cons]
    omega

/-- R41 to R44: the complete window of a tare check is judged. -/
theorem tareWindow_acts {w : List W16} {s : State} (k : Weigh) (hw : w.length = 16) (ht : k.t16 = s.wch.t16)
    (hn : k.windowNumber = s.wch.windowNumber) :
    Acts s (tareWindow w { s with wch := k }) := by
  have hsum : windowSum w ≤ 1048560 := by have := windowSum_le w; omega
  unfold tareWindow
  refine .ite (fun _ => ?_) fun _ => ?_
  · have h : Act s { s with wch := goodCheck (windowSum w) k } := by
      refine weighIdle_act rfl (by simp [goodCheck]) (fun h => ?_) (fun _ => saturate_le _ _) (fun _ => Nat.zero_le _)
        (by simp [goodCheck, hn])
      simp only [goodCheck]
      split
      · exact hsum
      · exact tareStep_le (by omega) hsum
    exact .ite (fun _ => h.acts.tail (clearHold_act .zero _ trivial)) fun _ => h.acts
  · have h : Act s { s with wch := badCheck k } :=
      weighIdle_act rfl (by simp [badCheck]) (by simp [badCheck, ht]) (fun _ => Nat.zero_le _) (fun _ => saturate_le _ _)
        (by simp [badCheck, hn])
    exact .ite (fun _ => (h.acts.tail (raiseHold_act .zero _ trivial)).tail (.ask _ _)) fun _ => h.acts

/-- R35, R37: the complete window of a weighing ends it or is set aside. -/
theorem weighWindow_effect {c : Instr} {w : List W16} {s : State} (k : Weigh) (ht : k.t16 = s.wch.t16)
    (hg : k.goodRun = s.wch.goodRun) (hb : k.badRun = s.wch.badRun)
    (hn : k.windowNumber = s.wch.windowNumber)
    (ha : k.activity = .weighing) : Effect c s (weighWindow w { s with wch := k }) := by
  unfold weighWindow
  dsimp only
  split
  · refine endWeighing_effect _ (.single ?_)
    exact weighIdle_act rfl (by simp) (by simp [ht]) (by simp [hg]) (by simp [hb]) (by simp [hn])
  · next h =>
    refine .of_acts (.single ?_)
    exact weighIdle_act rfl (by simp [ha]) (by simp [ht]) (by simp [hg]) (by simp [hb]) (by dsimp only; omega)

/-- R33: a sample taken into a window. -/
theorem gatherSample_effect {c : Instr} (v : W16) (x : Option Byte) (y z : Timer) (s : State) :
    Effect c s (gatherSample v { s with wch := { s.wch with heldByte := x, gap := y, recovery := z } }) := by
  have hjoin (h : (s.wch.window ++ [v]).length ≠ 16) : Act s { s with wch := { s.wch with
      heldByte := x, gap := y, recovery := z, window := s.wch.window ++ [v] } } :=
    .weigh _ s (fun ⟨h1, h2⟩ => ⟨by simp at h ⊢; omega, h2⟩) id
  unfold gatherSample
  dsimp only
  split
  · next ha =>
    split
    · exact weighWindow_effect _ rfl rfl rfl rfl ha
    · next h => exact .of_acts (hjoin h).acts
  · split
    · next h => exact .of_acts (tareWindow_acts _ h rfl rfl)
    · next h => exact .of_acts (hjoin h).acts
  · exact .of_acts (.single (.weigh _ s id id))
  · exact .of_acts (.single (.weigh _ s id id))

theorem weighByte_effect {c : Instr} (b : Byte) (framingError late : Bool) (s : State) :
    Effect c s (weighByte b framingError late s) := by
  have hheld (x : Option Byte) : Effect c s (holdByte x s) := .of_acts (.single (.weigh _ s id id))
  unfold weighByte
  split
  · exact hheld none
  · split
    · exact hheld _
    · split
      · exact hheld _
      · exact gatherSample_effect _ _ _ _ s

theorem sampleGap_effect {c : Instr} (s : State) : Effect c s (sampleGap s) := by
  unfold sampleGap
  have hw : Act s { s with wch := { s.wch with
      gap := none, recovery := none, window := [], settle := none, activity := .idle } } :=
    weighIdle_act rfl (by simp) id id id id
  have h := hw.acts.tail (raiseHold_act .weigh _ trivial)
  dsimp only
  split
  · exact endWeighing_effect _ h
  · exact .of_acts h

theorem weighRecovered_acts (s : State) : Acts s (weighRecovered s) :=
  (Act.weigh { s.wch with recovery := none } s id id).acts.tail (clearHold_act .weigh _ trivial)

theorem settleOver_act (s : State) : Act s (settleOver s) :=
  weighIdle_act rfl (by simp) id id id fun _ => ⟨le_rfl, by simp⟩

theorem tareBegins_act (s : State) : Act s (tareBegins s) :=
  .weigh _ s (fun ⟨_, h2⟩ => ⟨by simp, h2⟩) fun _ _ => rfl

/-! ## The tag input -/

/-- R52: the read set takes at most two distinct serials. -/
theorem takeRead_reads (t : TagInput) (serial : W32) (read : FirstRead) (h : t.readSet.length ≤ 2 ∧ t.readSet.Nodup) :
    (t.takeRead serial read).readSet.length ≤ 2 ∧ (t.takeRead serial read).readSet.Nodup := by
  unfold TagInput.takeRead
  split
  · exact ⟨by simp, by simp⟩
  · split
    · exact h
    · next hne => exact ⟨by simp, by simpa using hne⟩
  · exact h

theorem takeRead_buffer (t : TagInput) (serial : W32) (read : FirstRead) :
    (t.takeRead serial read).buffer = t.buffer := by
  unfold TagInput.takeRead
  split
  · rfl
  · split <;> rfl
  · rfl

theorem tagByte_act (b : Byte) (framingError : Bool) (s : State) :
    Act s { s with tgi := s.tgi.byte b framingError } := by
  have hjudge (buf : List Byte) : (s.tgi.judge buf).buffer = [] ∧
      (s.tgi.readSet.length ≤ 2 ∧ s.tgi.readSet.Nodup →
        (s.tgi.judge buf).readSet.length ≤ 2 ∧ (s.tgi.judge buf).readSet.Nodup) := by
    unfold TagInput.judge
    split
    · exact ⟨takeRead_buffer _ _ _, fun h => takeRead_reads _ _ _ h⟩
    · exact ⟨rfl, id⟩
  refine .tags _ s (fun h => ?_) fun h => ?_
  · unfold TagInput.byte
    split
    · split
      · exact h
      · split
        · simp
        · exact h
    · split
      · simp [TagInput.toHunt]
      · dsimp only
        split
        · rw [(hjudge _).1]; simp
        · next h12 => simp only [List.length_append, List.length_singleton] at h12 ⊢; omega
  · unfold TagInput.byte
    split
    · split
      · exact h
      · split <;> exact h
    · split
      · exact h
      · dsimp only
        split
        · exact (hjudge _).2 h
        · exact h

theorem tagWindowEnds_effect {c : Instr} (s : State) : Effect c s (tagWindowEnds s) := by
  refine ⟨s, _, .refl, ?_, judgeCheckEnd_tail _⟩
  have h : Act s { s with tgi := { s.tgi with windowOpen := false, windowTimer := none } } := .tags _ s id id
  exact h.acts.tail (.seq { s.csq with tagEnded := true } _ ⟨rfl, rfl, .inl rfl, rfl, rfl⟩ fun _ => ⟨rfl, rfl⟩)

end Sys2Proof.Machine
end

section
/-! PROOFS. The effect of every command on the running part as operations of `Act`: the link, the frames taken and the
supply. Every command answers one of the outcomes of `Course`. -/

namespace Sys2Proof.Machine

/-! ## The link lines -/

theorem loseContention_acts {read : List Bool} (e : TxEntry) (s : State) : Acts s (loseContention read e s) := by
  unfold loseContention
  have h := (toReceiving_link (r := .bits read) (by simp) s).trans (entryBack_link _)
  exact h.acts.trans (.ite (fun _ => claimBack_acts (queuedAfterLoss_link _)) fun _ => .refl)

theorem readZero_acts (e : TxEntry) (s : State) : Acts s (readZero e s) := by
  unfold readZero
  split
  · exact .ite (fun _ => loseContention_acts e s) fun _ => .refl
  · exact .refl
  · exact .refl
  · exact .refl

theorem requeueStalled_acts (e : TxEntry) (s : State) : Acts s (requeueStalled e s) := by
  unfold requeueStalled
  exact (setAttempts_link _ _ s).acts.trans (.ite (fun _ => claimBack_acts (judgeBack_link _)) fun _ => .refl)

theorem dropStalled_acts (e : TxEntry) (s : State) : Acts s (dropStalled e s) := by
  unfold dropStalled
  exact ((without_link e.age s).trans (dropped_link _)).acts.trans (.ite (fun _ => claimDropped_acts _) fun _ => .refl)

theorem abandonFrame_acts (e : TxEntry) (s : State) : Acts s (abandonFrame e s) := by
  unfold abandonFrame
  have h := (toReceiving_link (r := .absent) (by simp) s).trans (entryBack_link _)
  exact h.acts.trans (.ite (fun _ => requeueStalled_acts e _) fun _ => dropStalled_acts e _)

theorem asTransmitter_acts {f : TxEntry → State → State} {s : State} (h : ∀ e, Acts s (f e s)) :
    Acts s (asTransmitter f s) := by
  unfold asTransmitter
  refine .ite (fun _ => ?_) fun _ => .refl
  split
  · exact h _
  · exact .refl

theorem completeFrame_acts (slot : SlotLevels) (e : TxEntry) (s : State) : Acts s (completeFrame slot e s) := by
  unfold completeFrame
  refine (((toSettling_link s).trans (entryBack_link _)).trans (without_link e.age _)).acts.trans ?_
  unfold reportCompleted
  split
  · exact claimOutcome_acts slot _
  · exact (Act.clock _ _).acts
  all_goals exact .refl

theorem foreignStartMark_acts (s : State) : Acts s (foreignStartMark s) := by
  have h := ((judgeLost_link s).trans (toReceiving_link (r := .bits []) (by simp) _)).acts
  unfold foreignStartMark
  split
  · exact .refl
  · exact h
  · exact h
  · exact h
  · exact asTransmitter_acts fun e => abandonFrame_acts e s

theorem holdIfFull_acts (kind source dest : Byte) (rest : List Byte) (s : State) :
    Acts s (holdIfFull kind source dest rest s) := by
  unfold holdIfFull
  refine .ite (fun _ => ?_) fun _ => .refl
  dsimp only
  split
  · exact .ite (fun _ => (Act.holdClock s _ (by simp)).acts) fun _ => .refl
  · next j hj => exact .ite (fun _ => (Act.holdClock s _ fun k hk => hj.trans hk).acts) fun _ => .refl
  · exact .refl
  · exact .refl

theorem receptionOf_judged {s : State} {bits : List Bool} {j : Judged} (h : receptionOf s bits = .judged j) :
    ∃ f, j = judgeFrame s f := by
  unfold receptionOf at h
  split at h
  · cases h
  · split at h
    · next f _ => exact ⟨f, (Reception.judged.inj h).symm⟩
    · cases h

theorem readAsSent_link (more : List Bool) (e : TxEntry) (s : State) : LinkOp s (readAsSent more e s) := by
  unfold readAsSent
  split
  · refine .ite (fun _ => ?_) fun _ => .refl s
    exact .of_lkc (.refl _) rfl rfl rfl (fun h k => k.2.2.2 h) (.inl rfl) fun j h => by cases h
  · exact .refl s
  · exact .refl s
  · exact .refl s

theorem takeBits_acts (more : List Bool) (s : State) : Acts s (takeBits more s) := by
  unfold takeBits
  split
  · unfold receiveBits
    split
    · exact (Act.receive s _ fun j => receptionOf_judged).acts
    · exact .refl
  · exact asTransmitter_acts fun e => (readAsSent_link more e s).acts
  all_goals exact .refl

/-- R96, R123: a clean slot of a CLAIM has not been objected to by this station. -/
theorem takeCleanSlot_cases (j : Judged) (b : Byte) (others : SlotLevels) (s : State) :
    takeCleanSlot b j.frame.source (readSlot j others) s = s ∨
    j.driveA = false ∧ ∃ i, takeCleanSlot b j.frame.source (readSlot j others) s =
      watchClaim s (setView i (.held (j.frame.source.setWidth 4)) (some s.cfg.holdLimit) s) := by
  unfold takeCleanSlot
  split
  · exact .inl rfl
  · next i _ =>
    split
    · next h =>
      simp only [readSlot, Bool.and_eq_true, Bool.not_eq_true'] at h
      exact .inr ⟨h.1.1.2, i, rfl⟩
    · exact .inl rfl

theorem endMarkSeen_effect {c : Instr} (slot : Option SlotLevels) {s : State} (hb : endMarkBarred s = false) :
    Effect c s (endMarkSeen slot s) := by
  unfold endMarkSeen
  split
  · next j others hj =>
    have hr (ht : j.take.isSome = true) : s.lkc.rx.length < 4 := by simpa [endMarkBarred, hj, ht] using hb
    have hrec : Effect c s (pushRx j.take (judgeClash j (toSettling s))) := .of_front (.received j hj hr) .refl
    unfold completeReception
    dsimp only
    split
    · exact hrec
    · next b hclaim =>
      rcases takeCleanSlot_cases j b others (pushRx j.take (judgeClash j (toSettling s))) with h | ⟨hd, i, h⟩
      · rw [h]; exact hrec
      · rw [h]
        exact .of_front (.claimed j i _ hj hr (by simp [hclaim]) hd) (watchClaim_link _ _).acts
  · exact .of_acts (toSettling_link s).acts

theorem overlong_acts (s : State) : Acts s
    (match s.lkc.phase, s.lkc.reception with
     | .receiving, .judged _ => { s with lkc := { s.lkc with reception := .followed } }
     | _, _ => s) := by
  split
  · exact LinkOp.acts (.of_lkc (.refl _) rfl rfl rfl (fun h k => k.2.2.2 h) (.inl rfl) fun j h => by cases h)
  · exact .refl

/-! ## The frames taken -/

theorem takeJam_acts (shaft : Byte) (s : State) : Acts s (takeJam shaft s) := by
  unfold takeJam
  split
  · exact .refl
  · next i _ =>
    refine Acts.trans (t := if i = s.straps.shf then raiseJam (jamView s i) else jamView s i) ?_ (watchClaim_link _ _).acts
    unfold jamView
    by_cases hi : i = s.straps.shf
    · subst hi
      rw [if_pos rfl]
      split
      · exact raiseJam_jammed (.refl _)
      · exact raiseJam_acts s
    · rw [if_neg hi]
      exact .ite (fun _ => (Act.view i _ none s fun h => absurd h hi).acts) fun _ => .refl

theorem mergeLanding_acts (i : Fin 4) (mass count : W16) (binMass : W32) (s : State) :
    Acts s (mergeLanding i mass count binMass s) := by
  unfold mergeLanding
  refine ((freeView_acts i s).trans ?_).trans (watchClaim_link _ _).acts
  have hstraps : (freeView i s).straps = s.straps := by
    unfold freeView
    split <;> rfl
  have hr : tallyRight (maxMerge ((freeView i s).shc.tallies.get i) mass.toNat count.toNat binMass.toNat) :=
    maxMerge_right _ _ _ _ (by have := count.isLt; simp [countMax]; omega) (by have := binMass.isLt; simp [massMax]; omega)
  by_cases hi : i = s.straps.shf
  · have hi' : i = (freeView i s).straps.shf := by rw [hstraps]; exact hi
    rw [if_pos hi]
    have h := Act.filled (maxMerge ((freeView i s).shc.tallies.get i) mass.toNat count.toNat binMass.toNat)
      (freeView i s) fun _ => hr
    rw [← hi'] at h
    exact h.acts
  · rw [if_neg hi]
    exact (Act.tally i _ _ (fun h => absurd (by rw [h, hstraps]) hi) hr).acts

theorem takeLanded_acts (shaft : Byte) (serial : W32) (mass count : W16) (binMass : W32) (s : State) :
    Acts s (takeLanded shaft serial mass count binMass s) := by
  unfold takeLanded
  dsimp only
  split
  · exact (Act.serial serial s).acts
  · exact (Act.serial serial s).acts.trans (mergeLanding_acts _ _ _ _ _)

theorem takeRelease_acts (shaft : BitVec 4) (s : State) : Acts s (takeRelease shaft s) := by
  unfold takeRelease
  split
  · exact .refl
  · exact (freeView_acts _ s).trans (watchClaim_link _ _).acts

theorem closeActions_acts {night : W16} (detail : Byte) (n : NightClock) {s : State}
    (h : s.nls.night.toNat < night.toNat) : Acts s (closeActions night detail n s) :=
  (Act.close night n s h).acts.tail (.ask _ _)

theorem takeClose_acts (night : W16) (s : State) : Acts s (takeClose night s) :=
  .ite (fun h => closeActions_acts _ _ h.1) fun _ => .refl

theorem takeSync_acts (elapsed clock : W32) (night : W16) (flag : Byte) (s : State) :
    Acts s (takeSync elapsed clock night flag s) := by
  unfold takeSync
  refine .ite (fun _ => Acts.trans ?_ (Act.clock _ _).acts) fun _ => .refl
  unfold judgeSync
  refine .ite (fun h => .ite (fun _ => closeActions_acts _ _ h) fun _ => .refl) fun _ =>
    .ite (fun _ => (Act.clock _ s).acts) fun _ => (queueSync_link s).acts

theorem clearShaftAt_acts (index : Byte) (s : State) : Acts s (clearShaftAt index s) := by
  unfold clearShaftAt
  split
  · exact .refl
  · next i _ =>
    refine Acts.trans ?_ (watchClaim_link _ _).acts
    have hfree : Acts s (if s.shc.views.get i = .jammed then setView i .free none s else s) :=
      .ite (fun _ => (Act.view i .free none s fun _ => ⟨by simp, by simp⟩).acts) fun _ => .refl
    refine .ite (fun hi => ?_) fun _ => hfree
    refine (hfree.tail (clearHold_act .jam _ ?_)).tail (.ask _ _)
    show ownView _ ≠ .jammed
    unfold ownView
    subst hi
    split
    · simp
    · assumption

theorem clearBinAt_acts (index : Byte) (s : State) : Acts s (clearBinAt index s) := by
  unfold clearBinAt
  split
  · exact .refl
  · next i _ =>
    refine Acts.trans ?_ (watchClaim_link _ _).acts
    have hzero : Acts s (setTally i { count := 0, mass := 0 } s) :=
      (Act.tally i _ s (fun _ => rfl) ⟨Nat.zero_le _, Nat.zero_le _⟩).acts
    refine .ite (fun hi => (hzero.tail (clearHold_act .binFull _ ?_)).tail (.ask _ _)) fun _ => hzero
    show ownTally _ = _
    unfold ownTally
    subst hi
    simp

theorem clearStationAt_acts (index : Byte) (s : State) : Acts s (clearStationAt index s) := by
  unfold clearStationAt
  refine .ite (fun h => ?_) fun _ => .refl
  refine ((drumStop_act s).acts.tail (.ask _ _)).trans (enterHome_acts _ (.inr ?_) rfl)
  rw [(askGeneral_op _ _).csq]
  exact h.1

theorem takeClear_effect {c : Instr} (own : Byte) {effect : Byte → State → State} (s : State)
    (h : ∀ i u, Acts u (effect i u)) : Effect c s (takeClear own effect s) := by
  unfold takeClear
  split
  · split
    · exact .taken (h _ _)
    · split
      · exact .taken .refl
      · exact .refl
  · exact .refl

theorem takeHold_acts (arg : Byte) (s : State) : Acts s (takeHold arg s) :=
  .ite (fun _ => .refl) fun _ => (Act.hold .audit _ s.csq.weighSeen s trivial).acts.tail (.ask _ _)

theorem takeAuditMark_effect {c : Instr} (m : W32) (s : State) : Effect c s (takeAuditMark m (takeRx s)) := by
  unfold takeAuditMark
  dsimp only
  split
  · exact .taken .refl
  · next h => exact .of_front (.marked _ _ (Nat.lt_of_not_le h)) .refl

theorem takeReadJournal_effect {c : Instr} (req : ReadReq) (s : State) :
    Effect c s (takeReadJournal req (takeRx s)) := by
  unfold takeReadJournal
  split
  · exact .taken (serveRead_link _ _).acts
  · next h => exact .of_front (.waits req h) .refl

/-! ## The claim's timers and the supply -/

theorem retryClaim_acts {s : State} (h : s.csq.state = .claim) : Acts s (retryClaim s) := by
  have hseq : Act s { s with csq := { s.csq with retry := none } } :=
    .seq _ s ⟨rfl, rfl, .inl rfl, rfl, rfl⟩ fun hc => by rw [h] at hc; cases hc
  exact hseq.acts.trans (requestClaim_link _ _).acts

theorem powerInClaim_acts (s : State) : Acts s (powerInClaim s) := by
  unfold powerInClaim
  refine .ite (fun h => ?_) fun _ => .refl
  split
  · refine (draw_link s).acts.tail (.seq _ _ ⟨rfl, rfl, .inl rfl, rfl, rfl⟩ fun _ => ⟨rfl, rfl⟩)
  · exact .refl
  · exact abandonClaim_acts _ h.1

theorem hatchOpens_effect (s : State) : Effect .hatchOpening s (hatchOpens s) := by
  unfold hatchOpens
  set u : State := { s with csq := { s.csq with hatch := .opened } }
  refine .of_front (a := u) (.opened rfl) (.ite (fun h => ?_) fun _ => .refl)
  refine .single (.enter .opened u.csq u (.inl ?_) rfl rfl ?_ (by simp))
  · rcases h with h | h <;> simp [u, h, SeqState.quiet]
  · rintro - (h | h) <;> cases h

/-! ## The judgements at the end of a step -/

theorem judgeHeld_acts (s : State) : Acts s (judgeHeld s) := by
  unfold judgeHeld
  refine .ite (fun h => ?_) fun _ => .ite (fun h => ?_) fun _ => .refl
  · refine .single (.enter .held s.csq s (.inl ?_) rfl rfl (fun hs _ => hs (.inl h.1)) (by simp))
    rw [h.1]; rfl
  · refine .single (.enter .idle s.csq s (.inl ?_) rfl rfl (fun hs _ => hs (.inr ?_)) (by simp)) <;> rw [h.1] <;> rfl

theorem judgeHatch_acts (s : State) : Acts s (judgeHatch s) := by
  unfold judgeHatch
  refine .ite (fun h => enterFault_acts _ (.fault s fun hs => ?_)) fun _ => .refl
  rw [hs] at h
  exact absurd h.1 (by decide)

theorem judgeTare_acts (s : State) : Acts s (judgeTare s) := by
  unfold judgeTare
  refine .ite (fun _ => .ite (fun _ => .refl) fun h => ?_) fun _ => .ite (fun _ => ?_) fun _ => ?_
  · exact .single (.weigh _ s id fun _ he => absurd (.inl he) h)
  · exact .single (.weigh _ s (fun ⟨_, h⟩ => ⟨by simp, h⟩) fun _ _ => rfl)
  · exact .single (.weigh _ s id fun _ _ => rfl)

theorem settleStep_acts (s : State) : Acts s (settleStep s) :=
  ((judgeHeld_acts s).trans (judgeHatch_acts _)).trans (judgeTare_acts _)

/-! ## Every command -/

/-- What a command answers: nothing has happened, a start, the reset pin and the supply, the operations of a part that runs,
or the end of the scan. -/
inductive Course (c : Instr) (s : State) : State → Prop
  | same : Course c s s
  | started (l : StartLines) (hc : c = .start l) (h : startAllowed s = true) : Course c s (beginStart l s)
  | released (hc : c = .rstHigh) : Course c s { s with rstLow := false }
  | reset (p : Supply) (b : Bool) (hc : c = .rstLow ∨ c = .supplyCut) :
      Course c s { holdInReset s with supply := p, rstLow := b }
  | supplied (p : Supply) (hc : c = .supplyWarn ∨ c = .supplyRise ∨ c = .supplyDip ∨ c = .supplyRecoveryExpiry)
      (h : p.level = s.supply.level ∨ s.phase = .inReset ∨
      s.supply.level = .cut ∧ p.level = .normal) : Course c s { s with supply := p }
  | lost (hc : c = .powerLoss) : Course c s (losePower s)
  | ran {t : State} (hp : s.phase ≠ .inReset) (h : Effect c s t) : Course c s (settleStep t)
  | scanned (hc : c = .scanComplete) (hp : s.phase = .scanning) : Course c s (settleStep (endScan s))

theorem holdInReset_setSupply (p : Supply) (s : State) :
    holdInReset { s with supply := p } = { holdInReset s with supply := p } := by
  unfold holdInReset
  dsimp only
  split
  · rfl
  · unfold enterReset
    have h : abandonArray { s with supply := p } = { abandonArray s with supply := p } := by
      unfold abandonArray
      dsimp only
      split <;> rfl
    rw [h]

/-- A command of the running part. -/
theorem running_course {c : Instr} {s t : State} (h : Effect c s t) : ∃ u, running s t = .next u ∧ Course c s u := by
  by_cases hp : s.phase = .inReset
  · exact ⟨s, running_inReset hp, .same⟩
  · exact ⟨_, running_eq hp, .ran hp h⟩

/-- A command that a condition guards. -/
theorem running_ite {c : Instr} {s t : State} {p : Prop} [Decidable p] (h : p → Effect c s t) :
    ∃ u, running s (if p then t else s) = .next u ∧ Course c s u := running_course (.ite h)

/-- A command whose event may be absent. -/
theorem running_unless {c : Instr} {s t : State} {p : Prop} [Decidable p] (h : ¬ p → Effect c s t) :
    ∃ u, running s (if p then s else t) = .next u ∧ Course c s u := by
  refine running_course ?_
  split
  · exact .refl
  · exact h ‹_›

theorem execScanComplete_course (s : State) : ∃ u, execScanComplete s = .next u ∧ Course .scanComplete s u := by
  unfold execScanComplete
  split
  · next h => exact ⟨_, running_eq (by simp [h]), .scanned rfl h⟩
  · exact running_course .refl

theorem execSupplyWarn_course (s : State) : ∃ u, execSupplyWarn s = .next u ∧ Course .supplyWarn s u := by
  unfold execSupplyWarn
  split
  · next h =>
    dsimp only
    by_cases hp : s.phase = .inReset
    · exact ⟨_, running_inReset hp, .supplied _ (.inl rfl) (.inr (.inl hp))⟩
    · refine ⟨_, running_eq hp, .ran hp (.of_front (.warned h) ?_)⟩
      exact (Act.ask _ _).acts.trans (powerInClaim_acts _)
  · exact ⟨s, rfl, .same⟩

theorem execSupplyRecoveryExpiry_course (s : State) :
    ∃ u, execSupplyRecoveryExpiry s = .next u ∧ Course .supplyRecoveryExpiry s u := by
  unfold execSupplyRecoveryExpiry
  split
  · exact ⟨s, rfl, .same⟩
  · dsimp only
    split
    · next h =>
      by_cases hp : s.phase = .inReset
      · exact ⟨_, running_inReset hp, .supplied _ (.inr (.inr (.inr rfl))) (.inr (.inl hp))⟩
      · exact ⟨_, running_eq hp, .ran hp (.of_front (.restored h) .refl)⟩
    · next h =>
      refine ⟨_, rfl, .supplied { s.supply with level := .normal, recovery := none } (.inr (.inr (.inr rfl))) ?_⟩
      cases hl : s.supply.level with
      | normal => exact .inl rfl
      | warn => exact absurd hl h
      | cut => exact .inr (.inr ⟨rfl, rfl⟩)

theorem execSupplyCut_course (s : State) : ∃ u, execSupplyCut s = .next u ∧ Course .supplyCut s u := by
  unfold execSupplyCut
  split
  · exact ⟨s, rfl, .same⟩
  · set p : Supply := { s.supply with level := .cut, recovery := none, cutSinceStart := true }
    have h := Course.reset (s := s) p (holdInReset s).rstLow (.inr (rfl : Instr.supplyCut = .supplyCut))
    exact ⟨_, congrArg _ (holdInReset_setSupply p s), h⟩

/-- Every command answers a next state of one of these kinds. -/
theorem exec_course (c : Instr) (s : State) : ∃ t, exec c s = .next t ∧ Course c s t := by
  cases c with
  | start l =>
    refine ⟨_, rfl, ?_⟩
    split
    · next h => exact .started l rfl h
    · exact .same
  | scanComplete => exact execScanComplete_course s
  | rstLow => exact ⟨_, rfl, .reset (holdInReset s).supply true (.inl rfl)⟩
  | rstHigh => exact ⟨_, rfl, .released rfl⟩
  | supplyWarn => exact execSupplyWarn_course s
  | supplyCut => exact execSupplyCut_course s
  | powerLoss => exact ⟨_, rfl, .lost rfl⟩
  | supplyRise =>
    refine ⟨_, rfl, ?_⟩
    split
    · exact .same
    · exact .supplied _ (.inr (.inl rfl)) (.inl rfl)
  | supplyDip => exact ⟨_, rfl, .supplied _ (.inr (.inr (.inl rfl))) (.inl rfl)⟩
  | supplyRecoveryExpiry => exact execSupplyRecoveryExpiry_course s
  | hatchOpening => exact running_ite fun _ => hatchOpens_effect s
  | hatchClosing => exact running_ite fun _ => .of_acts (hatchCloses_acts s)
  | weighByteReceived byte framingError late => exact running_course (weighByte_effect byte framingError late s)
  | sampleGapExpiry => exact running_unless fun _ => sampleGap_effect s
  | weighRecoveryExpiry => exact running_unless fun _ => .of_acts (weighRecovered_acts s)
  | settleTimerExpiry => exact running_unless fun _ => .of_acts (settleOver_act s).acts
  | tareIntervalExpiry => exact running_unless fun _ => .of_acts (tareBegins_act s).acts
  | tagByteReceived byte framingError => exact running_course (.of_acts (tagByte_act byte framingError s).acts)
  | byteGapExpiry => exact running_unless fun _ => .of_acts (.single (.tags _ s (by simp [TagInput.toHunt]) id))
  | tagWindowExpiry => exact running_unless fun _ => tagWindowEnds_effect s
  | encoderStep sample => exact running_course (.of_acts (encoderSample_acts sample s))
  | invalidTransition => exact running_course (.of_acts (encoderSample_acts _ s))
  | homeSwitchActive => exact running_unless fun _ => .of_acts (homeSwitchOn_acts s)
  | homeSwitchInactive => exact running_course (.of_acts (.single (drumStep_act rfl rfl rfl)))
  | deadTimeExpiry => exact running_unless fun _ => .of_acts (deadTimeOver_act s).acts
  | landingEvent => exact running_unless fun _ => .of_acts (beamBreaks_acts s)
  | beamClear => exact running_course (.of_acts (.single (.landing _ s id)))
  | homeLimitExpiry => exact running_ite fun h => .of_acts (enterFault_acts _ (.fault s (by simp [h.2])))
  | turnLimitExpiry => exact running_ite fun h => .of_acts (enterFault_acts _ (.fault s (by simp [h.2])))
  | fallWindowExpiry => exact running_ite fun h => .of_acts (fallWindowOver_acts h.2)
  | landingSettleExpiry => exact running_unless fun _ => .of_acts (settleTimeOver_acts s)
  | claimWaitExpiry => exact running_ite fun h => .of_acts (abandonClaim_acts _ h.2)
  | retryIntervalExpiry => exact running_ite fun h => .of_acts (retryClaim_acts h.2)
  | acceptedLampExpiry => exact running_unless fun _ => .of_acts (.single (.relamp none s.lms.readyTimer s))
  | readyDimmingExpiry => exact running_unless fun _ => .of_acts (.single (.relamp s.csq.accepted none s))
  | rowTimeExpiry =>
    refine running_course ?_
    split
    · exact .refl
    · exact .of_acts (.single (.lamps _ s rfl rfl))
  | flashHalfExpiry lamp => exact running_ite fun _ => .of_acts (.single (.lamps _ s rfl rfl))
  | spacingTimerExpiry => exact running_ite fun _ => .of_acts (spacingOver_link s).acts
  | lapse shaft =>
    exact running_ite fun _ => .of_acts ((Act.view shaft .free none s fun _ => ⟨by simp, by simp⟩).acts.trans
      (watchClaim_link _ _).acts)
  | syncTimerExpiry => exact running_unless fun _ => .of_acts ((Act.clock _ s).acts.trans (queueSync_link _).acts)
  | linkFree => exact running_ite fun _ => .of_acts (linkBecomesFree_link s).acts
  | startMark => exact running_unless fun _ => .of_acts (foreignStartMark_acts s)
  | holdTheClock kind source dest rest => exact running_course (.of_acts (holdIfFull_acts kind source dest rest s))
  | checkByte bits => exact running_course (.of_acts (takeBits_acts bits s))
  | endMark slot => exact running_ite fun h => endMarkSeen_effect slot h.2.2
  | overlongFrame => exact running_course (.of_acts (overlong_acts s))
  | frameTimeout => exact running_ite fun _ => .of_acts (toSettling_link s).acts
  | lossOfContention => exact running_course (.of_acts (asTransmitter_acts fun e => readZero_acts e s))
  | stall => exact running_course (.of_acts (asTransmitter_acts fun e => abandonFrame_acts e s))
  | abandonment => exact running_course (.of_acts (asTransmitter_acts fun e => abandonFrame_acts e s))
  | completed slot => exact running_course (.of_acts (asTransmitter_acts fun e => completeFrame_acts slot e s))
  | jamTaken => refine running_course ?_; split; exacts [.taken (takeJam_acts _ _), .refl]
  | landedTaken => refine running_course ?_; split; exacts [.taken (takeLanded_acts _ _ _ _ _ _), .refl]
  | releaseTaken => refine running_course ?_; split; exacts [.taken (takeRelease_acts _ _), .refl]
  | syncTaken elapsed => refine running_course ?_; split; exacts [.taken (takeSync_acts _ _ _ _ _), .refl]
  | closeTaken => refine running_course ?_; split; exacts [.taken (takeClose_acts _ _), .refl]
  | clearShaft => exact running_course (takeClear_effect 1 s clearShaftAt_acts)
  | clearBin => exact running_course (takeClear_effect 2 s clearBinAt_acts)
  | clearStation => exact running_course (takeClear_effect 3 s clearStationAt_acts)
  | hold => refine running_course ?_; split; exacts [.taken (takeHold_acts _ _), .refl]
  | auditMark => refine running_course ?_; split; exacts [takeAuditMark_effect _ s, .refl]
  | readJournal => refine running_course ?_; split; exacts [takeReadJournal_effect _ s, .refl]
  | readState => refine running_course ?_; split; exacts [.taken (queueFrame_link _ _).acts, .refl]
  | configWrite => refine running_course ?_; split; exacts [.of_acts (Act.give s).acts, .refl]
  | programCompletion => exact running_ite fun h => .of_front (.written rfl h) .refl
  | eraseCompletion =>
    refine running_course ?_
    split
    · next page h => exact .of_front (.erased page rfl h) .refl
    · exact .refl
  | infoCompletion =>
    refine running_course ?_
    split
    · next offset data h => exact .of_front (.info offset data rfl h) .refl
    · exact .refl
  | millisecondEnd => exact running_course (.of_acts (.single (.clock _ s)))
  | settleTimeRestart => exact running_ite fun _ => .of_acts (toSettling_link s).acts

end Sys2Proof.Machine
end

section
/-! PROOFS. What the operations of `Act` leave of each block, and how what holds between steps is carried over every
command (`Kept`). -/

namespace Sys2Proof.Machine

/-! ## Frames -/

/-- R132: BIN_FULL joins the hold reasons where the own bin is full. -/
theorem raiseIfFull_frame (s : State) :
    raiseIfFull s = { s with csq := { s.csq with
      holds := { s.csq.holds with binFull := s.csq.holds.binFull || ownFull s } } } := by
  unfold raiseIfFull
  cases h : ownFull s
  · simp
  · simp [raiseHold, HoldSet.put, show (HoldReason.binFull == HoldReason.weigh) = false from rfl]

/-- R149, R160: what JOURNAL_FULL stands for. -/
def fullJudged (m : List Host.Cell) (j : Journal) : Bool :=
  decide (freeSlots m j.writePtr < 8) || j.seqCounter == seqMax

theorem judgeFull_frame (s : State) :
    judgeFull s = { s with csq := { s.csq with holds := { s.csq.holds with journalFull := fullJudged s.flash s.jnc } } } :=
  rfl

/-- R24: what the entry to FAULT leaves alone. -/
theorem faultCore_frame (s : State) :
    faultCore s = { s with
      csq := (faultCore s).csq, wch := (faultCore s).wch, tgi := (faultCore s).tgi, rct := s.rct.stop
      shc := { s.shc with views := (faultCore s).shc.views, holdAge := (faultCore s).shc.holdAge }
      lms := (faultCore s).lms } := by
  unfold faultCore abandonCheck
  dsimp only
  split <;> split <;> rfl

/-- R24: the sequencer and the lamps at the entry to FAULT. -/
theorem faultCore_csq (s : State) :
    (faultCore s).csq = { (stopSequencer s).csq with state := .fault, lock := lockLine s.phase .fault } ∧
    (faultCore s).lms.modes = PerLamp.ofFn (lampMode (faultCore s)) := by
  unfold faultCore abandonCheck
  dsimp only
  split <;> split <;> exact ⟨rfl, rfl⟩

/-- R12, R53: the weigh channel and the tag input at the entry to FAULT. -/
theorem faultCore_windows (s : State) :
    (faultCore s).wch = (if s.csq.state = .check then { s.wch with activity := .idle, window := [], settle := none }
      else s.wch) ∧
    (faultCore s).tgi = (if s.csq.state = .check then
        { s.tgi with windowOpen := false, windowTimer := none, readSet := [], firstRead := none }
      else s.tgi) := by
  unfold faultCore abandonCheck
  dsimp only
  by_cases h : s.csq.state = .check <;> by_cases hs : selfHeld s = true <;> simp [h, hs] <;> exact ⟨rfl, rfl⟩

/-- R24, R126: the views at the entry to FAULT: a self-held own shaft is FREE. -/
theorem faultCore_views (s : State) :
    (faultCore s).shc.views = if selfHeld s then s.shc.views.set s.straps.shf .free else s.shc.views := by
  unfold faultCore abandonCheck
  by_cases h : s.csq.state = .check <;> by_cases hs : selfHeld s = true <;> simp [h, hs, stopSequencer, enterState, abandonTags, abandonWeighing, refreshLamps, setView]

theorem turnAsked_frame (s : State) :
    turnAsked s = { s with
      csq := (turnAsked s).csq, rct := (turnAsked s).rct, ldi := { s.ldi with count := 0 }
      shc := { s.shc with views := (turnAsked s).shc.views, holdAge := (turnAsked s).shc.holdAge }
      lms := (turnAsked s).lms } := rfl

/-- What only a start, the supply and the flash array's own operations change. -/
structure Steady (s t : State) : Prop where
  supply : t.supply = s.supply
  rstLow : t.rstLow = s.rstLow
  phase : t.phase = s.phase
  startKind : t.startKind = s.startKind
  straps : t.straps = s.straps
  cfg : t.cfg = s.cfg
  flash : t.flash = s.flash
  pending : t.pending = s.pending

theorem Keeps.steady {s t : State} (h : Keeps s t) : Steady s t :=
  ⟨h.supply, h.rstLow, h.phase, h.startKind, h.straps, h.cfg, h.flash, h.pending⟩

theorem Steady.trans {s t u : State} (h : Steady s t) (k : Steady t u) : Steady s u :=
  ⟨k.supply.trans h.supply, k.rstLow.trans h.rstLow, k.phase.trans h.phase, k.startKind.trans h.startKind,
    k.straps.trans h.straps, k.cfg.trans h.cfg, k.flash.trans h.flash, k.pending.trans h.pending⟩

theorem faultCore_steady (s : State) : Steady s (faultCore s) := by
  rw [faultCore_frame]
  constructor <;> rfl

theorem Act.steady {s t : State} (h : Act s t) : Steady s t := by
  cases h with
  | link h => exact h.keeps.steady
  | journal h => exact h.op.keeps.steady
  | filled x => rw [raiseIfFull_frame]; constructor <;> rfl
  | jammed h => exact ((setView_keeps _ _ _ s).trans (h.keeps.trans (raiseHold_keeps _ _))).steady
  | fault => exact faultCore_steady s
  | forced c => exact Steady.trans (by constructor <;> rfl) (faultCore_steady _)
  | _ => constructor <;> rfl

theorem Fine.steady {s t : State} (h : Fine s t) : Steady s t := by
  cases h with
  | act h => exact h.steady
  | fill c => constructor <;> rfl

theorem Fines.steady {s t : State} (h : Fines s t) : Steady s t := by
  induction h with
  | refl => constructor <;> rfl
  | tail _ h ih => exact ih.trans h.steady

theorem Acts.steady {s t : State} (h : Acts s t) : Steady s t := h.fines.steady

/-- Only the journal controller's own operations change it. -/
theorem Act.jnc {s t : State} (h : Act s t) : t.jnc = s.jnc ∨ JournalAct s t := by
  cases h with
  | link h => exact .inl h.jnc
  | journal h => exact .inr h
  | filled x => rw [raiseIfFull_frame]; exact .inl rfl
  | jammed h => exact .inl h.jnc
  | fault => rw [faultCore_frame]; exact .inl rfl
  | forced c => rw [faultCore_frame]; exact .inl rfl
  | _ => exact .inl rfl

/-! ## The sequencer's state, the lock and the lamps -/

/-- From s to t the sequencer's state with its lock stays, and the lamps follow it. -/
structure Calm (s t : State) : Prop where
  phase : t.phase = s.phase
  state : t.csq.state = s.csq.state
  lock : t.csq.lock = s.csq.lock
  hatch : t.csq.hatch = s.csq.hatch ∨ t.csq.hatch = .closed
  lamps : t.csq.accepted = s.csq.accepted ∧ t.lms.modes = s.lms.modes ∧ t.lms.readyTimer = s.lms.readyTimer ∨
    t.lms.modes = PerLamp.ofFn (lampMode t)

/-- From s to t another state than START is entered from another one, with its lock and lamps. -/
structure Entered (s t : State) : Prop where
  phase : t.phase = s.phase
  left : s.csq.state ≠ .start
  state : t.csq.state ≠ .start
  lock : LockRight t
  lamps : t.lms.modes = PerLamp.ofFn (lampMode t)
  shut : hatchShut s.csq → hatchShut t.csq

theorem QueueOp.calm {s t : State} (h : QueueOp s t) : Calm s t where
  phase := h.phase
  state := by rw [h.csq]
  lock := by rw [h.csq]
  hatch := .inl (by rw [h.csq])
  lamps := .inl ⟨by rw [h.csq], by rw [h.lms], by rw [h.lms]⟩

theorem JournalOp.calm {s t : State} (h : JournalOp s t) : Calm s t where
  phase := h.phase
  state := by rw [h.csq]
  lock := by rw [h.csq]
  hatch := .inl (by rw [h.csq])
  lamps := .inl ⟨by rw [h.csq], by rw [h.lms], by rw [h.lms]⟩

/-- An operation that leaves the state, the lock, the hatch and the lamps. -/
theorem Calm.of_eq {s t : State} (hp : t.phase = s.phase) (hs : t.csq.state = s.csq.state) (hl : t.csq.lock = s.csq.lock)
    (hh : t.csq.hatch = s.csq.hatch) (ha : t.csq.accepted = s.csq.accepted) (hm : t.lms = s.lms) : Calm s t :=
  ⟨hp, hs, hl, .inl hh, .inl ⟨ha, by rw [hm], by rw [hm]⟩⟩

theorem faultCore_entered {s u : State} (hp : u.phase = s.phase) (h : s.csq.state ≠ .start) : Entered s (faultCore u) := by
  obtain ⟨hc, hl⟩ := faultCore_csq u
  have hph : (faultCore u).phase = u.phase := (faultCore_steady u).phase
  refine ⟨hph.trans hp, h, by rw [hc]; simp, ?_, hl, fun _ hs => ?_⟩
  · unfold LockRight
    rw [hc, hph]
  · rw [hc] at hs
    rcases hs with hs | hs <;> cases hs

theorem SeqState.quiet_ne_start {st : SeqState} (h : st.quiet = true) : st ≠ .start := by rintro rfl; cases h

/-- An operation leaves the state of the sequencer, or enters another. -/
theorem Act.calm_or_entered {s t : State} (h : Act s t) : Calm s t ∨ Entered s t := by
  cases h with
  | link h => exact .inl h.calm
  | journal h => exact .inl h.op.calm
  | seq c _ hc =>
    exact .inl ⟨rfl, hc.state, hc.lock, hc.hatch, .inl ⟨hc.accepted, rfl, rfl⟩⟩
  | filled x => rw [raiseIfFull_frame]; exact .inl (.of_eq rfl rfl rfl rfl rfl rfl)
  | jammed h =>
    have hc := h.calm
    refine .inl ⟨hc.phase, hc.state, hc.lock, hc.hatch, .inl ⟨?_, by simp [h.lms], by simp [h.lms]⟩⟩
    rw [raiseHold_csq_accepted, h.csq]
    rfl
  | lamps l _ hm hr => exact .inl ⟨rfl, rfl, rfl, .inl rfl, .inl ⟨rfl, hm, hr⟩⟩
  | relamp a b => exact .inl ⟨rfl, rfl, rfl, .inl rfl, .inr rfl⟩
  | enter st c _ hf ht hh hs hb =>
    refine .inr ⟨rfl, ?_, SeqState.quiet_ne_start ht, rfl, rfl, hs⟩
    rcases hf with hf | ⟨hf, -⟩
    · exact SeqState.quiet_ne_start hf
    · rw [hf]; simp
  | fault _ h => exact .inr (faultCore_entered rfl h)
  | home c _ hf hh ht =>
    refine .inr ⟨rfl, ?_, by simp [homeAsked], rfl, rfl, fun _ _ => ht⟩
    rcases hf with ⟨hf, -⟩ | hf <;> simp [hf]
  | forced c _ hf hh =>
    refine .inr (faultCore_entered rfl ?_)
    rcases hf with ⟨hf, -⟩ | hf <;> simp [hf]
  | fall r c _ hf hm hr hh ht =>
    refine .inr ⟨rfl, by simp [hf], by simp, rfl, rfl, fun hs _ => ht.trans (hs (.inr ?_))⟩
    rw [hf]; rfl
  | turned _ hf hw =>
    refine .inr ⟨rfl, by simp [hf], by simp [turnAsked], rfl, rfl, fun hs _ => hs (.inr ?_)⟩
    rw [hf]; rfl
  | dropped c _ hf hw hh ht =>
    refine .inr ⟨rfl, by simp [hf], by simp, rfl, rfl, fun hs _ => ht.trans (hs (.inr ?_))⟩
    rw [hf]; rfl
  | _ => exact .inl (.of_eq rfl rfl rfl rfl rfl rfl)

theorem Fine.calm_or_entered {s t : State} (h : Fine s t) : Calm s t ∨ Entered s t := by
  cases h with
  | act h => exact h.calm_or_entered
  | fill c _ hc => exact .inl ⟨rfl, hc.state, hc.lock, hc.hatch, .inl ⟨hc.accepted, rfl, rfl⟩⟩

/-! ## What comes first, taken apart -/

/-- R152: the deferred record takes the place that has become free. -/
def deferredStaged (s : State) : State :=
  match s.jnc.deferred with
  | none => s
  | some req =>
    if s.jnc.staging.length < 8 then
      let s1 := { s with jnc := { s.jnc with deferred := none } }
      if s.jnc.seqCounter = seqMax then s1 else pushRecord req s1
    else s

/-- R15, R152: a sequencer that waits for the deferred record enters PRESENT as it is staged. -/
theorem stageDeferred_eq (s : State) :
    stageDeferred s =
      if s.jnc.deferred ≠ none ∧ s.jnc.staging.length < 8 ∧ waitsForReturn s = true then enterPresent (deferredStaged s)
      else deferredStaged s := by
  unfold stageDeferred deferredStaged
  cases hd : s.jnc.deferred with
  | none => simp
  | some req =>
    by_cases h8 : s.jnc.staging.length < 8 <;> by_cases hw : waitsForReturn s = true <;> simp [h8, hw]

theorem deferredStaged_frame (s : State) :
    deferredStaged s = { s with jnc := { s.jnc with
      staging := (deferredStaged s).jnc.staging, seqCounter := (deferredStaged s).jnc.seqCounter
      deferred := (deferredStaged s).jnc.deferred } } := by
  unfold deferredStaged
  split
  · rfl
  · split
    · dsimp only
      split <;> rfl
    · rfl

/-- One step of what a command does before its operations (`Front`). -/
inductive Soft : State → State → Prop
  | taken (s : State) : Soft s (takeRx s)
  | marked (m : W32) (s : State) (h : s.jnc.auditMark.toNat < m.toNat) :
      Soft s { s with jnc := { s.jnc with auditMark := m } }
  | waits (req : ReadReq) (s : State) (h : s.jnc.array ≠ .idle) :
      Soft s { s with jnc := { s.jnc with pendingRead := some req } }
  | received (j : Judged) (s : State) (h : s.lkc.reception = .judged j) (hr : j.take.isSome = true → s.lkc.rx.length < 4) :
      Soft s (pushRx j.take (judgeClash j (toSettling s)))
  | claimed (j : Judged) (i : Fin 4) (age : Timer) (s : State) (h : s.lkc.reception = .judged j)
      (hr : j.take.isSome = true → s.lkc.rx.length < 4) (hc : j.claimShaft ≠ none) (hd : j.driveA = false) :
      Soft s (setView i (.held (j.frame.source.setWidth 4)) age (pushRx j.take (judgeClash j (toSettling s))))
  | written (r : Record) (rest : List Record) (s : State) (h : s.jnc.staging = r :: rest) : Soft s (deferredStaged (recordWritten r rest s))
  | judged (r : HoldReason) (v w : Bool) (s : State) (hr : r = .journalFull ∨ r = .journalBusy ∨ r = .power) :
      Soft s { s with csq := { s.csq with holds := s.csq.holds.put r v, weighSeen := w } }
  | erased (page : Nat) (s : State) (h : s.jnc.array = .erase page) : Soft s (pageErased page s)
  | info (offset : Byte) (data : List Byte) (s : State) (h : s.jnc.array = .info offset data) :
      Soft s (infoWritten offset data s)
  | level (l : SupplyLevel) (s : State) : Soft s (setLevel l s)
  | unheld (s : State) : Soft s { s with jnc := { s.jnc with startHold := [] } }

/-- An operation, or a step of what comes before the operations. -/
inductive Move : State → State → Prop
  | act {s t : State} (h : Act s t) : Move s t
  | soft {s t : State} (h : Soft s t) : Move s t

/-- Moves one after another. -/
abbrev Moves : State → State → Prop := Relation.ReflTransGen Move

theorem Soft.moves {s t : State} (h : Soft s t) : Moves s t := .single (.soft h)

theorem Act.moves {s t : State} (h : Act s t) : Moves s t := .single (.act h)

theorem judgeBusy_soft (s : State) : Soft s (judgeBusy s) := .judged .journalBusy _ s.csq.weighSeen s (.inr (.inl rfl))

theorem judgeFull_soft (s : State) : Soft s (judgeFull s) := .judged .journalFull _ s.csq.weighSeen s (.inl rfl)

theorem programDone_moves (s : State) : Moves s (programDone s) := by
  unfold programDone
  split
  · exact .refl
  · next r rest h =>
    set u := recordWritten r rest s
    have hstage : Moves s (stageDeferred u) := by
      rw [stageDeferred_eq]
      split
      · next hw =>
        obtain ⟨-, -, hw⟩ := hw
        simp only [waitsForReturn, Bool.and_eq_true, Bool.or_eq_true, beq_iff_eq] at hw
        refine (Soft.written r rest s h).moves.tail (.act (.enter .present _ _ (.inl ?_) rfl rfl ?_ (by simp)))
        · rw [deferredStaged_frame]
          rcases hw.2 with h | h <;> exact congrArg SeqState.quiet h
        · rintro - (h | h) <;> cases h
      · exact (Soft.written r rest s h).moves
    exact ((hstage.tail (.soft (judgeBusy_soft _))).tail (.soft (judgeFull_soft _))).tail (.act (.give _))

/-- What comes before the operations, taken apart; the hatch opens by itself. -/
theorem Front.moves {c : Instr} {s t : State} (h : Front c s t) :
    Moves s t ∨ c = .hatchOpening ∧ t = { s with csq := { s.csq with hatch := .opened } } := by
  cases h with
  | refl => exact .inl .refl
  | taken => exact .inl (Soft.taken s).moves
  | marked m req h =>
    exact .inl ((((Soft.taken s).moves.tail (.soft (.marked m _ h))).tail (.act (.ask req _))).tail (.act (.give _)))
  | waits req h => exact .inl ((Soft.taken s).moves.tail (.soft (.waits req _ h)))
  | received j h hr => exact .inl (Soft.received j s h hr).moves
  | claimed j i age h hr hc hd => exact .inl (Soft.claimed j i age s h hr hc hd).moves
  | written hc h => exact .inl (programDone_moves s)
  | erased page hc h =>
    exact .inl (((Soft.erased page s h).moves.tail (.soft (judgeFull_soft _))).tail (.act (.give _)))
  | info offset data hc h => exact .inl ((Soft.info offset data s h).moves.tail (.act (.give _)))
  | warned h => exact .inl ((Soft.level .warn s).moves.tail (.soft (.judged .power true _ _ (.inr (.inr rfl)))))
  | restored h =>
    exact .inl ((((Soft.level .normal s).moves.tail
      (.soft (.judged .power false s.csq.weighSeen _ (.inr (.inr rfl))))).tail (.act (.ask _ _))).tail (.act (.give _)))
  | opened hc => exact .inr ⟨hc, rfl⟩

/-- What the steps before the operations leave of the sequencer and the lamps. -/
structure SoftKeeps (s t : State) : Prop where
  straps : t.straps = s.straps
  cfg : t.cfg = s.cfg
  phase : t.phase = s.phase
  csq : t.csq = { s.csq with holds := t.csq.holds, weighSeen := t.csq.weighSeen }
  lms : t.lms = s.lms
  wch : t.wch = s.wch
  tgi : t.tgi = s.tgi
  nls : t.nls = s.nls
  rct : t.rct = s.rct
  ldi : t.ldi = s.ldi
  tallies : t.shc.tallies = s.shc.tallies
  drop : t.lkc.dropCount = s.lkc.dropCount
  pending : t.pending = s.pending

theorem completed_frame (j : Judged) (s : State) :
    pushRx j.take (judgeClash j (toSettling s)) = { s with
      csq := { s.csq with
        holds := { s.csq.holds with
          addressClash := s.csq.holds.addressClash || (j.crcGood && j.frame.source == s.ownByte) } }
      lkc := { s.lkc with phase := .settling, settleTime := 0, reception := .absent, rx := s.lkc.rx ++ j.take.toList } } := by
  have hclash : judgeClash j (toSettling s) = { toSettling s with csq := { s.csq with
      holds := { s.csq.holds with
        addressClash := s.csq.holds.addressClash || (j.crcGood && j.frame.source == s.ownByte) } } } := by
    unfold judgeClash
    rw [show (toSettling s).ownByte = s.ownByte from rfl]
    cases h : (j.crcGood && j.frame.source == s.ownByte)
    · simp [toSettling]
    · simp [raiseHold, HoldSet.put, toSettling, show (HoldReason.addressClash == HoldReason.weigh) = false from rfl]
  rw [hclash]
  cases j.take with
  | none => simp [pushRx, toSettling]
  | some m => simp [pushRx, toSettling]

theorem Soft.keeps {s t : State} (h : Soft s t) : SoftKeeps s t := by
  cases h with
  | received j => rw [completed_frame]; constructor <;> rfl
  | claimed j i age => rw [completed_frame]; constructor <;> rfl
  | written r rest => rw [deferredStaged_frame]; constructor <;> rfl
  | _ => constructor <;> rfl

/-! ## The scan -/

/-- R178, R179: the scan's values in a part that is in service from now on. -/
def served (s : State) : State := judgeFull { scanRebuild s with phase := .service }

/-- R178: the end of the scan up to the entry to HOME. -/
def joined (s : State) : State := joinLink (stageStart (giveArray (served s)))

theorem endScan_eq (s : State) : endScan s = enterHome (joined s) := rfl

theorem foldl_ask_acts (reqs : List RecordReq) (s : State) : Acts s (reqs.foldl (fun t req => askGeneral req t) s) := by
  induction reqs generalizing s with
  | nil => exact .refl
  | cons req reqs ih => exact (Act.ask req s).acts.trans (ih _)

theorem joinLink_acts (s : State) : Acts s (joinLink s) := by
  have h1 : LinkOp s { s with lkc := { s.lkc with phase := .settling, settleTime := 0 } } :=
    .of_lkc (.refl _) rfl rfl rfl (fun h => nomatch h) (.inl rfl) fun _ => id
  have h2 := h1.acts.tail (.clock { s.nck with syncTimer := some (syncLength s) } _)
  exact h2.tail (.landing { s.ldi with taking := true } _ id)

/-- R178 steps 3 to 5: the array is given, the start-up hold is emptied, and its records follow the START record. -/
theorem joined_chain (s : State) :
    Acts { giveArray (served s) with jnc := { (giveArray (served s)).jnc with startHold := [] } } (joined s) := by
  unfold joined stageStart
  exact ((Act.ask _ _).acts.trans (foldl_ask_acts _ _)).trans (joinLink_acts _)

theorem Acts.moves {s t : State} (h : Acts s t) : Moves s t := Relation.ReflTransGen.mono (fun _ _ => Move.act) _ _ h

theorem joined_moves (s : State) : Moves (served s) (joined s) :=
  ((Act.give _).moves.tail (.soft (.unheld _))).trans (joined_chain s).moves

/-- R179: the journal's counters and the write pointer as the scan rebuilds them. -/
def scanJournal (s : State) : Journal :=
  let rs := journalRecords s.flash
  let newest := newestWhere (fun _ => true) rs
  let seq : W32 := match newest with | none => 0 | some r => r.2.seq
  { s.jnc with
    seqCounter := seq, newest := seq, auditMark := rebuiltMark rs
    writePtr := match newest with | none => 0 | some r => nextSlot r.1 }

/-- R149: the next record takes the number after the newest of the journal. -/
theorem scanJournal_counter (s : State) : (scanJournal s).seqCounter = (scanJournal s).newest := by
  unfold scanJournal
  generalize journalRecords s.flash = rs
  rfl

/-- R180: what the scan leaves of the journal controller. -/
theorem scanJournal_keeps (s : State) :
    (scanJournal s).staging = s.jnc.staging ∧ (scanJournal s).deferred = s.jnc.deferred ∧
    (scanJournal s).startHold = s.jnc.startHold ∧ (scanJournal s).pendingRead = s.jnc.pendingRead ∧
    (scanJournal s).array = s.jnc.array := by
  unfold scanJournal
  exact ⟨rfl, rfl, rfl, rfl, rfl⟩

/-- R58, R64: the night as the scan rebuilds it. -/
def scanNight (s : State) : NightList :=
  let rs := journalRecords s.flash
  let night : W16 := match newestWhere (fun _ => true) rs with | none => 0 | some r => r.2.night
  { entries := rebuiltNightList rs night, night := night, closeSinceStart := false }

/-- R112, R132, R160, R179: the hold reasons as the scan leaves them. -/
def scanHolds (s : State) : HoldSet :=
  let rs := journalRecords s.flash
  { s.csq.holds with
    jam := rebuiltJammed rs s.straps.shf, audit := rebuiltAudit rs
    binFull := s.csq.holds.binFull || tallyFull s.cfg (rebuiltTally rs s.straps.shf)
    journalFull := fullJudged s.flash (scanJournal s) }

/-- R112: the coordinator as the scan leaves it. -/
def scanShafts (s : State) : Shafts :=
  let rs := journalRecords s.flash
  { s.shc with
    views := s.shc.views.set s.straps.shf (if rebuiltJammed rs s.straps.shf then .jammed else .free)
    holdAge := s.shc.holdAge.set s.straps.shf none
    tallies := s.shc.tallies.set s.straps.shf (rebuiltTally rs s.straps.shf) }

/-- R112, R179: what the scan sets. -/
theorem served_frame (s : State) :
    served s = { s with
      phase := .service, csq := { s.csq with holds := scanHolds s }, nls := scanNight s, shc := scanShafts s
      jnc := scanJournal s } := by
  unfold served
  rw [judgeFull_frame]
  unfold scanRebuild
  dsimp only
  rw [raiseIfFull_frame]
  have hown (u : State) (h : u.shc = scanShafts s) (hs : u.straps = s.straps) (hc : u.cfg = s.cfg) :
      ownFull u = tallyFull s.cfg (rebuiltTally (journalRecords s.flash) s.straps.shf) := by
    unfold ownFull ownTally
    rw [h, hs, hc]
    simp [scanShafts]
  rw [hown]
  · simp only [judgeHold, HoldSet.put, setTally, setView, scanHolds, scanNight, scanShafts, scanJournal] <;>
      (generalize journalRecords s.flash = rs; rfl)
  · simp only [judgeHold_shc]
    rfl
  · simp
  · simp

/-! ## Invariants -/

/-- A predicate of the state that every command keeps, said for each kind of outcome (`Course`). -/
structure Kept (I : State → Prop) : Prop where
  pending : ∀ s p, I s → I { s with pending := p }
  start : ∀ l s, startAllowed s = true → I s → I (beginStart l s)
  released : ∀ s, I s → I { s with rstLow := false }
  reset : ∀ s p b, I s → I { holdInReset s with supply := p, rstLow := b }
  supplied : ∀ s p, I s → (p.level = s.supply.level ∨ s.phase = .inReset ∨ s.supply.level = .cut ∧ p.level = .normal) →
    I { s with supply := p }
  lost : ∀ s, I s → I (losePower s)
  front : ∀ c s t, Front c s t → I s → I t
  act : ∀ s t, Act s t → I s → I t
  tail : ∀ s t, Tail s t → I s → I t
  scan : ∀ s, s.phase = .scanning → I s → I (endScan s)

theorem Acts.keeps {I : State → Prop} (h : ∀ s t, Act s t → I s → I t) {s t : State} (k : Acts s t) (i : I s) : I t := by
  induction k with
  | refl => exact i
  | tail _ k ih => exact h _ _ k ih

theorem Moves.keeps {I : State → Prop} (h : ∀ s t, Move s t → I s → I t) {s t : State} (k : Moves s t) (i : I s) :
    I t := by
  induction k with
  | refl => exact i
  | tail _ k ih => exact h _ _ k ih

theorem Fines.keeps {I : State → Prop} (h : ∀ s t, Fine s t → I s → I t) {s t : State} (k : Fines s t) (i : I s) :
    I t := by
  induction k with
  | refl => exact i
  | tail _ k ih => exact h _ _ k ih

/-- What every kind of outcome keeps, every command keeps. -/
theorem Kept.exec {I : State → Prop} (h : Kept I) {c : Instr} {s t : State} (he : exec c s = .next t) (i : I s) : I t := by
  obtain ⟨u, hu, hc⟩ := exec_course c s
  obtain rfl : u = t := Host.Outcome.next.inj (hu.symm.trans he)
  clear hu he
  cases hc with
  | same => exact i
  | started l _ ha => exact h.start l s ha i
  | released => exact h.released s i
  | reset p b => exact h.reset s p b i
  | supplied p _ hp => exact h.supplied s p i hp
  | lost => exact h.lost s i
  | ran _ he =>
    obtain ⟨a, b, hf, ha, ht⟩ := he
    exact (settleStep_acts _).keeps h.act (h.tail _ _ ht (ha.keeps h.act (h.front c _ _ hf i)))
  | scanned _ hp => exact (settleStep_acts _).keeps h.act (h.scan s hp i)

/-- What every command keeps, every step keeps. -/
theorem Kept.step {I : State → Prop} (h : Kept I) {s t : State} (i : I s) (hs : step s = .next t) : I t := by
  unfold Sys2Proof.Machine.step at hs
  split at hs
  · cases hs; exact i
  · exact h.exec hs (h.pending _ _ i)

/-- R7, R26: the entry to HOME, by its two ways: with the hatch open, FAULT at once. -/
theorem enterHome_keeps_of {I : State → Prop} (hact : ∀ s t, Act s t → I s → I t) {s : State}
    (hhome : s.csq.hatch = .closed → I (homeAsked s)) (hforced : I (faultCore (homeAsked s))) : I (enterHome s) := by
  rw [enterHome_eq]
  split
  · exact (enterFault_chain _ _).keeps hact hforced
  · next h =>
    have hc : s.csq.hatch = .closed := by
      cases hx : s.csq.hatch with
      | closed => rfl
      | opened => exact absurd hx h
    split
    · next ha =>
      refine hact _ _ (homeReached_act rfl ?_) (hhome hc)
      unfold homeAsked Rotor.goHome
      simp [ha]
    · exact hhome hc

end Sys2Proof.Machine
end

section
/-! PROOFS. The invariants of the sequencer, the motor and the own shaft: the lock and the lamps (StepKeepsLockAndLamps), what
is judged at the end of a step (StepKeepsSettled), the motor (StepKeepsMotor), the self-held shaft (StepKeepsSelfHeld). -/

namespace Sys2Proof.Machine

theorem Front.keeps_of {I : State → Prop} (hopened : ∀ s, I s → I { s with csq := { s.csq with hatch := .opened } })
    (h : ∀ s t, Move s t → I s → I t) (c : Instr) (s t : State) (k : Front c s t) (i : I s) : I t := by
  rcases k.moves with k | ⟨-, rfl⟩
  · exact k.keeps h i
  · exact hopened s i

theorem Tail.keeps_of {I : State → Prop} (h : ∀ s t, Fine s t → I s → I t) (s t : State) (k : Tail s t) (i : I s) :
    I t := k.fines.keeps h i

/-- R178: a predicate that the operations keep is kept by the scan's end, if its first and last parts keep it. -/
theorem scan_keeps_of {I : State → Prop} (hact : ∀ s t, Act s t → I s → I t)
    (hunheld : ∀ s, I s → I { s with jnc := { s.jnc with startHold := [] } }) {s : State} (hserved : I (served s)) (hhome : ∀ u, I u → u.csq.hatch = .closed → I (homeAsked u))
    (hforced : ∀ u, I u → I (faultCore (homeAsked u))) : I (endScan s) := by
  have hj : I (joined s) := (joined_chain s).keeps hact (hunheld _ (hact _ _ (.give _) hserved))
  rw [endScan_eq]
  exact enterHome_keeps_of hact (hhome _ hj) (hforced _ hj)

/-- An invariant of the operations, of the steps before them and of the changes at the end of CHECK. -/
theorem Kept.of_moves {I : State → Prop} (pending : ∀ s p, I s → I { s with pending := p })
    (start : ∀ l s, startAllowed s = true → I s → I (beginStart l s)) (released : ∀ s, I s → I { s with rstLow := false })
    (reset : ∀ s p b, I s → I { holdInReset s with supply := p, rstLow := b })
    (supplied : ∀ s p, I s → (p.level = s.supply.level ∨ s.phase = .inReset ∨ s.supply.level = .cut ∧ p.level = .normal) →
      I { s with supply := p })
    (lost : ∀ s, I s → I (losePower s)) (fine : ∀ s t, Fine s t → I s → I t) (soft : ∀ s t, Soft s t → I s → I t)
    (opened : ∀ s, I s → I { s with csq := { s.csq with hatch := .opened } })
    (served : ∀ s, s.phase = .scanning → I s → I (served s))
    (home : ∀ u, I u → u.csq.hatch = .closed → I (homeAsked u)) (forced : ∀ u, I u → I (faultCore (homeAsked u))) :
    Kept I where
  pending := pending
  start := start
  released := released
  reset := reset
  supplied := supplied
  lost := lost
  act := fun s t h => fine s t (.act h)
  tail := Tail.keeps_of fine
  front := Front.keeps_of opened fun s t k => by
    cases k with
    | act h => exact fine s t (.act h)
    | soft h => exact soft s t h
  scan := fun s hp i => scan_keeps_of (fun s t h => fine s t (.act h)) (fun s => soft s _ (.unheld s)) (served s hp i)
    home forced

/-! ## The lock and the lamps -/

theorem LockRight.of_calm {s t : State} (h : Calm s t) (i : LockRight s) : LockRight t := by
  unfold LockRight
  rw [h.lock, h.phase, h.state]
  exact i

theorem lampMode_congr {s t : State} (hs : t.csq.state = s.csq.state) (hp : t.phase = s.phase)
    (ha : t.csq.accepted = s.csq.accepted) (hr : t.lms.readyTimer = s.lms.readyTimer) : lampMode t = lampMode s := by
  funext l
  cases l <;> simp only [lampMode, hs, hp, ha, hr]

theorem Calm.keeps_lamps {s t : State} (h : Calm s t) (i : LampsRight s) : LampsRight t := fun hp => by
  rcases h.lamps with ⟨ha, hm, hr⟩ | hl
  · rw [hm, i (h.phase ▸ hp), lampMode_congr h.state h.phase ha hr]
  · exact hl

theorem SoftKeeps.lock {s t : State} (h : SoftKeeps s t) (i : LockRight s) : LockRight t := by
  unfold LockRight
  rw [h.csq, h.phase]
  exact i

theorem SoftKeeps.lamps {s t : State} (h : SoftKeeps s t) (i : LampsRight s) : LampsRight t := fun hp => by
  rw [h.lms, i (h.phase ▸ hp), lampMode_congr (by rw [h.csq]) h.phase (by rw [h.csq]) (by rw [h.lms])]

/-- The last part of an entry to FAULT from HOME that has just been entered. -/
theorem forced_lock (u : State) : LockRight (faultCore (homeAsked u)) ∧
    (faultCore (homeAsked u)).lms.modes = PerLamp.ofFn (lampMode (faultCore (homeAsked u))) := by
  have h := faultCore_entered (s := homeAsked u) rfl (by simp [homeAsked])
  exact ⟨h.lock, h.lamps⟩

theorem holdInReset_cases (s : State) : holdInReset s = s ∧ s.phase = .inReset ∨
    ∃ m n, holdInReset s = { State.reset with
      supply := s.supply, rstLow := s.rstLow, straps := s.straps, cfg := s.cfg, flash := m, draws := n
      pending := s.pending } := by
  unfold holdInReset
  split
  · exact .inl ⟨rfl, ‹_›⟩
  · refine .inr ⟨(abandonArray s).flash, (abandonArray s).draws, ?_⟩
    unfold enterReset
    rw [abandonArray_frame]

theorem lockRight_kept : Kept LockRight := by
  refine .of_moves (fun _ _ => id) (fun l s _ _ => ?_) (fun _ => id) (fun s p b i => ?_) (fun _ _ i _ => i)
    (fun _ _ => rfl) (fun s t h i => ?_) (fun s t h => h.keeps.lock) (fun _ => id) (fun s hp i => ?_) (fun u _ _ => rfl)
    fun u _ => (forced_lock u).1
  · unfold LockRight lockLine beginStart
    cases addressValid l.adr <;> simp [startSequencer]
  · rcases holdInReset_cases s with ⟨h, -⟩ | ⟨m, n, h⟩
    · rw [h]; exact i
    · rw [h]; rfl
  · rcases h.calm_or_entered with h | h
    · exact i.of_calm h
    · exact h.lock
  · rw [served_frame]
    unfold LockRight lockLine at i ⊢
    rw [hp] at i
    simpa using i

theorem lampsRight_kept : Kept LampsRight := by
  refine .of_moves (fun _ _ => id) (fun l s _ _ _ => rfl) (fun _ => id) (fun s p b i hp => ?_) (fun _ _ i _ => i)
    (fun _ _ hp => absurd rfl hp) (fun s t h i => ?_) (fun s t h => h.keeps.lamps) (fun _ => id) (fun s hp i => ?_)
    (fun u _ _ _ => rfl) fun u _ _ => (forced_lock u).2
  · exact absurd (holdInReset_phase s) hp
  · rcases h.calm_or_entered with h | h
    · exact h.keeps_lamps i
    · exact fun _ => h.lamps
  · rw [served_frame]
    intro _
    refine (i (by simp [hp])).trans ?_
    congr 1
    funext l
    cases l <;> simp only [lampMode, hp] <;> rfl

/-- Settles O6: the operations leave the lock and the lamps or enter a state with them. -/
theorem stepKeepsLockAndLamps : Obligations.StepKeepsLockAndLamps :=
  ⟨fun _ _ i h => lockRight_kept.step i h, fun _ _ i h => lampsRight_kept.step i h⟩

end Sys2Proof.Machine
end

section
/-! PROOFS. The journal controller's books: what each operation does to the staging queue, the sequence counter, the deferred
request and the start-up hold. The invariants of the staging queue and its sequence numbers. -/

namespace Sys2Proof.Machine

/-! ## The giving of the array leaves the books -/

theorem startProgram_jnc (s : State) : (startProgram s).jnc = { s.jnc with
    writePtr := (startProgram s).jnc.writePtr, array := (startProgram s).jnc.array } := by
  unfold startProgram
  dsimp only
  split <;> rfl

theorem giveOperation_jnc (s : State) : (giveOperation s).jnc = { s.jnc with
    writePtr := (giveOperation s).jnc.writePtr, array := (giveOperation s).jnc.array } := by
  unfold giveOperation
  split
  · rfl
  · split
    · rfl
    · split
      · rfl
      · exact startProgram_jnc s

theorem servePending_jnc (s : State) : (servePending s).jnc = { s.jnc with pendingRead := none } := by
  unfold servePending
  split
  · next h => rw [← h]
  · rw [(serveRead_op _ _).jnc]

/-- R154: the giving of the array changes the operation, the write pointer and the read that waits. -/
theorem giveArray_jnc (s : State) : (giveArray s).jnc = { s.jnc with
    writePtr := (giveArray s).jnc.writePtr, array := (giveArray s).jnc.array
    pendingRead := (giveArray s).jnc.pendingRead } := by
  unfold giveArray
  split
  · rw [giveOperation_jnc, servePending_jnc]
  · rfl

/-- What of the journal controller only a staging, a writing and the scan change. -/
structure SameBooks (j k : Journal) : Prop where
  staging : k.staging = j.staging
  seqCounter : k.seqCounter = j.seqCounter
  newest : k.newest = j.newest
  deferred : k.deferred = j.deferred
  startHold : k.startHold = j.startHold

theorem SameBooks.of_give (s : State) : SameBooks s.jnc (giveArray s).jnc := by
  rw [giveArray_jnc]
  constructor <;> rfl

/-- What an operation of the journal controller does to its books. -/
inductive Booked (s t : State) : Prop
  | same (h : SameBooks s.jnc t.jnc)
  | held (req : RecordReq) (hp : s.phase ≠ .service) (h6 : s.jnc.startHold.length < 6)
      (h : SameBooks { s.jnc with startHold := s.jnc.startHold ++ [req] } t.jnc)
  | bumped (hp : s.phase = .service) (h : SameBooks { s.jnc with staging := bumpLast s.jnc.staging } t.jnc)
  | pushed (req : RecordReq) (hp : s.phase = .service ∨ s.csq.state ≠ .start) (h8 : s.jnc.staging.length < 8)
      (hm : s.jnc.seqCounter ≠ seqMax) (h : SameBooks (pushRecord req s).jnc t.jnc)
  | deferred (req : RecordReq) (hp : s.csq.state ≠ .start) (h8 : 8 ≤ s.jnc.staging.length)
      (h : SameBooks { s.jnc with deferred := some req } t.jnc)

/-- R149: a record is staged unless no sequence number is left. -/
theorem stageNow_booked {req : RecordReq} {s : State} (hp : s.phase = .service ∨ s.csq.state ≠ .start)
    (h8 : s.jnc.staging.length < 8 ∨ s.jnc.seqCounter = seqMax) : Booked s (stageNow req s) := by
  unfold stageNow
  split
  · exact .same ⟨rfl, rfl, rfl, rfl, rfl⟩
  · next h => exact .pushed req hp (h8.resolve_right h) h (.of_give (judgeFull (judgeBusy (pushRecord req s))))

theorem JournalAct.booked {s t : State} (h : JournalAct s t) : Booked s t := by
  cases h with
  | ask req =>
    unfold askGeneral holdForStart
    split
    · next hp =>
      split
      · next h6 => exact .held req hp h6 ⟨rfl, rfl, rfl, rfl, rfl⟩
      · exact .same ⟨rfl, rfl, rfl, rfl, rfl⟩
    · next hp =>
      have hs : s.phase = .service := not_not.1 hp
      split
      · exact .bumped hs ⟨rfl, rfl, rfl, rfl, rfl⟩
      · split
        · next h7 => exact stageNow_booked (.inl hs) (.inl (by omega))
        · exact .same ⟨rfl, rfl, rfl, rfl, rfl⟩
  | askBag req _ hs =>
    unfold Sys2Proof.Machine.askBag
    split
    · next hb =>
      simp only [bagPlace, Bool.or_eq_true, decide_eq_true_eq, beq_iff_eq] at hb
      exact stageNow_booked (.inr hs) hb
    · next hb =>
      simp only [bagPlace, Bool.or_eq_true, decide_eq_true_eq, beq_iff_eq, not_or, not_lt] at hb
      exact .deferred req hs hb.1 ⟨rfl, rfl, rfl, rfl, rfl⟩
  | give => exact .same (.of_give s)

/-! ## The sequence of the start-up and the sequence numbers -/

theorem toNat_succ_of_ne_max {x : W32} (h : x ≠ seqMax) : (x + 1).toNat = x.toNat + 1 := by
  have h1 := x.isLt
  have h2 : x.toNat ≠ 4294967295 := fun e => h (BitVec.eq_of_toNat_eq (by simpa [seqMax] using e))
  rw [BitVec.toNat_add]
  simp
  omega

theorem SequenceRight.of_books {t : State} {j : Journal}
    (i : j.seqCounter.toNat = j.newest.toNat + j.staging.length ∧
      j.staging.map (fun r => r.seq.toNat) = List.range' (j.newest.toNat + 1) j.staging.length)
    (h : SameBooks j t.jnc) : SequenceRight t := by
  unfold SequenceRight
  rw [h.staging, h.seqCounter, h.newest]
  exact i

theorem bumpLast_seqs : ∀ l : List Record, (bumpLast l).map (fun r => r.seq.toNat) = l.map (fun r => r.seq.toNat)
  | [] => rfl
  | [_] => rfl
  | r :: q :: rest => congrArg (r.seq.toNat :: ·) (bumpLast_seqs (q :: rest))

/-- R149: a record that is staged takes the number after the last. -/
theorem SequenceRight.push {s : State} (i : SequenceRight s) (req : RecordReq) (hm : s.jnc.seqCounter ≠ seqMax) :
    SequenceRight (pushRecord req s) := by
  obtain ⟨h1, h2⟩ := i
  refine ⟨?_, ?_⟩
  · simp only [pushRecord, toNat_succ_of_ne_max hm, List.length_append, List.length_singleton]
    omega
  · simp only [pushRecord, List.map_append, h2, List.map_cons, List.map_nil, stamped, toNat_succ_of_ne_max hm,
      List.length_append, List.length_singleton, List.range'_append_1 .. |>.symm]
    rw [h1]
    simp [List.range', Nat.add_comm, Nat.add_left_comm]

theorem SequenceRight.booked {s t : State} (i : SequenceRight s) (h : Booked s t) : SequenceRight t := by
  cases h with
  | same h => exact .of_books i h
  | held req _ _ h => exact .of_books (j := { s.jnc with startHold := s.jnc.startHold ++ [req] }) i h
  | bumped _ h =>
    refine .of_books ?_ h
    simpa only [bumpLast_length, bumpLast_seqs] using i
  | pushed req _ _ hm h => exact .of_books (i.push req hm) h
  | deferred req _ _ h => exact .of_books (j := { s.jnc with deferred := some req }) i h

/-- R155, R152: the oldest record has been written, and a deferred one staged. -/
theorem SequenceRight.written {s : State} {r : Record} {rest : List Record} (i : SequenceRight s)
    (h : s.jnc.staging = r :: rest) : SequenceRight (deferredStaged (recordWritten r rest s)) := by
  obtain ⟨h1, h2⟩ := i
  rw [h] at h1 h2
  simp only [List.map_cons, List.length_cons, List.range'_succ, List.cons.injEq] at h1 h2
  have hw : SequenceRight (recordWritten r rest s) := by
    refine ⟨?_, ?_⟩
    · simp only [recordWritten]
      omega
    · simp only [recordWritten, h2.1]
      exact h2.2
  unfold deferredStaged
  split
  · exact hw
  · split
    · dsimp only
      split
      · exact hw
      · next hm => exact SequenceRight.push (s := { recordWritten r rest s with jnc := { (recordWritten r rest s).jnc with deferred := none } }) hw _ hm
    · exact hw

theorem SequenceRight.act {s t : State} (h : Act s t) (i : SequenceRight s) : SequenceRight t := by
  rcases h.jnc with h | h
  · unfold SequenceRight
    rw [h]
    exact i
  · exact i.booked h.booked

theorem SequenceRight.soft {s t : State} (h : Soft s t) (i : SequenceRight s) : SequenceRight t := by
  cases h with
  | written r rest _ h => exact i.written h
  | received j => rw [completed_frame]; exact i
  | claimed j k age => rw [completed_frame]; exact i
  | _ => exact i

/-- R6: an operation keeps START as the state of the start-up sequence. -/
theorem StartRight.act {s t : State} (h : Act s t) (i : StartRight s) : StartRight t := by
  obtain ⟨hiff, hst⟩ := i
  refine ⟨?_, fun hp => ?_⟩
  · rcases h.calm_or_entered with k | k
    · rw [k.state, k.phase]; exact hiff
    · have hs : s.phase = .service := not_not.1 fun hp => k.left (hiff.2 hp)
      rw [k.phase]
      simp [k.state, hs]
  · rw [h.steady.phase] at hp
    have hstart := hiff.2 hp
    rcases h.jnc with h | h
    · rw [h]; exact hst hp
    · cases h.booked with
      | same h => exact h.staging.trans (hst hp)
      | held _ _ _ h => exact h.staging.trans (hst hp)
      | bumped hs => exact absurd hs hp
      | pushed _ hs => exact absurd hstart (hs.resolve_left hp)
      | deferred _ hs => exact absurd hstart hs

theorem StartRight.soft {s t : State} (h : Soft s t) (i : StartRight s) : StartRight t := by
  obtain ⟨hiff, hst⟩ := i
  have hk := h.keeps
  refine ⟨by rw [hk.csq, hk.phase]; exact hiff, fun hp => ?_⟩
  rw [hk.phase] at hp
  cases h with
  | written r rest _ h => rw [hst hp] at h; cases h
  | received j => rw [completed_frame]; exact hst hp
  | claimed j k age => rw [completed_frame]; exact hst hp
  | _ => exact hst hp

/-- The part is in service, in another state than START. -/
def InService (s : State) : Prop := s.phase = .service ∧ s.csq.state ≠ .start

theorem InService.act {s t : State} (h : Act s t) (i : InService s) : InService t := by
  refine ⟨h.steady.phase.trans i.1, ?_⟩
  rcases h.calm_or_entered with k | k
  · rw [k.state]; exact i.2
  · exact k.state

theorem joined_phase (s : State) : (joined s).phase = .service := by
  refine (joined_moves s).keeps (I := fun u => u.phase = .service) (fun s t k i => ?_) (by rw [served_frame])
  cases k with
  | act h => exact h.steady.phase.trans i
  | soft h => exact h.keeps.phase.trans i

/-- R178: after the scan the part is in service, and START is left. -/
theorem endScan_inService (s : State) : InService (endScan s) := by
  rw [endScan_eq]
  refine enterHome_keeps_of (fun _ _ => .act) (fun _ => ⟨joined_phase s, by simp [homeAsked]⟩) ⟨?_, ?_⟩
  · exact (faultCore_steady _).phase.trans (joined_phase s)
  · rw [(faultCore_csq _).1]
    simp

theorem StartRight.fill {s : State} {c : Sequencer} (h : SameSeq s.csq c) (i : StartRight s) :
    StartRight { s with csq := c } :=
  ⟨by rw [← i.1]; show c.state = _ ↔ _; rw [h.state], i.2⟩

theorem startRight_kept : Kept StartRight where
  pending := fun _ _ => id
  start := fun l s _ _ => by
    refine ⟨?_, fun _ => rfl⟩
    unfold beginStart
    cases addressValid l.adr <;> simp [startSequencer]
  released := fun _ => id
  reset := fun s p b i => by
    rcases holdInReset_cases s with ⟨h, -⟩ | ⟨m, n, h⟩ <;> rw [h]
    · exact i
    · exact ⟨by simp [State.reset], fun _ => rfl⟩
  supplied := fun _ _ i _ => i
  lost := fun _ _ => ⟨by simp [losePower, State.reset], fun _ => rfl⟩
  act := fun _ _ => .act
  front := Front.keeps_of (fun _ => id) fun s t k => by
    cases k with
    | act h => exact .act h
    | soft h => exact .soft h
  tail := Tail.keeps_of fun s t k i => by
    cases k with
    | act h => exact .act h i
    | fill c _ hc => exact i.fill hc
  scan := fun s _ _ => ⟨by simp [endScan_inService s |>.1, endScan_inService s |>.2], fun hp =>
    absurd (endScan_inService s).1 hp⟩

theorem SequenceRight.empty {s : State} (hs : s.jnc.staging = []) (hn : s.jnc.seqCounter = s.jnc.newest) :
    SequenceRight s := by
  unfold SequenceRight
  rw [hs, hn]
  exact ⟨rfl, rfl⟩

theorem sequenceRight_kept : Kept fun s => StartRight s ∧ SequenceRight s where
  pending := fun _ _ => id
  start := fun l s h i => ⟨startRight_kept.start l s h i.1, .empty rfl rfl⟩
  released := fun _ => id
  reset := fun s p b i => ⟨startRight_kept.reset s p b i.1, by
    rcases holdInReset_cases s with ⟨h, -⟩ | ⟨m, n, h⟩ <;> rw [h]
    · exact i.2
    · exact .empty rfl rfl⟩
  supplied := fun _ _ i _ => i
  lost := fun s i => ⟨startRight_kept.lost s i.1, .empty rfl rfl⟩
  act := fun s t h i => ⟨i.1.act h, i.2.act h⟩
  front := Front.keeps_of (fun _ => id) fun s t k i => by
    cases k with
    | act h => exact ⟨i.1.act h, i.2.act h⟩
    | soft h => exact ⟨i.1.soft h, i.2.soft h⟩
  tail := fun s t k i => ⟨startRight_kept.tail s t k i.1, Tail.keeps_of (I := SequenceRight) (fun s t k i => by
    cases k with
    | act h => exact i.act h
    | fill c => exact i) s t k i.2⟩
  scan := fun s hp i => by
    refine ⟨startRight_kept.scan s hp i.1, ?_⟩
    refine scan_keeps_of (fun _ _ h j => .act h j) (fun _ => id) ?_ (fun _ j _ => j) fun u j => ?_
    · rw [served_frame]
      exact .empty ((scanJournal_keeps s).1.trans (i.1.2 (by simp [hp]))) (scanJournal_counter s)
    · rw [faultCore_frame]
      exact j

/-- Settles O5: no operation enters START, the staging queue is empty until the scan's end, and each staging takes the next
sequence number. -/
theorem stepKeepsSequence : Obligations.StepKeepsSequence := fun _ _ hs i h => sequenceRight_kept.step ⟨hs, i⟩ h

end Sys2Proof.Machine
end

section
/-! PROOFS. What is judged at the end of every step (StepKeepsSettled), the motor (StepKeepsMotor) and the self-held shaft
(StepKeepsSelfHeld). -/

namespace Sys2Proof.Machine

/-! ## What the judgements at the end of a step need and give -/

/-- R26, R39: what the operations of a step leave to its judgements: the hatch is shut where it is to be, and the tare
interval timer stands still during a check. -/
def ToBeSettled (s : State) : Prop := hatchShut s.csq ∧ tareStands s.wch

theorem Settled.ready {s : State} (h : Settled s) : ToBeSettled s := by
  obtain ⟨-, -, hshut, hrun, hstop⟩ := h
  refine ⟨hshut, fun ht => ?_⟩
  cases he : tareEligible s with
  | true => exact (hrun he).1 ht
  | false => exact absurd ht (hstop he).1

theorem Act.tareStands {s t : State} (h : Act s t) (i : tareStands s.wch) : Machine.tareStands t.wch := by
  have fault (u : State) (hu : u.wch = s.wch) : Machine.tareStands (faultCore u).wch := by
    rw [(faultCore_windows u).1, hu]
    split
    · intro h; cases h
    · exact i
  cases h with
  | link h => rw [h.wch]; exact i
  | journal h => rw [h.op.wch]; exact i
  | filled x => rw [raiseIfFull_frame]; exact i
  | jammed h => rw [show (raiseHold .jam _).wch = _ from h.wch]; exact i
  | weigh w _ _ ht => exact ht i
  | fault => exact fault s rfl
  | forced c => exact fault _ rfl
  | _ => exact i

theorem ToBeSettled.act {s t : State} (h : Act s t) (i : ToBeSettled s) : ToBeSettled t := by
  refine ⟨?_, h.tareStands i.2⟩
  rcases h.calm_or_entered with k | k
  · intro hs
    rw [k.state] at hs
    rcases k.hatch with hh | hh
    · rw [hh]; exact i.1 hs
    · exact hh
  · exact k.shut i.1

theorem ToBeSettled.soft {s t : State} (h : Soft s t) (i : ToBeSettled s) : ToBeSettled t := by
  have k := h.keeps
  unfold ToBeSettled hatchShut
  rw [k.csq, k.wch]
  exact i

theorem ToBeSettled.fine {s t : State} (h : Fine s t) (i : ToBeSettled s) : ToBeSettled t := by
  cases h with
  | act h => exact i.act h
  | fill c _ hc =>
    refine ⟨fun hs => ?_, i.2⟩
    change c.hatch = .closed
    rcases hc.hatch with hh | hh
    · rw [hh]; exact i.1 (hc.state ▸ hs)
    · exact hh

/-- R39, R40: the tare interval timer as `judgeTare` leaves it. -/
theorem judgeTare_settles {s : State} (i : tareStands s.wch) :
    (tareEligible s = true → ((judgeTare s).wch.activity = .tare ↔ (judgeTare s).wch.tareInterval = none)) ∧
    (tareEligible s = false → (judgeTare s).wch.activity ≠ .tare ∧ (judgeTare s).wch.tareInterval = none) := by
  unfold judgeTare
  cases he : tareEligible s with
  | true =>
    simp only [if_true, true_implies, Bool.true_eq_false, false_implies, and_true]
    split
    · next h => exact ⟨i, fun hn => h.resolve_right fun hx => hx hn⟩
    · next h => simpa using fun ha => h (.inl ha)
  | false =>
    by_cases ha : s.wch.activity = .tare <;> simp [ha]

/-- R8, R11: the states IDLE and HELD as `judgeHeld` leaves them. -/
theorem judgeHeld_settles {s : State} (hi : s.csq.state = .idle → s.csq.hatch = .closed)
    (hh : s.csq.state = .held → s.csq.holds.isEmpty = true → s.csq.hatch = .closed) :
    ((judgeHeld s).csq.state = .idle → (judgeHeld s).csq.holds.isEmpty = true ∧ (judgeHeld s).csq.hatch = .closed) ∧
    ((judgeHeld s).csq.state = .held → (judgeHeld s).csq.holds.isEmpty = false) := by
  unfold judgeHeld
  cases he : s.csq.holds.isEmpty <;> by_cases h1 : s.csq.state = .idle <;> by_cases h2 : s.csq.state = .held <;>
    simp_all

/-- R8, R11, R26, R39: what the judgements leave is settled. -/
theorem settleStep_settled {s : State} (hi : s.csq.state = .idle → s.csq.hatch = .closed)
    (hh : s.csq.state = .held → s.csq.holds.isEmpty = true → s.csq.hatch = .closed) (ht : tareStands s.wch) :
    Settled (settleStep s) := by
  obtain ⟨hidle, hheld⟩ := judgeHeld_settles hi hh
  set u := judgeHeld s with hu
  have hut : tareStands u.wch := by rw [hu, judgeHeld_wch]; exact ht
  have hhatch : ((judgeHatch u).csq.state = .idle → (judgeHatch u).csq.holds.isEmpty = true) ∧
      ((judgeHatch u).csq.state = .held → (judgeHatch u).csq.holds.isEmpty = false) ∧ hatchShut (judgeHatch u).csq := by
    unfold judgeHatch
    split
    · have hf : (enterFault .hatchForced u).csq.state = .fault := (enterFault_spec _ _).1
      simp [hatchShut, hf, SeqState.locked]
    · next h =>
      refine ⟨fun hs => (hidle hs).1, hheld, fun hs => ?_⟩
      rcases hs with hs | hs
      · exact (hidle hs).2
      · cases hx : u.csq.hatch with
        | closed => rfl
        | opened => exact absurd ⟨hs, hx⟩ h
  have hstands : tareStands (judgeHatch u).wch := (judgeHatch_acts u).keeps (I := fun s => tareStands s.wch)
    (fun _ _ h => h.tareStands) hut
  obtain ⟨h1, h2, h3⟩ := hhatch
  obtain ⟨h4, h5⟩ := judgeTare_settles hstands
  unfold settleStep Settled
  have hel : tareEligible (judgeTare (judgeHatch u)) = tareEligible (judgeHatch u) := by
    simp [tareEligible]
  rw [hel, judgeTare_csq]
  exact ⟨h1, h2, h3, h4, h5⟩

theorem ToBeSettled.settled {s : State} (h : ToBeSettled s) : Settled (settleStep s) :=
  settleStep_settled (fun hs => h.1 (.inl hs)) (fun hs _ => h.1 (.inr (by rw [hs]; rfl))) h.2

/-- R4, R26: a hatch that opens: FAULT where it is to be shut. -/
theorem hatchOpens_settled {s : State} (i : Settled s) : Settled (settleStep (hatchOpens s)) := by
  have hr := i.ready
  obtain ⟨-, hheld, -⟩ := i
  unfold hatchOpens
  dsimp only
  split
  · exact settleStep_settled (fun hs => nomatch hs) (fun hs => nomatch hs) hr.2
  · next h =>
    exact settleStep_settled (fun hs => absurd (.inl hs) h) (fun hs he => by simp_all) hr.2

theorem ToBeSettled.move {s t : State} (h : Move s t) (i : ToBeSettled s) : ToBeSettled t := by
  cases h with
  | act h => exact i.act h
  | soft h => exact i.soft h

/-- R7: the scan ends in FAULT, or in another state with the hatch shut. -/
theorem ToBeSettled.scan {s : State} (i : ToBeSettled s) : ToBeSettled (endScan s) := by
  have hact (s t : State) (h : Act s t) (i : ToBeSettled s) : ToBeSettled t := i.act h
  refine scan_keeps_of hact (fun _ => id) ?_ (fun u j hu => ⟨fun _ => hu, j.2⟩) fun u j => ?_
  · rw [served_frame]
    exact i
  · refine ⟨fun hs => ?_, ?_⟩
    · rw [(faultCore_csq _).1] at hs
      rcases hs with hs | hs <;> cases hs
    · rw [(faultCore_windows _).1]
      exact j.2

/-- R6: nothing is judged in START. -/
theorem Settled.of_start {s : State} (hs : s.csq.state = .start) (ha : s.wch.activity ≠ .tare)
    (ht : s.wch.tareInterval = none) : Settled s := by
  have he : tareEligible s = false := by simp [tareEligible, hs]
  refine ⟨?_, ?_, ?_, ?_, fun _ => ⟨ha, ht⟩⟩ <;> simp [hs, he, SeqState.locked]

theorem beginStart_state (l : StartLines) (s : State) : (beginStart l s).csq.state = .start := rfl

/-- What the judgements need is kept up to them, and they give the rest. -/
theorem exec_settled {c : Instr} {s t : State} (i : Settled s) (he : exec c s = .next t) : Settled t := by
  obtain ⟨u, hu, hc⟩ := exec_course c s
  obtain rfl : u = t := Host.Outcome.next.inj (hu.symm.trans he)
  by_cases hopen : c = .hatchOpening
  · subst hopen
    have hx : exec .hatchOpening s = running s (if s.csq.hatch = .closed then hatchOpens s else s) := rfl
    rw [hx] at hu
    cases hu
    split
    · exact i
    · split
      · exact hatchOpens_settled i
      · exact i.ready.settled
  clear hu he
  cases hc with
  | same => exact i
  | started l => exact .of_start (beginStart_state l s) (by simp [beginStart, startWeigh]) rfl
  | released => exact i
  | reset p b =>
    rcases holdInReset_cases s with ⟨h, -⟩ | ⟨m, n, h⟩ <;> rw [h]
    · exact i
    · exact .of_start rfl (by simp [State.reset]) rfl
  | supplied p => exact i
  | lost => exact .of_start rfl (by simp [losePower, State.reset]) rfl
  | ran _ he =>
    obtain ⟨a, b, hf, ha, ht⟩ := he
    have hready : ToBeSettled a := by
      rcases hf.moves with k | ⟨k, -⟩
      · exact k.keeps (fun _ _ h i => i.move h) i.ready
      · exact absurd k hopen
    exact (ht.fines.keeps (fun _ _ h i => i.fine h) (ha.keeps (fun _ _ h i => i.act h) hready)).settled
  | scanned _ hp => exact i.ready.scan.settled

/-- Settles O4: what the judgements need is kept up to them, and they give the rest. -/
theorem stepKeepsSettled : Obligations.StepKeepsSettled := by
  intro s t i h
  unfold step at h
  split at h
  · cases h; exact i
  · next c rest _ => exact exec_settled (s := { s with pending := rest }) i h

/-! ## The motor -/

theorem MotorRight.of_stopped {s : State} (hm : s.rct.mode = .stopped) (hr : s.rct.mrun ≠ .high) : MotorRight s := by
  refine ⟨?_, ?_, ?_, fun _ => hr⟩ <;> simp [hm]

/-- R66: outside TURN and HOME, MRUN is not active. -/
theorem MotorRight.mrun {s : State} (i : MotorRight s) (ht : s.csq.state ≠ .turn) (hh : s.csq.state ≠ .home) :
    s.rct.mrun ≠ .high := by
  obtain ⟨hf, hw, hr, hs⟩ := i
  cases h : s.rct.mode with
  | stopped => exact hs h
  | forward => exact absurd (hf h).1 ht
  | watch => exact (hw h).2
  | reverse => exact absurd (hr h).1 hh

/-- R66: outside TURN, FALL and HOME, the mode is STOPPED. -/
theorem MotorRight.stopped {s : State} (i : MotorRight s) (ht : s.csq.state ≠ .turn) (hf : s.csq.state ≠ .fall)
    (hh : s.csq.state ≠ .home) : s.rct.mode = .stopped := by
  obtain ⟨hfwd, hw, hr, -⟩ := i
  cases h : s.rct.mode with
  | stopped => rfl
  | forward => exact absurd (hfwd h).1 ht
  | watch => exact absurd (hw h).1 hf
  | reverse => exact absurd (hr h).1 hh

theorem faultCore_motor (s : State) : MotorRight (faultCore s) := by
  have hr : (faultCore s).rct = s.rct.stop := by rw [faultCore_frame]
  refine .of_stopped (by rw [hr]; rfl) ?_
  rw [hr]
  exact cutRun_mrun s.rct

/-- R76: the home request drives the drum in reverse, or leaves it where it stands. -/
theorem homeAsked_motor {s : State} (h : s.rct.mrun ≠ .high) : MotorRight (homeAsked s) := by
  have hrct : (homeAsked s).rct = s.rct.goHome := rfl
  have hst : (homeAsked s).csq.state = .home := rfl
  unfold MotorRight
  rw [hrct, hst]
  unfold Rotor.goHome Rotor.drive
  split
  · simpa using h
  · split <;> simp [Dir.line]

/-- R73: the turn request drives the drum forward, or has its match at once. -/
theorem turn_motor (r : Rotor) (target : Nat) (clock : W32) :
    (r.turn target clock).mode = .forward ∧ (r.turn target clock).mdir = .high ∨
    (r.turn target clock).mode = .watch ∧ (r.turn target clock).mrun ≠ .high := by
  unfold Rotor.turn
  dsimp only
  split
  · refine .inr ⟨rfl, ?_⟩
    exact cutRun_mrun _
  · refine .inl ?_
    unfold Rotor.drive
    split <;> exact ⟨rfl, rfl⟩

theorem turnAsked_motor {s : State} : MotorRight (turnAsked s) ∨ (turnAsked s).rct.mode = .watch ∧
    (turnAsked s).rct.mrun ≠ .high := by
  rcases turn_motor s.rct s.cfg.dropTarget s.nck.clock with h | h
  · have hm : (turnAsked s).rct.mode = .forward := h.1
    refine .inl ⟨fun _ => ⟨rfl, h.2⟩, ?_, ?_, ?_⟩ <;> simp [hm]
  · exact .inr h

theorem QueueOp.motor {s t : State} (h : QueueOp s t) (i : MotorRight s) : MotorRight t :=
  i.congr (by rw [h.csq]) (by rw [h.rct]) (by rw [h.rct]) (by rw [h.rct])

theorem MotorRight.act {s t : State} (h : Act s t) (i : MotorRight s) : MotorRight t := by
  cases h with
  | link h => exact h.motor i
  | journal h => exact i.congr (by rw [h.op.csq]) (by rw [h.op.rct]) (by rw [h.op.rct]) (by rw [h.op.rct])
  | seq c _ hc => exact i.congr hc.state rfl rfl rfl
  | filled x => rw [raiseIfFull_frame]; exact i
  | jammed h => exact h.motor i
  | drum r _ hr => exact hr i
  | enter st c _ hf ht =>
    have hs : s.rct.mode = .stopped := by
      rcases hf with hf | ⟨-, hf⟩
      · refine i.stopped ?_ ?_ ?_ <;> rintro h <;> rw [h] at hf <;> cases hf
      · exact hf
    exact .of_stopped hs (i.2.2.2 hs)
  | fault => exact faultCore_motor _
  | home c _ hf => exact homeAsked_motor (i.mrun (by rcases hf with ⟨h, -⟩ | h <;> simp [h])
      (by rcases hf with ⟨h, -⟩ | h <;> simp [h]))
  | forced c => exact faultCore_motor _
  | fall r c _ hf hm hr => refine ⟨?_, fun _ => ⟨rfl, hr⟩, ?_, ?_⟩ <;> simp [hm]
  | turned _ _ hw => exact turnAsked_motor.resolve_right fun h => hw h.1
  | dropped c _ _ hw =>
    rcases turn_motor s.rct s.cfg.dropTarget s.nck.clock with h | h
    · rw [show (s.rct.turn _ _).mode = .watch from hw] at h
      cases h.1
    · refine ⟨?_, fun _ => ⟨rfl, h.2⟩, ?_, ?_⟩ <;> simp [hw]
  | _ => exact i

theorem MotorRight.soft {s t : State} (h : Soft s t) (i : MotorRight s) : MotorRight t := by
  have k := h.keeps
  exact i.congr (by rw [k.csq]) (by rw [k.rct]) (by rw [k.rct]) (by rw [k.rct])

/-- R178: the scan up to the entry to HOME stays in START and leaves the motor. -/
theorem joined_motor {s : State} (h : s.csq.state = .start) (i : MotorRight s) :
    (joined s).csq.state = .start ∧ MotorRight (joined s) := by
  have hs : (served s).csq.state = .start ∧ MotorRight (served s) := by rw [served_frame]; exact ⟨h, i⟩
  refine (joined_moves s).keeps (I := fun u => u.csq.state = .start ∧ MotorRight u) (fun u t k j => ?_) hs
  cases k with
  | act k =>
    refine ⟨?_, j.2.act k⟩
    rcases k.calm_or_entered with k | k
    · exact k.state.trans j.1
    · exact absurd j.1 k.left
  | soft k => exact ⟨by rw [k.keeps.csq]; exact j.1, j.2.soft k⟩

theorem motorRight_kept : Kept fun s => StartRight s ∧ MotorRight s where
  pending := fun _ _ => id
  start := fun l s h i => ⟨startRight_kept.start l s h i.1, .of_stopped rfl (by
    cases h : addressValid l.adr <;> simp [beginStart, startRotor, h])⟩
  released := fun _ => id
  reset := fun s p b i => ⟨startRight_kept.reset s p b i.1, by
    rcases holdInReset_cases s with ⟨h, -⟩ | ⟨m, n, h⟩ <;> rw [h]
    · exact i.2
    · exact .of_stopped rfl (by simp [State.reset])⟩
  supplied := fun _ _ i _ => i
  lost := fun s i => ⟨startRight_kept.lost s i.1, .of_stopped rfl (by simp [losePower, State.reset])⟩
  act := fun s t h i => ⟨i.1.act h, i.2.act h⟩
  front := Front.keeps_of (fun _ => id) fun s t k i => by
    cases k with
    | act h => exact ⟨i.1.act h, i.2.act h⟩
    | soft h => exact ⟨i.1.soft h, i.2.soft h⟩
  tail := fun s t k i => ⟨startRight_kept.tail s t k i.1, Tail.keeps_of (I := MotorRight) (fun s t k i => by
    cases k with
    | act h => exact i.act h
    | fill c _ hc => exact i.congr hc.state rfl rfl rfl) s t k i.2⟩
  scan := fun s hp i => by
    refine ⟨startRight_kept.scan s hp i.1, ?_⟩
    have hstart : s.csq.state = .start := i.1.1.2 (by simp [hp])
    obtain ⟨hj, hm⟩ := joined_motor hstart i.2
    rw [endScan_eq]
    exact enterHome_keeps_of (fun _ _ => .act) (fun _ => homeAsked_motor (hm.mrun (by simp [hj]) (by simp [hj])))
      (faultCore_motor _)

/-- Settles O7: every operation leaves the motor, stops it, or drives it in the state that it enters. -/
theorem stepKeepsMotor : Obligations.StepKeepsMotor := fun _ _ hs i h => (motorRight_kept.step ⟨hs, i⟩ h).2

end Sys2Proof.Machine
end

section
/-! PROOFS. The queues of the link (StepKeepsQueues) and the self-held shaft (StepKeepsSelfHeld). -/

namespace Sys2Proof.Machine

/-! ## What the journal controller's operations leave of the link -/

theorem takeRx_keeps (s : State) : LinkKeeps s (takeRx s) := by
  have hrx (h : LinkRight s) : (takeRx s).lkc.rx.length ≤ 4 := by
    have := h.1
    simp only [takeRx, List.length_tail]
    omega
  exact ⟨⟨fun h => ⟨hrx h, h.2.1, h.2.2.1⟩, id, id, fun _ => id⟩, fun h => ⟨hrx h, h.2⟩⟩

theorem startProgram_lkc (s : State) : (startProgram s).lkc = s.lkc := by
  unfold startProgram
  dsimp only
  split <;> rfl

theorem giveOperation_link (s : State) : LinkKeeps s (giveOperation s) := by
  unfold giveOperation
  split
  · exact .of_lkc rfl
  · split
    · exact (takeRx_keeps s).trans (.of_lkc rfl)
    · split
      · exact .of_lkc rfl
      · exact .of_lkc (startProgram_lkc s)

theorem servePending_link (s : State) : LinkKeeps s (servePending s) := by
  unfold servePending
  split
  · exact .of_lkc rfl
  · exact LinkKeeps.trans (t := { s with jnc := { s.jnc with pendingRead := none } }) (.of_lkc rfl)
      (serveRead_link _ _).toLinkKeeps

theorem giveArray_link (s : State) : LinkKeeps s (giveArray s) := by
  unfold giveArray
  split
  · exact (servePending_link s).trans (giveOperation_link _)
  · exact .of_lkc rfl

theorem stageNow_link (req : RecordReq) (s : State) : LinkKeeps s (stageNow req s) := by
  unfold stageNow
  split
  · exact .of_lkc rfl
  · exact LinkKeeps.trans (t := judgeFull (judgeBusy (pushRecord req s))) (.of_lkc rfl) (giveArray_link _)

theorem JournalAct.link {s t : State} (h : JournalAct s t) : LinkKeeps s t := by
  cases h with
  | ask req =>
    unfold askGeneral holdForStart
    split
    · split <;> exact .of_lkc rfl
    · split
      · exact .of_lkc rfl
      · split
        · exact stageNow_link req s
        · exact .of_lkc rfl
  | askBag req =>
    unfold Sys2Proof.Machine.askBag
    split
    · exact stageNow_link req s
    · exact .of_lkc rfl
  | give => exact giveArray_link s

/-! ## What every operation leaves of the link -/

/-- From s to t the queues of the link keep what is said of them, and a frame that has been judged was so before or is
judged by the state s. -/
structure LinkSteps (s t : State) : Prop where
  link : LinkRight s → LinkRight t
  ages : AgesRight s → AgesRight t
  drop : s.lkc.dropCount ≤ 255 → t.lkc.dropCount ≤ 255
  judged : ∀ j, t.lkc.reception = .judged j → s.lkc.reception = .judged j ∨ ∃ f, j = judgeFrame s f

theorem LinkKeeps.steps {s t : State} (h : LinkKeeps s t) : LinkSteps s t :=
  ⟨h.link, h.ages, h.drop, fun j hj => .inl (h.judged j hj)⟩

theorem LinkSteps.of_lkc {s t : State} (h : t.lkc = s.lkc) : LinkSteps s t := (LinkKeeps.of_lkc h).steps

theorem Act.linkSteps {s t : State} (h : Act s t) : LinkSteps s t := by
  cases h with
  | link h => exact h.steps
  | receive _ r hr => exact ⟨id, id, id, fun j hj => .inr (hr j hj)⟩
  | holdClock _ r hr => exact ⟨id, id, id, fun j hj => .inl (hr j hj)⟩
  | journal h => exact h.link.steps
  | filled x => rw [raiseIfFull_frame]; exact .of_lkc rfl
  | jammed h => exact ⟨h.link, h.ages, h.drop, fun j hj => .inl (h.judged j hj)⟩
  | fault => rw [faultCore_frame]; exact .of_lkc rfl
  | forced c => rw [faultCore_frame]; exact .of_lkc rfl
  | _ => exact .of_lkc rfl

theorem Fine.linkSteps {s t : State} (h : Fine s t) : LinkSteps s t := by
  cases h with
  | act h => exact h.linkSteps
  | fill c => exact .of_lkc rfl

theorem completed_steps (j : Judged) (s : State) (hr : j.take.isSome = true → s.lkc.rx.length < 4) :
    LinkSteps s (pushRx j.take (judgeClash j (toSettling s))) := by
  rw [completed_frame]
  refine ⟨fun ⟨h1, h2, h3, h4⟩ => ⟨?_, h2, h3, fun h => nomatch h⟩, id, id, fun k hk => nomatch hk⟩
  cases ht : j.take with
  | none => simpa using h1
  | some m =>
    have := hr (by simp [ht])
    simp
    omega

theorem Soft.linkSteps {s t : State} (h : Soft s t) : LinkSteps s t := by
  cases h with
  | taken => exact (takeRx_keeps s).steps
  | received j _ _ hr => exact completed_steps j s hr
  | claimed j i age _ _ hr =>
    obtain ⟨h1, h2, h3, h4⟩ := completed_steps j s hr
    exact ⟨h1, h2, h3, h4⟩
  | written r rest => rw [deferredStaged_frame]; exact .of_lkc rfl
  | _ => exact .of_lkc rfl

/-! ## The queues of the link -/

/-- A predicate of the link alone that the link's operations keep and an empty link satisfies. -/
theorem Kept.of_link {P : Link → Prop} (hs : ∀ s t, LinkSteps s t → P s.lkc → P t.lkc) (hoff : ∀ l : Link,
    l.rx = [] → l.queue = [] → l.dropCount = 0 → P l) : Kept fun s => P s.lkc where
  pending := fun _ _ => id
  start := fun _ _ _ _ => hoff _ rfl rfl rfl
  released := fun _ => id
  reset := fun s p b i => by
    rcases holdInReset_cases s with ⟨h, -⟩ | ⟨m, n, h⟩ <;> rw [h]
    · exact i
    · exact hoff _ rfl rfl rfl
  supplied := fun _ _ i _ => i
  lost := fun _ _ => hoff _ rfl rfl rfl
  act := fun s t h => hs s t h.linkSteps
  front := Front.keeps_of (fun _ => id) fun s t k => by
    cases k with
    | act h => exact hs s t h.linkSteps
    | soft h => exact hs s t h.linkSteps
  tail := Tail.keeps_of fun s t k => hs s t k.linkSteps
  scan := fun s _ i => scan_keeps_of (I := fun s => P s.lkc) (fun s t h => hs s t h.linkSteps) (fun _ => id)
    (by rw [served_frame]; exact i) (fun _ j _ => j) fun u j => by rw [faultCore_frame]; exact j

theorem linkRight_kept : Kept LinkRight :=
  .of_link (P := fun l => l.rx.length ≤ 4 ∧ l.queue.length ≤ 8 ∧
    (l.queue.filter (fun e => e.content.isClaim)).length ≤ 1 ∧ (l.phase = .free → l.queue = []))
    (fun _ _ h => h.link) fun l hr hq _ => by simp [hr, hq]

theorem agesRight_kept : Kept AgesRight :=
  .of_link (P := fun l => (l.queue.map (fun e => e.age)).Nodup ∧ ∀ e ∈ l.queue, e.age < l.nextAge)
    (fun _ _ h => h.ages) fun l _ hq _ => by simp [hq]

theorem dropCount_kept : Kept fun s => s.lkc.dropCount ≤ 255 :=
  .of_link (P := fun l => l.dropCount ≤ 255) (fun _ _ h => h.drop) fun l _ _ hd => by simp [hd]

/-! ## The staging queue -/

theorem StagingRight.of_books {t : State} {j : Journal} (h : SameBooks j t.jnc) (i : j.staging.length ≤ 8 ∧ j.startHold.length ≤ 6 ∧
    (j.deferred ≠ none → j.staging.length = 8)) : StagingRight t := by
  unfold StagingRight
  rw [h.staging, h.startHold, h.deferred]
  exact i

theorem StagingRight.booked {s t : State} (i : StagingRight s) (h : Booked s t) : StagingRight t := by
  obtain ⟨h8, h6, hd⟩ := i
  cases h with
  | same h => exact .of_books h ⟨h8, h6, hd⟩
  | held req _ hlt h =>
    refine .of_books h ⟨h8, ?_, hd⟩
    simp only [List.length_append, List.length_singleton]
    omega
  | bumped _ h =>
    refine .of_books h ?_
    simpa only [bumpLast_length] using ⟨h8, h6, hd⟩
  | pushed req _ hlt _ h =>
    refine .of_books h ⟨?_, h6, fun hx => ?_⟩
    · simp only [pushRecord, List.length_append, List.length_singleton]
      omega
    · have := hd hx
      omega
  | deferred req _ hge h => exact .of_books h ⟨h8, h6, fun _ => Nat.le_antisymm h8 hge⟩

theorem StagingRight.act {s t : State} (h : Act s t) (i : StagingRight s) : StagingRight t := by
  rcases h.jnc with h | h
  · unfold StagingRight
    rw [h]
    exact i
  · exact i.booked h.booked

/-- R152: a record written makes room for the deferred one. -/
theorem StagingRight.written {s : State} {r : Record} {rest : List Record} (i : StagingRight s)
    (h : s.jnc.staging = r :: rest) : StagingRight (deferredStaged (recordWritten r rest s)) := by
  obtain ⟨h8, h6, hd⟩ := i
  rw [h] at h8 hd
  simp only [List.length_cons] at h8 hd
  have hlen : (recordWritten r rest s).jnc.staging.length = rest.length := rfl
  have hdef : (recordWritten r rest s).jnc.deferred = s.jnc.deferred := rfl
  have hhold : (recordWritten r rest s).jnc.startHold = s.jnc.startHold := rfl
  unfold deferredStaged
  split
  · next hn => exact ⟨by omega, by rw [hhold]; exact h6, fun hx => absurd hn hx⟩
  · rw [if_pos (by omega)]
    dsimp only
    split
    · exact ⟨by dsimp only; omega, by dsimp only; rw [hhold]; exact h6, fun hx => absurd rfl hx⟩
    · refine ⟨?_, h6, fun hx => absurd rfl hx⟩
      simp [pushRecord, hlen]
      omega

theorem StagingRight.soft {s t : State} (h : Soft s t) (i : StagingRight s) : StagingRight t := by
  cases h with
  | written r rest _ h => exact i.written h
  | received j => rw [completed_frame]; exact i
  | claimed j k age => rw [completed_frame]; exact i
  | unheld => exact ⟨i.1, by simp, i.2.2⟩
  | _ => exact i

theorem StagingRight.empty {s : State} (hs : s.jnc.staging = []) (hd : s.jnc.deferred = none)
    (hh : s.jnc.startHold = []) : StagingRight s := by
  simp [StagingRight, hs, hd, hh]

theorem stagingRight_kept : Kept StagingRight := by
  refine .of_moves (fun _ _ => id) (fun l s _ _ => .empty rfl rfl rfl) (fun _ => id) (fun s p b i => ?_)
    (fun _ _ i _ => i) (fun _ _ => .empty rfl rfl rfl) (fun s t h i => ?_) (fun s t h => .soft h) (fun _ => id)
    (fun s _ i => ?_) (fun _ i _ => i) fun u i => ?_
  · rcases holdInReset_cases s with ⟨h, -⟩ | ⟨m, n, h⟩ <;> rw [h]
    · exact i
    · exact .empty rfl rfl rfl
  · cases h with
    | act h => exact i.act h
    | fill c => exact i
  · obtain ⟨h1, h2, h3, -⟩ := scanJournal_keeps s
    rw [served_frame]
    unfold StagingRight
    dsimp only
    rw [h1, h2, h3]
    exact i
  · rw [faultCore_frame]
    exact i

/-- Settles O9: every operation keeps the queues and the ages of the link and the books of the journal controller. -/
theorem stepKeepsQueues : Obligations.StepKeepsQueues :=
  ⟨fun _ _ i h => linkRight_kept.step i h, fun _ _ i h => agesRight_kept.step i h,
    fun _ _ i h => stagingRight_kept.step i h⟩

/-! ## The self-held shaft -/

/-- R122: what stands of a frame that has been judged. -/
abbrev JudgedRight (own : Byte) (l : Link) : Prop :=
  match l.reception with
  | .judged j => j.claimShaft ≠ none → sourceValid j.frame.source = true ∧ (j.frame.source = own → j.driveA = true)
  | _ => True

theorem judgedRight_iff {own : Byte} {l : Link} : JudgedRight own l ↔ ∀ j, l.reception = .judged j → j.claimShaft ≠ none →
    sourceValid j.frame.source = true ∧ (j.frame.source = own → j.driveA = true) := by
  unfold JudgedRight
  split
  · next j hj => exact ⟨fun h k hk => Reception.judged.inj (hj.symm.trans hk) ▸ h, fun h => h j hj⟩
  · next hn => exact ⟨fun _ j hj => absurd hj (hn j), fun _ => trivial⟩

/-- R122: a CLAIM with the own source address is objected to. -/
theorem judgeFrame_right (s : State) (f : Frame) (h : (judgeFrame s f).claimShaft ≠ none) :
    sourceValid (judgeFrame s f).frame.source = true ∧
    ((judgeFrame s f).frame.source = s.ownByte → (judgeFrame s f).driveA = true) := by
  unfold judgeFrame at h ⊢
  split at h
  · next hc =>
    rw [if_pos hc]
    unfold judgeClaim at h ⊢
    dsimp only at h ⊢
    cases hh : (Frame.crcGood f && sourceValid f.source && f.payload.length == 5)
    · simp [hh] at h
    · refine ⟨by simp_all, fun ho => ?_⟩
      have hb : claimBusy s (byteAt f.payload 0) f.source = true := by
        unfold claimBusy
        split
        · rfl
        · simp [ho]
      simp [hb]
  · exact absurd rfl h

theorem JudgedRight.steps {s t : State} (h : LinkSteps s t) (i : JudgedRight s.ownByte s.lkc) :
    JudgedRight s.ownByte t.lkc := by
  rw [judgedRight_iff] at i ⊢
  intro j hj
  rcases h.judged j hj with h | ⟨f, rfl⟩
  · exact i j h
  · exact judgeFrame_right s f

@[simp] theorem Four.get_all {α : Type} (v : α) (i : Fin 4) : (Four.all v).get i = v := by
  fin_cases i <;> rfl

/-- R111: out of TURN and FALL the own shaft is not self-held. -/
abbrev SelfHeldWhere (s : State) : Prop := selfHeld s = true → s.csq.state = .turn ∨ s.csq.state = .fall

theorem SelfHeldWhere.congr {s t : State} (i : SelfHeldWhere s) (hs : t.csq.state = s.csq.state)
    (hv : t.shc.views = s.shc.views) (hst : t.straps = s.straps) : SelfHeldWhere t := by
  unfold SelfHeldWhere
  rw [selfHeld_congr hv hst, hs]
  exact i

theorem SelfHeldWhere.of_not {s : State} (h : selfHeld s = false) : SelfHeldWhere s := fun k => by rw [h] at k; cases k

/-- R111: a view that is not set to the own address. -/
theorem SelfHeldWhere.setView {s : State} (i : SelfHeldWhere s) (k : Fin 4) {v : View} (age : Timer)
    (h : k = s.straps.shf → v ≠ .held s.straps.adr) : SelfHeldWhere (setView k v age s) := by
  by_cases hk : k = s.straps.shf
  · refine .of_not ?_
    rw [selfHeld_setView_own hk]
    simpa using h hk
  · have hs : selfHeld (Machine.setView k v age s) = selfHeld s := by
      unfold selfHeld ownView Machine.setView
      dsimp only
      rw [Four.get_set_ne _ _ (Ne.symm hk)]
    unfold SelfHeldWhere
    rw [hs]
    exact i

theorem faultCore_selfHeld (s : State) : selfHeld (faultCore s) = false := by
  have h := faultCore_views s
  have hst := (faultCore_steady s).straps
  unfold selfHeld ownView at h ⊢
  rw [h, hst]
  split
  · simp
  · next hn => simpa using hn

theorem SelfHeldWhere.act {s t : State} (h : Act s t) (i : SelfHeldWhere s) : SelfHeldWhere t := by
  have left (hn : s.csq.state ≠ .turn ∧ s.csq.state ≠ .fall) : selfHeld s = false := by
    cases hs : selfHeld s with
    | false => rfl
    | true => rcases i hs with h | h <;> simp_all
  cases h with
  | link h => exact i.congr (by rw [h.csq]) h.views h.straps
  | journal h => exact i.congr (by rw [h.op.csq]) h.op.views h.op.straps
  | seq c _ hc => exact i.congr hc.state rfl rfl
  | filled x => rw [raiseIfFull_frame]; exact i
  | jammed h =>
    exact SelfHeldWhere.congr (i.setView s.straps.shf none fun _ => by simp) (by simpa using congrArg Sequencer.state h.csq)
      h.views h.straps
  | view k v age _ h => exact i.setView k age fun hk => (h hk).1
  | enter st c _ hf =>
    refine .of_not (left ?_)
    rcases hf with hf | ⟨hf, -⟩
    · constructor <;> intro h <;> rw [h] at hf <;> cases hf
    · simp [hf]
  | fault => exact .of_not (faultCore_selfHeld s)
  | home c _ hf =>
    refine .of_not ?_
    rcases hf with ⟨-, hf⟩ | hf
    · exact hf
    · exact left (by simp [hf])
  | forced c => exact .of_not (faultCore_selfHeld _)
  | fall => exact fun _ => .inr rfl
  | turned => exact fun _ => .inl rfl
  | dropped => exact fun _ => .inr rfl
  | _ => exact i

/-- R123: a claimer that this station has not objected to is another station. -/
theorem claimer_ne_own {own : BitVec 4} {source : Byte} (hv : sourceValid source = true)
    (ho : source ≠ own.setWidth 8) : source.setWidth 4 ≠ own := by
  rintro rfl
  apply ho
  simp only [sourceValid, Bool.and_eq_true, decide_eq_true_eq] at hv
  apply BitVec.eq_of_toNat_eq
  simp
  omega

theorem SelfHeldRight.soft {s t : State} (h : Soft s t) (i : SelfHeldWhere s ∧ JudgedRight s.ownByte s.lkc) :
    SelfHeldWhere t ∧ JudgedRight t.ownByte t.lkc := by
  have k := h.keeps
  have hown : t.ownByte = s.ownByte := by unfold State.ownByte; rw [k.straps]
  refine ⟨?_, by rw [hown]; exact i.2.steps h.linkSteps⟩
  cases h with
  | received j => rw [completed_frame]; exact i.1
  | claimed j n age _ hj hr hc hd =>
    have hw : SelfHeldWhere (pushRx j.take (judgeClash j (toSettling s))) := by rw [completed_frame]; exact i.1
    refine hw.setView n age fun _ => ?_
    obtain ⟨hv, ho⟩ := judgedRight_iff.1 i.2 j hj hc
    have hne : j.frame.source ≠ s.ownByte := fun h => by rw [ho h] at hd; cases hd
    rw [completed_frame]
    exact fun h => claimer_ne_own hv hne (View.held.inj h)
  | written r rest => rw [deferredStaged_frame]; exact i.1
  | _ => exact i.1

theorem foldl_ask_op (reqs : List RecordReq) (s : State) : JournalOp s (reqs.foldl (fun t req => askGeneral req t) s) := by
  induction reqs generalizing s with
  | nil => exact .refl s
  | cons req reqs ih => exact (askGeneral_op req s).trans (ih _)

theorem unheld_op (s : State) : JournalOp s { s with jnc := { s.jnc with startHold := [] } } := by
  constructor
  case rx => exact ⟨0, rfl⟩
  case holding => exact .inl rfl
  case quiet => exact fun h => ⟨h, rfl, rfl, rfl, rfl⟩
  all_goals rfl

/-- R178 step 4, R180: the START record and the records of the start-up hold are operations of the journal controller. -/
theorem stageStart_op (s : State) : JournalOp s (stageStart s) :=
  ((unheld_op s).trans (askGeneral_op _ _)).trans (foldl_ask_op _ _)

/-- R178: the scan leaves the own view FREE or JAMMED. -/
theorem joined_selfHeld (s : State) : selfHeld (joined s) = false := by
  have h := (giveArray_op (served s)).trans (stageStart_op _)
  have hj : selfHeld (joined s) = selfHeld (served s) := selfHeld_congr h.views h.straps
  rw [hj, served_frame]
  unfold selfHeld ownView scanShafts
  dsimp only
  rw [Four.get_set_same]
  split <;> rfl

theorem selfHeldRight_kept : Kept fun s => SelfHeldWhere s ∧ JudgedRight s.ownByte s.lkc := by
  have hact (s t : State) (h : Act s t) (i : SelfHeldWhere s ∧ JudgedRight s.ownByte s.lkc) :
      SelfHeldWhere t ∧ JudgedRight t.ownByte t.lkc := by
    have hown : t.ownByte = s.ownByte := by unfold State.ownByte; rw [h.steady.straps]
    exact ⟨i.1.act h, by rw [hown]; exact i.2.steps h.linkSteps⟩
  have hempty (s : State) (hv : s.shc.views = Four.all .free) (hr : s.lkc.reception = .absent) :
      SelfHeldWhere s ∧ JudgedRight s.ownByte s.lkc :=
    ⟨.of_not (by simp [selfHeld, ownView, hv]), judgedRight_iff.2 fun j hj => by rw [hr] at hj; cases hj⟩
  have hhome (u : State) (hs : selfHeld u = false) (hj : JudgedRight u.ownByte u.lkc) :
      SelfHeldWhere (enterHome u) ∧ JudgedRight (enterHome u).ownByte (enterHome u).lkc := by
    refine enterHome_keeps_of hact (fun _ => ⟨.of_not hs, hj⟩) ⟨.of_not (faultCore_selfHeld _), ?_⟩
    rw [faultCore_frame]
    exact hj
  refine
    { pending := fun _ _ => id, released := fun _ => id, supplied := fun _ _ i _ => i, act := hact
      start := fun l s _ _ => hempty _ rfl rfl, reset := fun s p b i => ?_, lost := fun s _ => hempty _ rfl rfl
      front := Front.keeps_of (fun _ => id) fun s t k => ?_, tail := Tail.keeps_of fun s t k i => ?_
      scan := fun s _ i => ?_ }
  · rcases holdInReset_cases s with ⟨h, -⟩ | ⟨m, n, h⟩ <;> rw [h]
    · exact i
    · exact hempty _ rfl rfl
  · cases k with
    | act h => exact hact s t h
    | soft h => exact SelfHeldRight.soft h
  · cases k with
    | act h => exact hact s t h i
    | fill c _ hc => exact ⟨i.1.congr hc.state rfl rfl, i.2⟩
  · have hj : JudgedRight (joined s).ownByte (joined s).lkc := by
      refine (joined_moves s).keeps (I := fun u => JudgedRight u.ownByte u.lkc) (fun u v k j => ?_)
        (by rw [served_frame]; exact i.2)
      cases k with
      | act h =>
        rw [show v.ownByte = u.ownByte by unfold State.ownByte; rw [h.steady.straps]]
        exact j.steps h.linkSteps
      | soft h =>
        rw [show v.ownByte = u.ownByte by unfold State.ownByte; rw [h.keeps.straps]]
        exact j.steps h.linkSteps
    rw [endScan_eq]
    exact hhome _ (joined_selfHeld s) hj

/-- Settles O8: a view becomes self-held only with TURN or FALL, and TURN and FALL are left with the shaft given up. -/
theorem stepKeepsSelfHeld : Obligations.StepKeepsSelfHeld := fun _ _ i h => selfHeldRight_kept.step i h

end Sys2Proof.Machine
end

section
/-! PROOFS. The giving of the flash array, case by case (R154 to R157), and the journal controller's work through its
operations. -/

namespace Sys2Proof.Machine

/-! ## The giving of the array -/

/-- R156: the skipping of slots stays in the page ahead's page before, wherever it begins. -/
theorem pageAhead_skipSlots (m : List Host.Cell) : ∀ fuel wp : Nat, pageAhead (skipSlots m fuel wp) = pageAhead wp
  | 0, _ => rfl
  | fuel + 1, wp => by
    unfold skipSlots
    split
    · rfl
    · split
      · rfl
      · rw [pageAhead_skipSlots m fuel]
        simp only [pageAhead, currentPage, nextSlot]
        omega

theorem nextSlot_lt (wp : Nat) : nextSlot wp < 512 := Nat.mod_lt _ (by decide)

theorem skipSlots_lt (m : List Host.Cell) : ∀ (fuel : Nat) {wp : Nat}, wp < 512 → skipSlots m fuel wp < 512
  | 0, _, h => h
  | fuel + 1, wp, h => by
    unfold skipSlots
    split
    · exact h
    · split
      · exact h
      · exact skipSlots_lt m fuel (nextSlot_lt wp)

/-- R154: what the giving of the array has done: nothing to a busy one, or to one out of service; else no read waits, and
an operation has begun, or there was none to begin. -/
inductive Given (s t : State) : Prop
  | busy (h : s.phase = .service → s.jnc.array ≠ .idle) (ht : t = s)
  | erase (hs : s.phase = .service) (hi : s.jnc.array = .idle) (hw : eraseWanted s = true) (hx : t.lkc.rx = s.lkc.rx)
      (ht : t.jnc = { s.jnc with pendingRead := none, array := .erase (pageAhead s.jnc.writePtr) })
  | info (offset : Byte) (data : List Byte) (hs : s.phase = .service) (hi : s.jnc.array = .idle)
      (hw : eraseWanted s = false) (hx : t.lkc.rx = s.lkc.rx.tail)
      (ht : t.jnc = { s.jnc with pendingRead := none, array := .info offset data })
  | rest (hs : s.phase = .service) (hi : s.jnc.array = .idle) (hw : eraseWanted s = false) (hn : s.jnc.staging = [])
      (hx : t.lkc.rx = s.lkc.rx) (ht : t.jnc = { s.jnc with pendingRead := none })
  | skip (hs : s.phase = .service) (hi : s.jnc.array = .idle) (hw : eraseWanted s = false)
      (ho : slotOffered s.flash (skipSlots s.flash 32 s.jnc.writePtr) = false) (hx : t.lkc.rx = s.lkc.rx)
      (ht : t.jnc = { s.jnc with pendingRead := none, writePtr := skipSlots s.flash 32 s.jnc.writePtr })
  | program (hs : s.phase = .service) (hi : s.jnc.array = .idle) (hw : eraseWanted s = false) (hn : s.jnc.staging ≠ [])
      (ho : slotOffered s.flash (skipSlots s.flash 32 s.jnc.writePtr) = true)
      (hc : ∀ offset data, s.lkc.rx.head? ≠ some (.configWrite offset data)) (hx : t.lkc.rx = s.lkc.rx)
      (ht : t.jnc = { s.jnc with
        pendingRead := none, writePtr := skipSlots s.flash 32 s.jnc.writePtr, array := .program })

theorem servePending_rx (s : State) : (servePending s).lkc.rx = s.lkc.rx := by
  unfold servePending
  split
  · rfl
  · exact (serveRead_op _ _).rx

theorem startProgram_jnc_eq (s : State) : (startProgram s).jnc =
    if slotOffered s.flash (skipSlots s.flash 32 s.jnc.writePtr) = true then
      { s.jnc with writePtr := skipSlots s.flash 32 s.jnc.writePtr, array := .program }
    else { s.jnc with writePtr := skipSlots s.flash 32 s.jnc.writePtr } := by
  unfold startProgram
  dsimp only
  split <;> rfl

theorem giveArray_given (s : State) : Given s (giveArray s) := by
  unfold giveArray
  split
  · next h =>
    obtain ⟨hs, hi⟩ := h
    have hop := servePending_op hi
    have hj := servePending_jnc s
    have hx := servePending_rx s
    have hw : eraseWanted (servePending s) = eraseWanted s := by
      unfold eraseWanted
      rw [hop.flash, hop.supply, hj]
    have hf : (servePending s).flash = s.flash := hop.flash
    generalize servePending s = u at hj hx hw hf
    unfold giveOperation
    rw [hw]
    split
    · next he => exact .erase hs hi he hx (by simp [hj])
    · next he =>
      have he : eraseWanted s = false := by simpa using he
      split
      · next offset data hh => exact .info offset data hs hi he (by simp [takeRx, hx]) (by simp [takeRx, hj])
      · next hc =>
        rw [hx] at hc
        have hst : u.jnc.staging = s.jnc.staging := by rw [hj]
        split
        · next hn => exact .rest hs hi he (hst ▸ hn) hx hj
        · next hn =>
          have hp := startProgram_jnc_eq u
          have hwp : u.jnc.writePtr = s.jnc.writePtr := by rw [hj]
          rw [hf, hwp] at hp
          have hpx : (startProgram u).lkc.rx = s.lkc.rx := by rw [startProgram_lkc, hx]
          split at hp
          · next ho => exact .program hs hi he (hst ▸ hn) ho hc hpx (by rw [hp, hj])
          · next ho => exact .skip hs hi he (by simpa using ho) hpx (by rw [hp, hj])
  · next h => exact .busy (fun hs hi => h ⟨hs, hi⟩) rfl

/-! ## The work through the operations -/

/-- What of a state the array's work rests on, but for the staging queue. -/
structure SameWork (s t : State) : Prop where
  steady : Steady s t
  rx : t.lkc.rx = s.lkc.rx
  work : t.jnc = { s.jnc with
    staging := t.jnc.staging, seqCounter := t.jnc.seqCounter, deferred := t.jnc.deferred, startHold := t.jnc.startHold
    newest := t.jnc.newest }

theorem bumpLast_eq_nil (l : List Record) : bumpLast l = [] ↔ l = [] := by
  rw [← List.length_eq_zero_iff, bumpLast_length, List.length_eq_zero_iff]

/-- An operation of the journal controller leaves the array's work and whether a record is staged, or stages a record and
gives the array, or gives the array. -/
theorem JournalAct.work {s t : State} (h : JournalAct s t) :
    SameWork s t ∧ (t.jnc.staging = [] ↔ s.jnc.staging = []) ∨
    ∃ u, SameWork s u ∧ t = giveArray u ∧ (u.jnc.staging = [] → s.jnc.staging = []) := by
  have same (u : State) (hs : Steady s u) (hx : u.lkc.rx = s.lkc.rx) (hj : u.jnc = { s.jnc with
      staging := u.jnc.staging, seqCounter := u.jnc.seqCounter, deferred := u.jnc.deferred, startHold := u.jnc.startHold
      newest := u.jnc.newest }) : SameWork s u := ⟨hs, hx, hj⟩
  have now (req : RecordReq) : SameWork s (stageNow req s) ∧ ((stageNow req s).jnc.staging = [] ↔ s.jnc.staging = []) ∨
      ∃ u, SameWork s u ∧ stageNow req s = giveArray u ∧ (u.jnc.staging = [] → s.jnc.staging = []) := by
    unfold stageNow
    split
    · exact .inl ⟨same s (by constructor <;> rfl) rfl rfl, Iff.rfl⟩
    · refine .inr ⟨judgeFull (judgeBusy (pushRecord req s)), same _ (by constructor <;> rfl) rfl rfl, rfl, fun h => ?_⟩
      have hl : s.jnc.staging ++ [stamped s req] = [] := h
      simp at hl
  cases h with
  | ask req =>
    unfold askGeneral holdForStart
    split
    · split <;> exact .inl ⟨same _ (by constructor <;> rfl) rfl rfl, Iff.rfl⟩
    · split
      · exact .inl ⟨same _ (by constructor <;> rfl) rfl rfl, bumpLast_eq_nil _⟩
      · split
        · exact now req
        · exact .inl ⟨same s (by constructor <;> rfl) rfl rfl, Iff.rfl⟩
  | askBag req =>
    unfold Sys2Proof.Machine.askBag
    split
    · exact now req
    · exact .inl ⟨same _ (by constructor <;> rfl) rfl rfl, Iff.rfl⟩
  | give => exact .inr ⟨s, same s (by constructor <;> rfl) rfl rfl, rfl, id⟩

/-! ## The form of the flash array -/

theorem Given.writePtr {s t : State} (h : Given s t) (hw : s.jnc.writePtr < 512) : t.jnc.writePtr < 512 := by
  cases h with
  | busy _ ht => rw [ht]; exact hw
  | skip _ _ _ _ _ ht | program _ _ _ _ _ _ _ ht => rw [ht]; exact skipSlots_lt s.flash 32 hw
  | erase _ _ _ _ ht | info _ _ _ _ _ _ ht | rest _ _ _ _ _ ht => rw [ht]; exact hw

theorem Given.page {s t : State} (h : Given s t) (he : ∀ page, s.jnc.array = .erase page → page < 16) :
    ∀ page, t.jnc.array = .erase page → page < 16 := by
  cases h with
  | busy _ ht => rw [ht]; exact he
  | erase _ _ _ _ ht =>
    rw [ht]
    exact fun page hp => by cases hp; exact pageAhead_lt _
  | info offset data _ _ _ _ ht => rw [ht]; exact fun page hp => nomatch hp
  | program _ _ _ _ _ _ _ ht => rw [ht]; exact fun page hp => nomatch hp
  | rest _ _ _ _ _ ht | skip _ _ _ _ _ ht => rw [ht]; exact he

/-- What of the array's work the operations of the journal controller keep, every operation keeps. -/
theorem Act.of_work {P : Journal → Prop} (hw : ∀ s t, SameWork s t → P s.jnc → P t.jnc)
    (hg : ∀ s t, Given s t → P s.jnc → P t.jnc) {s t : State} (h : Act s t) (i : P s.jnc) : P t.jnc := by
  rcases h.jnc with h | h
  · rw [h]
    exact i
  · rcases h.work with ⟨k, -⟩ | ⟨u, k, rfl, -⟩
    · exact hw s t k i
    · exact hg u _ (giveArray_given u) (hw s u k i)

theorem Act.writePtr {s t : State} (h : Act s t) (i : s.jnc.writePtr < 512) : t.jnc.writePtr < 512 :=
  h.of_work (P := fun j => j.writePtr < 512) (fun _ _ k i => by rw [k.work]; exact i) (fun _ _ => Given.writePtr) i

/-- What the operations need of the array's work, and keep of it. -/
abbrev WorkRight (s : State) : Prop := s.jnc.writePtr < 512 ∧ ∀ page, s.jnc.array = .erase page → page < 16

theorem WorkRight.act {s t : State} (h : Act s t) (i : WorkRight s) : WorkRight t :=
  ⟨h.writePtr i.1, h.of_work (P := fun j => ∀ page, j.array = .erase page → page < 16)
    (fun _ _ k i => by rw [k.work]; exact i) (fun _ _ => Given.page) i.2⟩

theorem deferredStaged_work (s : State) : SameWork s (deferredStaged s) := by
  rw [deferredStaged_frame]
  exact ⟨by constructor <;> rfl, rfl, rfl⟩

theorem Soft.writePtr {s t : State} (h : Soft s t) (i : s.jnc.writePtr < 512) : t.jnc.writePtr < 512 := by
  cases h with
  | received j => rw [completed_frame]; exact i
  | claimed j k age => rw [completed_frame]; exact i
  | written r rest => rw [(deferredStaged_work _).work]; exact nextSlot_lt _
  | _ => exact i

theorem WorkRight.soft {s t : State} (h : Soft s t) (i : WorkRight s) : WorkRight t := by
  refine ⟨h.writePtr i.1, ?_⟩
  cases h with
  | received j => rw [completed_frame]; exact i.2
  | claimed j k age => rw [completed_frame]; exact i.2
  | written r rest => rw [(deferredStaged_work _).work]; exact fun page hp => nomatch hp
  | erased => exact fun page hp => nomatch hp
  | info => exact fun page hp => nomatch hp
  | _ => exact i.2

/-- R145: the flash array in its canonical form, with the work inside it. -/
theorem flashRight_iff {s : State} : FlashRight s ↔ flashWf s.flash = true ∧ WorkRight s := by
  unfold FlashRight WorkRight
  generalize s.jnc.array = a
  cases a <;> simp

theorem FlashRight.act {s t : State} (h : Act s t) (i : FlashRight s) : FlashRight t := by
  rw [flashRight_iff] at i ⊢
  rw [h.steady.flash]
  exact ⟨i.1, i.2.act h⟩

theorem infoProgrammed_wf (offset : Byte) (data : List Byte) {m : List Host.Cell} (w : flashWf m = true) :
    flashWf (infoProgrammed offset data m) = true := by
  have ho := offset.isLt
  have hl : (infoData offset data).length ≤ 74 - offset.toNat := by
    unfold infoData
    rw [List.length_take]
    exact min_le_left _ _
  unfold infoProgrammed
  refine flashProgramBytes_wf _ ?_ ?_
  · simp only [infoBase, flashSize]
    omega
  · split
    · exact flashErase_wf _ w
    · exact w

theorem recordWritten_flash (r : Record) (rest : List Record) (s : State) :
    (recordWritten r rest s).flash = flashProgramBytes s.flash (32 * s.jnc.writePtr) r.toBytes := by
  rw [recordWritten]

theorem FlashRight.soft {s t : State} (h : Soft s t) (i : FlashRight s) : FlashRight t := by
  rw [flashRight_iff] at i ⊢
  refine ⟨?_, i.2.soft h⟩
  obtain ⟨w, hp, -⟩ := i
  cases h with
  | received j => rw [completed_frame]; exact w
  | claimed j k age => rw [completed_frame]; exact w
  | written r rest =>
    rw [(deferredStaged_work _).steady.flash, recordWritten_flash]
    exact flashProgramBytes_wf _ (by rw [r.toBytes_length, flashSize]; omega) w
  | erased page => exact flashErase_wf _ w
  | info offset data => exact infoProgrammed_wf offset data w
  | _ => exact w

theorem abandonArray_wf {s : State} (i : FlashRight s) : flashWf (abandonArray s).flash = true := by
  obtain ⟨w, hp, he⟩ := flashRight_iff.1 i
  unfold abandonArray
  split
  · exact w
  · exact cutOffProgram_wf hp w
  · next page ha => exact (cutOffErase_op (he page ha) w).1
  · exact (cutOffInfo_op w).1

/-- R145: entering reset keeps the canonical form. -/
theorem FlashRight.reset {s : State} (i : FlashRight s) : flashWf (holdInReset s).flash = true := by
  unfold holdInReset
  by_cases hp : s.phase = .inReset
  · rw [if_pos hp]
    exact i.1
  · rw [if_neg hp]
    exact abandonArray_wf i

theorem scanJournal_writePtr (s : State) : (scanJournal s).writePtr < 512 := by
  unfold scanJournal
  generalize journalRecords s.flash = rs
  dsimp only
  split
  · decide
  · exact nextSlot_lt _

theorem flashRight_kept : Kept FlashRight := by
  have hempty (s : State) (h : flashWf s.flash = true) (hw : s.jnc.writePtr = 0) (ha : s.jnc.array = .idle) :
      FlashRight s := by
    rw [flashRight_iff]
    exact ⟨h, by omega, by simp [ha]⟩
  refine .of_moves (fun _ _ => id) (fun l s _ i => hempty _ i.1 rfl rfl) (fun _ => id) (fun s p b i => ?_)
    (fun _ _ i _ => i) (fun s i => hempty _ ?_ rfl rfl) (fun s t h i => ?_) (fun s t h => .soft h) (fun _ => id)
    (fun s _ i => ?_) (fun _ i _ => i) fun u i => ?_
  · have hw := i.reset
    rcases holdInReset_cases s with ⟨h, -⟩ | ⟨m, n, h⟩ <;> rw [h] at hw ⊢
    · exact i
    · exact hempty _ hw rfl rfl
  · rw [losePower_flash]
    exact i.reset
  · cases h with
    | act h => exact i.act h
    | fill c => exact i
  · rw [flashRight_iff] at i ⊢
    rw [served_frame]
    refine ⟨i.1, scanJournal_writePtr s, ?_⟩
    rw [(scanJournal_keeps s).2.2.2.2]
    exact i.2.2
  · rw [faultCore_frame]
    exact i

/-- Settles O13: programming and erasing keep the canonical form, and the write pointer and the page to erase are taken
inside the journal. -/
theorem stepKeepsFlashForm : Obligations.StepKeepsFlashForm := fun _ _ i h => flashRight_kept.step i h

end Sys2Proof.Machine
end

section
/-! PROOFS. The night list, the tallies and the ranges of the other blocks (StepKeepsCountsAndLists), and what only a start
undoes (WhatOnlyAStartUndoes). -/

namespace Sys2Proof.Machine

/-! ## The night list and the tallies -/

/-- R55: what is said of the serials of a night list. -/
abbrev SerialsRight (l : List W32) : Prop :=
  l.length ≤ 256 ∧ l.Nodup ∧ (0 : W32) ∉ l ∧ (0xFFFFFFFF : W32) ∉ l

theorem serialsRight_nil : SerialsRight [] := ⟨by simp, by simp, by simp, by simp⟩

theorem addSerial_right {l : List W32} (i : SerialsRight l) (x : W32) : SerialsRight (addSerial l x) := by
  obtain ⟨hl, hn, h0, hf⟩ := i
  unfold addSerial
  split
  · exact ⟨hl, hn, h0, hf⟩
  · next hx =>
    split
    · exact ⟨hl, hn, h0, hf⟩
    · next hc =>
      split
      · exact ⟨hl, hn, h0, hf⟩
      · rw [not_or] at hx
        refine ⟨?_, ?_, ?_, ?_⟩
        · simp only [List.length_append, List.length_singleton]
          omega
        · have hm : x ∉ l := by simpa using hc
          exact List.nodup_append.2 ⟨hn, by simp, by simpa using fun a ha (he : a = x) => hm (he ▸ ha)⟩
        · simpa using ⟨h0, Ne.symm hx.1⟩
        · simpa using ⟨hf, Ne.symm hx.2⟩

theorem rebuiltNightList_right (rs : List (Nat × Record)) (night : W16) : SerialsRight (rebuiltNightList rs night) := by
  unfold rebuiltNightList
  exact List.foldlRecOn _ _ (motive := SerialsRight) serialsRight_nil fun l i r _ => addSerial_right i _

/-- R58, R64: the night list that the scan rebuilds. -/
theorem scanNight_right (s : State) : SerialsRight (scanNight s).entries := by
  unfold scanNight
  generalize journalRecords s.flash = rs
  exact rebuiltNightList_right rs _

theorem Act.night {s t : State} (h : Act s t) (i : NightListRight s) : NightListRight t := by
  cases h with
  | link h => unfold NightListRight; rw [h.nls]; exact i
  | journal h => unfold NightListRight; rw [h.op.nls]; exact i
  | close => exact ⟨by simp, by simp, by simp, by simp⟩
  | serial x => exact addSerial_right i x
  | filled x => rw [raiseIfFull_frame]; exact i
  | jammed h => unfold NightListRight; rw [show (raiseHold .jam _).nls = _ from h.nls]; exact i
  | fault => rw [faultCore_frame]; exact i
  | forced c => rw [faultCore_frame]; exact i
  | _ => exact i

theorem tallyRight_set {f : Four Tally} (h : tallyRight f.x0 ∧ tallyRight f.x1 ∧ tallyRight f.x2 ∧ tallyRight f.x3)
    (k : Fin 4) {x : Tally} (hx : tallyRight x) :
    tallyRight (f.set k x).x0 ∧ tallyRight (f.set k x).x1 ∧ tallyRight (f.set k x).x2 ∧ tallyRight (f.set k x).x3 := by
  obtain ⟨h0, h1, h2, h3⟩ := h
  fin_cases k <;> exact ⟨by assumption, by assumption, by assumption, by assumption⟩

theorem Act.talliesRight {s t : State} (h : Act s t) (i : TalliesRight s) : TalliesRight t := by
  have congr {u : State} (hu : u.shc.tallies = s.shc.tallies) : TalliesRight u := by
    unfold TalliesRight
    rw [hu]
    exact i
  cases h with
  | link h => exact congr h.tallies
  | journal h => exact congr h.op.tallies
  | tally k x _ _ hx => exact tallyRight_set i k hx
  | filled x _ hx => rw [raiseIfFull_frame]; exact tallyRight_set i _ (hx i)
  | jammed h => exact congr h.tallies
  | fault => rw [faultCore_frame]; exact i
  | forced c => rw [faultCore_frame]; exact i
  | _ => exact i

theorem foldl_saturate_le (l : List (Nat × Record)) (n : Nat) (h : n ≤ massMax) :
    l.foldl (fun acc r => saturate massMax (acc + landedMass r.2)) n ≤ massMax :=
  List.foldlRecOn _ _ (motive := (· ≤ massMax)) h fun _ _ _ _ => saturate_le _ _

theorem rebuiltTally_right (rs : List (Nat × Record)) (own : Fin 4) : tallyRight (rebuiltTally rs own) := by
  unfold rebuiltTally
  dsimp only
  refine ⟨?_, foldl_saturate_le _ 0 (Nat.zero_le _)⟩
  split
  · exact Nat.zero_le _
  · next d _ => exact Nat.le_of_lt_succ d.2.binCount.isLt

theorem scanShafts_right {s : State} (i : TalliesRight s) :
    tallyRight (scanShafts s).tallies.x0 ∧ tallyRight (scanShafts s).tallies.x1 ∧ tallyRight (scanShafts s).tallies.x2 ∧
    tallyRight (scanShafts s).tallies.x3 := by
  unfold scanShafts
  exact tallyRight_set i _ (rebuiltTally_right _ _)

theorem nightTallies_kept : Kept fun s => NightListRight s ∧ TalliesRight s := by
  have hempty (s : State) (hn : s.nls.entries = []) (ht : s.shc.tallies = Four.all { count := 0, mass := 0 }) :
      NightListRight s ∧ TalliesRight s := by
    unfold NightListRight TalliesRight
    rw [hn, ht]
    exact ⟨serialsRight_nil, by decide, by decide, by decide, by decide⟩
  refine .of_moves (fun _ _ => id) (fun l s _ i => hempty _ rfl rfl) (fun _ => id) (fun s p b i => ?_)
    (fun _ _ i _ => i) (fun s i => hempty _ rfl rfl) (fun s t h i => ?_) (fun s t h i => ?_) (fun _ => id)
    (fun s _ i => ?_) (fun _ i _ => i) fun u i => ?_
  · rcases holdInReset_cases s with ⟨h, -⟩ | ⟨m, n, h⟩ <;> rw [h]
    · exact i
    · exact hempty _ rfl rfl
  · cases h with
    | act h => exact ⟨h.night i.1, h.talliesRight i.2⟩
    | fill c => exact i
  · unfold NightListRight TalliesRight
    rw [h.keeps.nls, h.keeps.tallies]
    exact i
  · rw [served_frame]
    exact ⟨scanNight_right s, scanShafts_right i.2⟩
  · rw [faultCore_frame]
    exact i

/-! ## The weigh channel and the other ranges -/

theorem loadConfig_tareReference (m : List Host.Cell) : (loadConfig m).tareReference ≤ 1048560 := by
  unfold loadConfig
  split
  · simp [Cfg.ofRecord, clampTo]
  · simp [Cfg.default]

theorem WeighRight.faultCore {s u : State} (hu : u.wch = s.wch) (i : WeighRight s) : WeighRight (faultCore u) := by
  unfold WeighRight
  rw [(faultCore_windows u).1, hu]
  split
  · exact ⟨by simp, i.2⟩
  · exact i

theorem WeighRight.act {s t : State} (h : Act s t) (i : WeighRight s) : WeighRight t := by
  cases h with
  | link h => unfold WeighRight; rw [h.wch]; exact i
  | journal h => unfold WeighRight; rw [h.op.wch]; exact i
  | filled x => rw [raiseIfFull_frame]; exact i
  | jammed h => unfold WeighRight; rw [show (raiseHold .jam _).wch = _ from h.wch]; exact i
  | weigh w _ hw => exact hw i
  | fault => exact i.faultCore rfl
  | forced c => exact i.faultCore rfl
  | _ => exact i

/-- Table 3-1, Table 4-4: the ranges of the tag input and of the landing count. -/
abbrev InputsRight (s : State) : Prop :=
  s.tgi.buffer.length < 12 ∧ (s.tgi.readSet.length ≤ 2 ∧ s.tgi.readSet.Nodup) ∧ s.ldi.count ≤ 255

theorem InputsRight.faultCore {s u : State} (hu : u.tgi = s.tgi) (hl : u.ldi = s.ldi) (i : InputsRight s) :
    InputsRight (faultCore u) := by
  have h : (Machine.faultCore u).ldi = s.ldi := by rw [faultCore_frame]; exact hl
  unfold InputsRight
  rw [(faultCore_windows u).2, hu, h]
  split
  · exact ⟨i.1, by simp, i.2.2⟩
  · exact i

theorem InputsRight.act {s t : State} (h : Act s t) (i : InputsRight s) : InputsRight t := by
  have congr {u : State} (ht : u.tgi = s.tgi) (hl : u.ldi = s.ldi) : InputsRight u := by
    unfold InputsRight
    rw [ht, hl]
    exact i
  cases h with
  | link h => exact congr h.tgi h.ldi
  | journal h => exact congr h.op.tgi h.op.ldi
  | filled x => rw [raiseIfFull_frame]; exact i
  | jammed h => exact congr h.tgi h.ldi
  | tags g _ hb hr => exact ⟨hb i.1, hr i.2.1, i.2.2⟩
  | landing l _ hl => exact ⟨i.1, i.2.1, hl i.2.2⟩
  | fault => exact i.faultCore rfl rfl
  | forced c => exact i.faultCore rfl rfl
  | turned => exact ⟨i.1, i.2.1, Nat.zero_le _⟩
  | dropped c => exact ⟨i.1, i.2.1, Nat.zero_le _⟩
  | _ => exact i

theorem rangesRight_iff {s : State} :
    RangesRight s ↔ InputsRight s ∧ s.lkc.dropCount ≤ 255 ∧ s.jnc.writePtr < 512 := by
  unfold RangesRight InputsRight
  tauto

theorem weighRanges_kept : Kept fun s => WeighRight s ∧ InputsRight s ∧ s.lkc.dropCount ≤ 255 ∧ s.jnc.writePtr < 512 := by
  have hempty (s : State) (hw : s.wch = startWeigh s.wch.t16 ∨ s.wch = State.reset.wch) (ht : s.wch.t16 ≤ 1048560)
      (hi : s.tgi = startTags) (hl : s.ldi.count = 0) (hd : s.lkc.dropCount = 0) (hp : s.jnc.writePtr = 0) :
      WeighRight s ∧ InputsRight s ∧ s.lkc.dropCount ≤ 255 ∧ s.jnc.writePtr < 512 := by
    unfold WeighRight InputsRight
    rw [hi, hl, hd, hp]
    refine ⟨?_, by simp [startTags], by simp, by simp⟩
    rcases hw with h | h
    · rw [h]
      exact ⟨by simp [startWeigh], ht, by simp [startWeigh]⟩
    · rw [h]
      exact ⟨by simp [State.reset], by simp [State.reset], by simp [State.reset]⟩
  refine .of_moves (fun _ _ => id) (fun l s _ i => hempty _ (.inl rfl) (loadConfig_tareReference _) rfl rfl rfl rfl)
    (fun _ => id) (fun s p b i => ?_) (fun _ _ i _ => i)
    (fun s i => hempty _ (.inr rfl) (Nat.zero_le _) rfl rfl rfl rfl) (fun s t h i => ?_) (fun s t h i => ?_) (fun _ => id)
    (fun s _ i => ?_) (fun _ i _ => i) fun u i => ?_
  · rcases holdInReset_cases s with ⟨h, -⟩ | ⟨m, n, h⟩ <;> rw [h]
    · exact i
    · exact hempty _ (.inr rfl) (Nat.zero_le _) rfl rfl rfl rfl
  · obtain ⟨h1, h2, h3, h4⟩ := i
    cases h with
    | act h => exact ⟨h1.act h, h2.act h, h.linkSteps.drop h3, h.writePtr h4⟩
    | fill c => exact ⟨h1, h2, h3, h4⟩
  · obtain ⟨h1, h2, h3, h4⟩ := i
    refine ⟨?_, ?_, h.linkSteps.drop h3, h.writePtr h4⟩
    · unfold WeighRight; rw [h.keeps.wch]; exact h1
    · unfold InputsRight; rw [h.keeps.tgi, h.keeps.ldi]; exact h2
  · rw [served_frame]
    exact ⟨i.1, i.2.1, i.2.2.1, scanJournal_writePtr s⟩
  · obtain ⟨h1, h2, h3, h4⟩ := i
    have hw : WeighRight (faultCore (homeAsked u)) := h1.faultCore (s := u) rfl
    have hi : InputsRight (faultCore (homeAsked u)) := h2.faultCore (s := u) rfl rfl
    refine ⟨hw, hi, ?_⟩
    rw [faultCore_frame]
    exact ⟨h3, h4⟩

/-- Settles O12: each operation of a block keeps the block's ranges, and the scan rebuilds values within them. -/
theorem stepKeepsCountsAndLists : Obligations.StepKeepsCountsAndLists := by
  refine ⟨fun _ _ i j h => nightTallies_kept.step ⟨i, j⟩ h, fun _ _ i j h => ?_⟩
  obtain ⟨k, l⟩ := weighRanges_kept.step ⟨i, rangesRight_iff.1 j⟩ h
  exact ⟨k, rangesRight_iff.2 l⟩

/-! ## What only a start undoes -/

/-- From s to t nothing has been undone that only a start undoes. -/
structure Grown (s t : State) : Prop where
  night : s.nls.night.toNat ≤ t.nls.night.toNat
  mark : s.jnc.auditMark.toNat ≤ t.jnc.auditMark.toNat
  close : s.nls.closeSinceStart = true → t.nls.closeSinceStart = true
  clash : s.csq.holds.addressClash = true → t.csq.holds.addressClash = true
  unconfigured : t.csq.holds.unconfigured = s.csq.holds.unconfigured

theorem Grown.refl (s : State) : Grown s s := ⟨le_rfl, le_rfl, id, id, rfl⟩

theorem Grown.trans {s t u : State} (h : Grown s t) (k : Grown t u) : Grown s u :=
  ⟨h.night.trans k.night, h.mark.trans k.mark, k.close ∘ h.close, k.clash ∘ h.clash,
    k.unconfigured.trans h.unconfigured⟩

theorem Grown.of_eq {s t : State} (hn : t.nls.night = s.nls.night) (hc : t.nls.closeSinceStart = s.nls.closeSinceStart)
    (hm : t.jnc.auditMark = s.jnc.auditMark) (ha : t.csq.holds.addressClash = s.csq.holds.addressClash)
    (hu : t.csq.holds.unconfigured = s.csq.holds.unconfigured) : Grown s t := by
  refine ⟨?_, ?_, ?_, ?_, hu⟩ <;> simp [hn, hc, hm, ha]

theorem QueueOp.grown {s t : State} (h : QueueOp s t) : Grown s t :=
  .of_eq (by rw [h.nls]) (by rw [h.nls]) (by rw [h.jnc]) (by rw [h.csq]) (by rw [h.csq])

theorem JournalOp.grown {s t : State} (h : JournalOp s t) : Grown s t :=
  .of_eq (by rw [h.nls]) (by rw [h.nls]) h.auditMark (by rw [h.csq]) (by rw [h.csq])

/-- The hold reasons that an operation of another block puts leave ADDRESS_CLASH raised and UNCONFIGURED as it is. -/
theorem holdMoves_keeps {r : HoldReason} {v : Bool} {s : State} (h : holdMoves r v s) :
    (s.csq.holds.addressClash = true → (s.csq.holds.put r v).addressClash = true) ∧
    (s.csq.holds.put r v).unconfigured = s.csq.holds.unconfigured := by
  cases r with
  | unconfigured => exact absurd h (by simp [holdMoves])
  | addressClash =>
    cases v with
    | false => exact absurd h (by simp [holdMoves])
    | true => exact ⟨fun _ => rfl, rfl⟩
  | _ => exact ⟨id, rfl⟩

theorem Grown.of_holds {s t : State} (hn : t.nls = s.nls) (hj : t.jnc = s.jnc) (h : t.csq.holds = s.csq.holds) :
    Grown s t :=
  .of_eq (by rw [hn]) (by rw [hn]) (by rw [hj]) (by rw [h]) (by rw [h])

theorem faultCore_grown (s : State) : Grown s (faultCore s) := by
  have hc : (faultCore s).csq.holds = s.csq.holds := by rw [(faultCore_csq s).1]; rfl
  rw [faultCore_frame]
  exact .of_eq rfl rfl rfl (by rw [hc]) (by rw [hc])

theorem Act.grown {s t : State} (h : Act s t) : Grown s t := by
  cases h with
  | link h => exact h.grown
  | journal h => exact h.op.grown
  | close night n _ h => exact ⟨Nat.le_of_lt h, le_rfl, fun _ => rfl, id, rfl⟩
  | seq c _ hc => exact .of_holds rfl rfl hc.holds
  | hold r v w _ hr => exact ⟨le_rfl, le_rfl, id, (holdMoves_keeps hr).1, (holdMoves_keeps hr).2⟩
  | filled x => rw [raiseIfFull_frame]; exact .of_eq rfl rfl rfl rfl rfl
  | @jammed _ u h =>
    have hu : Grown s u := Grown.trans (t := setView s.straps.shf .jammed none s) (.of_eq rfl rfl rfl rfl rfl) h.grown
    exact hu.trans (.of_eq rfl rfl rfl rfl rfl)
  | enter st c _ _ _ hh => exact .of_holds rfl rfl hh
  | fault => exact faultCore_grown s
  | home c _ _ hh => exact .of_holds rfl rfl hh
  | forced c _ _ hh =>
    exact Grown.trans (t := homeAsked { s with csq := c }) (.of_holds rfl rfl hh) (faultCore_grown _)
  | fall r c _ _ _ _ hh => exact .of_holds rfl rfl hh
  | dropped c _ _ _ hh => exact .of_holds rfl rfl hh
  | _ => exact .of_eq rfl rfl rfl rfl rfl

theorem Fine.grown {s t : State} (h : Fine s t) : Grown s t := by
  cases h with
  | act h => exact h.grown
  | fill c _ hc => exact .of_holds rfl rfl hc.holds

theorem Soft.grown {s t : State} (h : Soft s t) : Grown s t := by
  have clash (j : Judged) : Grown s (pushRx j.take (judgeClash j (toSettling s))) := by
    rw [completed_frame]
    exact ⟨le_rfl, le_rfl, id, fun h => by simp [h], rfl⟩
  cases h with
  | marked m _ h => exact ⟨le_rfl, Nat.le_of_lt h, id, id, rfl⟩
  | received j => exact clash j
  | claimed j => exact (clash j).trans (.of_eq rfl rfl rfl rfl rfl)
  | written r rest => rw [deferredStaged_frame]; exact .of_eq rfl rfl rfl rfl rfl
  | judged r v w _ hr => rcases hr with rfl | rfl | rfl <;> exact .of_eq rfl rfl rfl rfl rfl
  | _ => exact .of_eq rfl rfl rfl rfl rfl

theorem Effect.grown {c : Instr} {s t : State} (h : Effect c s t) : Grown s t := by
  obtain ⟨a, b, hf, ha, ht⟩ := h
  have hfront : Grown s a := by
    rcases hf.moves with k | ⟨-, rfl⟩
    · refine k.keeps (I := Grown s) (fun u v m i => i.trans ?_) (.refl s)
      cases m with
      | act m => exact m.grown
      | soft m => exact m.grown
    · exact .of_eq rfl rfl rfl rfl rfl
  have hacts : Grown s b := ha.keeps (I := Grown s) (fun _ _ m i => i.trans m.grown) hfront
  exact ht.fines.keeps (I := Grown s) (fun _ _ m i => i.trans m.grown) hacts

theorem exec_grown {c : Instr} {s t : State} (he : exec c s = .next t) (hs : s.phase = .service)
    (ht : t.phase = .service) : Grown s t := by
  obtain ⟨u, hu, hc⟩ := exec_course c s
  obtain rfl : u = t := Host.Outcome.next.inj (hu.symm.trans he)
  clear hu he
  cases hc with
  | same => exact .refl s
  | started l _ h => exact absurd h (by simp [startAllowed, hs])
  | released => exact .of_eq rfl rfl rfl rfl rfl
  | reset p b => exact absurd ((holdInReset_phase s).symm.trans ht) (by simp)
  | supplied p => exact .of_eq rfl rfl rfl rfl rfl
  | lost => exact absurd ht (by simp [losePower, State.reset])
  | ran _ h => exact (settleStep_acts _).keeps (I := Grown s) (fun _ _ m i => i.trans m.grown) h.grown
  | scanned _ h => rw [hs] at h; cases h

/-- Settles O14: no operation lowers the night or the mark, or clears what only a start clears. -/
theorem whatOnlyAStartUndoes : Obligations.WhatOnlyAStartUndoes := by
  refine ⟨fun c s t he hs ht => ?_, fun c s t he hs ht => ?_⟩
  · have h := exec_grown he hs ht
    exact ⟨h.night, h.mark, h.close⟩
  · have h := exec_grown he hs ht
    exact ⟨h.clash, h.unconfigured⟩

end Sys2Proof.Machine
end

section
/-! PROOFS. The flash array at work (StepKeepsArrayAtWork): it is never left idle over work that it may do, what begins is
permitted, and the write pointer moves only past slots written or not blank. -/

namespace Sys2Proof.Machine

/-! ## The array is not left idle over work -/

/-- R175, R180: what the giving of the array needs. -/
abbrev ToBeGiven (s : State) : Prop :=
  (s.supply.level = .cut → s.phase = .inReset) ∧
  (s.phase ≠ .service → s.jnc.array = .idle ∧ s.jnc.pendingRead = none)

theorem ArrayRight.toBeGiven {s : State} (i : ArrayRight s) : ToBeGiven s := by
  obtain ⟨hcut, hidle, hread, -⟩ := i
  refine ⟨hcut, fun hp => ⟨hidle hp, ?_⟩⟩
  by_contra hn
  exact hread hn (hidle hp)

theorem eraseWanted_congr {s t : State} (hl : t.supply = s.supply) (hf : t.flash = s.flash)
    (hm : t.jnc.auditMark = s.jnc.auditMark) (hp : pageAhead t.jnc.writePtr = pageAhead s.jnc.writePtr) :
    eraseWanted t = eraseWanted s := by
  unfold eraseWanted
  rw [hl, hf, hm, hp]

/-- R154: an array that has been given is at work, or has no work that it may do. -/
theorem Given.arrayRight {s t : State} (h : Given s t) (hs : Steady s t) (i : ToBeGiven s) : ArrayRight t := by
  obtain ⟨hcut, hidle⟩ := i
  rw [← hs.supply, ← hs.phase] at hcut
  have given (hp : s.phase = .service) (hr : t.jnc.pendingRead = none) (hw : t.jnc.array = .idle →
      eraseWanted t = false ∧ (t.jnc.staging ≠ [] → slotOffered t.flash t.jnc.writePtr = false)) : ArrayRight t :=
    ⟨hcut, fun hn => absurd (hs.phase.trans hp) hn, fun hn => absurd hr hn, fun _ => hw⟩
  cases h with
  | busy hb ht =>
    subst ht
    refine ⟨hcut, fun hp => (hidle hp).1, fun hr ha => ?_, fun hp ha => absurd ha (hb hp)⟩
    by_cases hp : t.phase = .service
    · exact hb hp ha
    · exact hr (hidle hp).2
  | erase hp _ _ _ ht => exact given hp (by rw [ht]) fun ha => by rw [ht] at ha; cases ha
  | info _ _ hp _ _ _ ht => exact given hp (by rw [ht]) fun ha => by rw [ht] at ha; cases ha
  | program hp _ _ _ _ _ _ ht => exact given hp (by rw [ht]) fun ha => by rw [ht] at ha; cases ha
  | rest hp _ hw hn _ ht =>
    refine given hp (by rw [ht]) fun _ => ⟨?_, fun hst => absurd ?_ hst⟩
    · rw [eraseWanted_congr hs.supply hs.flash (by rw [ht]) (by rw [ht]), hw]
    · rw [ht]; exact hn
  | skip hp _ hw ho _ ht =>
    refine given hp (by rw [ht]) fun _ => ⟨?_, fun _ => ?_⟩
    · rw [eraseWanted_congr hs.supply hs.flash (by rw [ht]) (by rw [ht]; exact pageAhead_skipSlots _ _ _), hw]
    · rw [hs.flash, ht]; exact ho

theorem giveArray_arrayRight {s : State} (i : ToBeGiven s) : ArrayRight (giveArray s) :=
  (giveArray_given s).arrayRight (giveArray_op s).keeps.steady i

theorem ArrayRight.congr {s t : State} (i : ArrayRight s) (hl : t.supply = s.supply) (hp : t.phase = s.phase)
    (hf : t.flash = s.flash) (hm : t.jnc.auditMark = s.jnc.auditMark) (hw : t.jnc.writePtr = s.jnc.writePtr)
    (ha : t.jnc.array = s.jnc.array) (hr : t.jnc.pendingRead = s.jnc.pendingRead)
    (hs : t.jnc.staging = [] ↔ s.jnc.staging = []) : ArrayRight t := by
  unfold ArrayRight
  rw [eraseWanted_congr hl hf hm (by rw [hw]), hl, hp, hf, hw, ha, hr, show t.jnc.staging ≠ [] ↔ _ from not_congr hs]
  exact i

theorem ToBeGiven.congr {s t : State} (i : ToBeGiven s) (hl : t.supply = s.supply) (hp : t.phase = s.phase)
    (ha : t.jnc.array = s.jnc.array) (hr : t.jnc.pendingRead = s.jnc.pendingRead) : ToBeGiven t := by
  unfold ToBeGiven
  rw [hl, hp, ha, hr]
  exact i

theorem ToBeGiven.of_work {s t : State} (h : SameWork s t) (i : ToBeGiven s) : ToBeGiven t :=
  i.congr h.steady.supply h.steady.phase (by rw [h.work]) (by rw [h.work])

theorem ToBeGiven.journal {s t : State} (h : JournalAct s t) (i : ToBeGiven s) : ToBeGiven t := by
  rcases h.work with ⟨k, -⟩ | ⟨u, k, rfl, -⟩
  · exact i.of_work k
  · exact (giveArray_arrayRight (i.of_work k)).toBeGiven

theorem ArrayRight.of_jnc {s t : State} (i : ArrayRight s) (h : Steady s t) (hj : t.jnc = s.jnc) : ArrayRight t :=
  i.congr h.supply h.phase h.flash (by rw [hj]) (by rw [hj]) (by rw [hj]) (by rw [hj]) (by rw [hj])

theorem ArrayRight.act {s t : State} (h : Act s t) (i : ArrayRight s) : ArrayRight t := by
  rcases h.jnc with hj | hj
  · exact i.of_jnc h.steady hj
  · rcases hj.work with ⟨k, hn⟩ | ⟨u, k, rfl, -⟩
    · exact i.congr k.steady.supply k.steady.phase k.steady.flash (by rw [k.work]) (by rw [k.work]) (by rw [k.work])
        (by rw [k.work]) hn
    · exact giveArray_arrayRight (i.toBeGiven.of_work k)

/-- R152: the staging of the deferred record leaves the array's work. -/
theorem stageDeferred_work (s : State) : SameWork s (stageDeferred s) := by
  rw [stageDeferred_eq]
  have h := deferredStaged_work s
  split
  · exact ⟨h.steady.trans (by constructor <;> rfl), h.rx, h.work⟩
  · exact h

theorem ArrayRight.front {c : Instr} {s t : State} (h : Front c s t) (i : ArrayRight s) : ArrayRight t := by
  have hg := i.toBeGiven
  have done : ∀ u : State, u.supply = s.supply → u.phase = s.phase → u.jnc.array = .idle →
      u.jnc.pendingRead = s.jnc.pendingRead → ToBeGiven u := fun u hl hp ha hr => by
    unfold ToBeGiven
    rw [hl, hp, ha, hr]
    exact ⟨hg.1, fun hn => ⟨rfl, (hg.2 hn).2⟩⟩
  cases h with
  | marked m req =>
    exact giveArray_arrayRight (ToBeGiven.journal (.ask req _) (hg.congr rfl rfl rfl rfl))
  | waits req ha =>
    obtain ⟨h1, h2, -, h4⟩ := i
    exact ⟨h1, h2, fun _ => ha, h4⟩
  | received j => rw [completed_frame]; exact i
  | claimed j n age => rw [completed_frame]; exact i
  | written =>
    unfold programDone
    split
    · exact i
    · next r rest _ =>
      have h := (stageDeferred_work (recordWritten r rest s)).steady
      have hw := (stageDeferred_work (recordWritten r rest s)).work
      exact giveArray_arrayRight (done _ h.supply h.phase 
        (by show (stageDeferred _).jnc.array = _; rw [hw]; rfl) (by show (stageDeferred _).jnc.pendingRead = _; rw [hw]; rfl))
  | erased page => exact giveArray_arrayRight (done _ rfl rfl rfl rfl)
  | info offset data => exact giveArray_arrayRight (done _ rfl rfl rfl rfl)
  | warned h =>
    obtain ⟨-, h2, h3, h4⟩ := i
    refine ⟨(fun h => nomatch h), h2, h3, fun hp ha => ⟨?_, (h4 hp ha).2⟩⟩
    simp [eraseWanted, setLevel]
  | restored h =>
    refine giveArray_arrayRight (ToBeGiven.journal (.ask _ (clearHold .power (setLevel .normal s))) ?_)
    exact ⟨(fun h => nomatch h), hg.2⟩
  | _ => exact i

theorem ArrayRight.enterHome {s : State} (i : ArrayRight s) : ArrayRight (enterHome s) := by
  have h : Steady s (homeAsked s) := by constructor <;> rfl
  refine enterHome_keeps_of (fun _ _ => .act) (fun _ => i) (i.of_jnc (h.trans (faultCore_steady _)) ?_)
  rw [faultCore_frame]
  rfl

theorem arrayRight_kept : Kept ArrayRight where
  pending := fun _ _ => id
  start := fun l s ha _ => by
    have hl : (beginStart l s).supply.level = .normal := by
      simp only [startAllowed, Bool.and_eq_true, beq_iff_eq] at ha
      exact ha.2
    have hp : (beginStart l s).phase ≠ .service := by
      unfold beginStart
      cases addressValid l.adr <;> simp
    exact ⟨fun h => by (rw [hl] at h; cases h), fun _ => rfl, fun h => absurd rfl h, fun h => absurd h hp⟩
  released := fun _ => id
  reset := fun s p b i => by
    have hp := holdInReset_phase s
    rcases holdInReset_cases s with ⟨h, -⟩ | ⟨m, n, h⟩
    · rw [h] at hp ⊢
      exact ⟨fun _ => hp, i.2.1, i.2.2.1, fun hx => by rw [hp] at hx; cases hx⟩
    · rw [h]
      exact ⟨fun _ => rfl, fun _ => rfl, fun h => absurd rfl h, fun h => nomatch h⟩
  supplied := fun s p i hp => by
    obtain ⟨hcut, hidle, hread, hwork⟩ := i
    rcases hp with hp | hp | ⟨hp, hn⟩
    · refine ⟨fun h => hcut (hp ▸ h), hidle, hread, fun hs ha => ⟨?_, (hwork hs ha).2⟩⟩
      refine Eq.trans ?_ (hwork hs ha).1
      unfold eraseWanted
      rw [hp]
    · exact ⟨fun _ => hp, hidle, hread, fun hs => by rw [hp] at hs; cases hs⟩
    · refine ⟨fun h => by (rw [hn] at h; cases h), hidle, hread, fun hs => ?_⟩
      rw [hcut hp] at hs
      cases hs
  lost := fun s _ => ⟨fun _ => rfl, fun _ => rfl, fun h => absurd rfl h, fun h => nomatch h⟩
  act := fun _ _ => .act
  front := fun _ _ _ => .front
  tail := Tail.keeps_of fun s t k i => by
    cases k with
    | act h => exact i.act h
    | fill c => exact i
  scan := fun s hp i => by
    have hserved : ToBeGiven (served s) := by
      rw [served_frame]
      exact ⟨fun h => absurd (i.1 h) (by simp [hp]), fun h => absurd rfl h⟩
    have hgiven := giveArray_arrayRight hserved
    have hj : ArrayRight (joined s) := (joined_chain s).keeps (fun _ _ => .act) hgiven
    rw [endScan_eq]
    exact hj.enterHome

/-! ## What begins is permitted -/

/-- What of the receive queue and the journal controller an operation outside the journal controller leaves. -/
theorem Act.jnc_rx {s t : State} (h : Act s t) : t.jnc = s.jnc ∧ t.lkc.rx = s.lkc.rx ∨ JournalAct s t := by
  cases h with
  | link h => exact .inl ⟨h.jnc, h.rx⟩
  | journal h => exact .inr h
  | filled x => rw [raiseIfFull_frame]; exact .inl ⟨rfl, rfl⟩
  | jammed h => exact .inl ⟨h.jnc, h.rx⟩
  | fault => rw [faultCore_frame]; exact .inl ⟨rfl, rfl⟩
  | forced c => rw [faultCore_frame]; exact .inl ⟨rfl, rfl⟩
  | _ => exact .inl ⟨rfl, rfl⟩

theorem OperationRight.congr {s t : State} (i : OperationRight s) (hl : t.supply = s.supply) (hf : t.flash = s.flash)
    (hx : t.lkc.rx = s.lkc.rx) (hm : t.jnc.auditMark = s.jnc.auditMark) (hw : t.jnc.writePtr = s.jnc.writePtr)
    (ha : t.jnc.array = s.jnc.array) (hr : t.jnc.pendingRead = s.jnc.pendingRead)
    (hs : t.jnc.staging = [] → s.jnc.staging = []) : OperationRight t := by
  have he : ErasePermitted t ↔ ErasePermitted s := erasePermitted_congr hl hf hm (by rw [hw])
  obtain ⟨h1, h2, h3, h4⟩ := i
  unfold OperationRight
  rw [ha, hw, hr, hf, hx, he]
  refine ⟨h1, h2, h3, fun hp => ?_⟩
  obtain ⟨hn, hb⟩ := h4 hp
  exact ⟨fun h => hn (hs h), hb⟩

/-- R154, R156, R157: an operation that begins as the array is given is permitted. -/
theorem Given.right {s t : State} (h : Given s t) (hs : Steady s t) :
    t = s ∨ t.jnc.array = .idle ∨ OperationRight t := by
  have erase (hm : t.jnc.auditMark = s.jnc.auditMark) (hp : pageAhead t.jnc.writePtr = pageAhead s.jnc.writePtr) :
      ErasePermitted t ↔ eraseWanted s = true :=
    (erasePermitted_congr hs.supply hs.flash hm hp).trans eraseWanted_iff.symm
  cases h with
  | busy _ ht => exact .inl ht
  | erase _ _ hw _ ht =>
    have he := (erase (by rw [ht]) (by rw [ht])).2 hw
    have ha : t.jnc.array = .erase (pageAhead s.jnc.writePtr) := by rw [ht]
    refine .inr (.inr ⟨by rw [ht], fun page hp => ⟨?_, he⟩, fun hn => absurd ha (hn _), fun hp => ?_⟩)
    · rw [ha] at hp
      cases hp
      rw [ht]
      rfl
    · rw [ha] at hp
      cases hp
  | info offset data _ _ hw _ ht =>
    have he := erase (by rw [ht]) (by rw [ht])
    have ha : t.jnc.array = .info offset data := by rw [ht]
    rw [hw] at he
    refine .inr (.inr ⟨by rw [ht], fun page hp => ?_, fun _ h => absurd (he.1 h) (by simp), fun hp => ?_⟩) <;>
    · rw [ha] at hp
      cases hp
  | rest _ hi _ _ _ ht => exact .inr (.inl (by rw [ht]; exact hi))
  | skip _ hi _ _ _ ht => exact .inr (.inl (by rw [ht]; exact hi))
  | program _ _ hw hn ho hc hx ht =>
    have hp : t.jnc.writePtr = skipSlots s.flash 32 s.jnc.writePtr := by rw [ht]
    have he := erase (by rw [ht]) (by rw [hp]; exact pageAhead_skipSlots _ _ _)
    have ha : t.jnc.array = .program := by rw [ht]
    rw [hw] at he
    refine .inr (.inr ⟨by rw [ht], fun page hp => ?_, fun _ h => absurd (he.1 h) (by simp), fun _ => ?_⟩)
    · rw [ha] at hp
      cases hp
    · rw [hs.flash, hp, hx]
      exact ⟨by rw [ht]; exact hn, (slotOffered_blank ho).1, (slotOffered_blank ho).2, hc⟩

/-- The array is idle, does what P says, or performs an operation that was permitted as it began. -/
def Permitted (P : FlashState → Prop) (s : State) : Prop :=
  s.jnc.array = .idle ∨ P s.jnc.array ∨ OperationRight s

theorem Permitted.congr {P : FlashState → Prop} {s t : State} (i : Permitted P s) (h : Steady s t)
    (hx : t.lkc.rx = s.lkc.rx) (hm : t.jnc.auditMark = s.jnc.auditMark) (hw : t.jnc.writePtr = s.jnc.writePtr)
    (ha : t.jnc.array = s.jnc.array) (hr : t.jnc.pendingRead = s.jnc.pendingRead)
    (hs : t.jnc.staging = [] → s.jnc.staging = []) : Permitted P t := by
  unfold Permitted
  rw [ha]
  exact i.imp id (Or.imp id fun i => i.congr h.supply h.flash hx hm hw ha hr hs)

theorem Permitted.of_jnc {P : FlashState → Prop} {s t : State} (i : Permitted P s) (h : Steady s t)
    (hx : t.lkc.rx = s.lkc.rx) (hj : t.jnc = s.jnc) : Permitted P t :=
  i.congr h hx (by rw [hj]) (by rw [hj]) (by rw [hj]) (by rw [hj]) (by rw [hj]; exact id)

theorem Permitted.of_work {P : FlashState → Prop} {s t : State} (i : Permitted P s) (h : SameWork s t)
    (hs : t.jnc.staging = [] → s.jnc.staging = []) : Permitted P t :=
  i.congr h.steady h.rx (by rw [h.work]) (by rw [h.work]) (by rw [h.work]) (by rw [h.work]) hs

theorem Permitted.give {P : FlashState → Prop} {s : State} (i : Permitted P s) : Permitted P (giveArray s) := by
  rcases (giveArray_given s).right (giveArray_op s).keeps.steady with h | h | h
  · rw [h]; exact i
  · exact .inl h
  · exact .inr (.inr h)

theorem Permitted.act {P : FlashState → Prop} (s t : State) (h : Act s t) (i : Permitted P s) : Permitted P t := by
  rcases h.jnc_rx with ⟨hj, hx⟩ | hj
  · exact i.of_jnc h.steady hx hj
  · rcases hj.work with ⟨k, hn⟩ | ⟨u, k, rfl, hn⟩
    · exact i.of_work k hn.1
    · exact (i.of_work k hn).give

theorem Permitted.enterHome {P : FlashState → Prop} {s : State} (i : Permitted P s) : Permitted P (enterHome s) := by
  have h : Steady s (homeAsked s) := by constructor <;> rfl
  refine enterHome_keeps_of Permitted.act (fun _ => i.of_jnc h rfl rfl)
    (i.of_jnc (h.trans (faultCore_steady _)) ?_ ?_) <;>
  · rw [faultCore_frame]
    rfl

theorem Permitted.idle {P : FlashState → Prop} {s : State} (h : s.jnc.array = .idle) : Permitted P s := .inl h

/-- An operation that the array does not perform before the command is permitted as it begins. -/
theorem Permitted.front {c : Instr} {s t : State} (h : Front c s t) : Permitted (· = s.jnc.array) t := by
  have same {u : State} (hu : u.jnc.array = s.jnc.array) : Permitted (· = s.jnc.array) u := .inr (.inl hu)
  cases h with
  | marked m req => exact Permitted.give (.act _ _ (.ask req { takeRx s with jnc := { s.jnc with auditMark := m } }) (same rfl))
  | received j => exact same (by rw [completed_frame])
  | claimed j n age => exact same (by rw [completed_frame]; rfl)
  | written =>
    unfold programDone
    split
    · exact same rfl
    · next r rest _ =>
      refine Permitted.give (.idle ?_)
      show (stageDeferred _).jnc.array = _
      rw [(stageDeferred_work _).work]
      rfl
  | erased page => exact Permitted.give (.idle rfl)
  | info offset data => exact Permitted.give (.idle rfl)
  | restored => exact Permitted.give (.act _ _ (.ask _ (clearHold .power (setLevel .normal s))) (same rfl))
  | _ => exact same rfl

theorem Permitted.settle {P : FlashState → Prop} {s : State} (i : Permitted P s) : Permitted P (settleStep s) :=
  (settleStep_acts s).keeps Permitted.act i

theorem Permitted.tail {P : FlashState → Prop} {s t : State} (h : Tail s t) (i : Permitted P s) : Permitted P t :=
  h.fines.keeps (fun u v k i => by
    cases k with
    | act k => exact i.act _ _ k
    | fill c => exact i) i

theorem Permitted.effect {c : Instr} {s t : State} (h : Effect c s t) : Permitted (· = s.jnc.array) t := by
  obtain ⟨a, b, hf, ha, ht⟩ := h
  exact .tail ht (ha.keeps Permitted.act (.front hf))

theorem Permitted.scan (s : State) : Permitted (· = s.jnc.array) (endScan s) := by
  have hs : Permitted (· = s.jnc.array) (served s) := by
    rw [served_frame]
    exact .inr (.inl (scanJournal_keeps s).2.2.2.2)
  have hg := hs.give
  rw [endScan_eq]
  exact Permitted.enterHome ((joined_chain s).keeps Permitted.act hg)

theorem Permitted.right {P : FlashState → Prop} {s : State} (i : Permitted P s) (hn : s.jnc.array ≠ .idle)
    (hP : ¬ P s.jnc.array) : OperationRight s := (i.resolve_left hn).resolve_left hP

/-- R154 to R159: an operation that is not the one before the command. -/
theorem operationRight_of_new {c : Instr} {s t : State} (he : exec c s = .next t) (hp : s.phase ≠ .inReset)
    (ha : t.jnc.array ≠ .idle) (hn : t.jnc.array ≠ s.jnc.array) : OperationRight t := by
  obtain ⟨u, hu, hc⟩ := exec_course c s
  obtain rfl : u = t := Host.Outcome.next.inj (hu.symm.trans he)
  clear hu he
  cases hc with
  | same => exact absurd rfl hn
  | started l _ h => exact absurd rfl ha
  | released => exact absurd rfl hn
  | reset p b =>
    rcases holdInReset_cases s with ⟨-, h⟩ | ⟨m, n, h⟩
    · exact absurd h hp
    · rw [h] at ha
      exact absurd rfl ha
  | supplied p => exact absurd rfl hn
  | lost => exact absurd rfl ha
  | ran _ h => exact Permitted.right (Permitted.settle (.effect h)) ha hn
  | scanned _ h => exact Permitted.right (Permitted.settle (.scan s)) ha hn

/-- R155: after a record has been written, another operation begins only where it is permitted. -/
theorem operationRight_of_written {s t : State} (he : exec .programCompletion s = .next t) (hp : s.phase ≠ .inReset)
    (ha : s.jnc.array = .program) (hs : s.jnc.staging ≠ []) (hn : t.jnc.array ≠ .idle) : OperationRight t := by
  have hx : exec .programCompletion s = running s (if s.jnc.array = .program then programDone s else s) := rfl
  rw [hx, if_pos ha, running_eq hp] at he
  cases he
  have hd : Permitted (fun _ => False) (programDone s) := by
    unfold programDone
    split
    · next h => exact absurd h hs
    · next r rest _ =>
      refine Permitted.give (.idle ?_)
      show (stageDeferred _).jnc.array = _
      rw [(stageDeferred_work _).work]
      rfl
  exact hd.settle.right hn id

theorem operationRight_of_info {s t : State} {offset : Byte} {data : List Byte} (he : exec .infoCompletion s = .next t)
    (hp : s.phase ≠ .inReset) (ha : s.jnc.array = .info offset data) (hn : t.jnc.array ≠ .idle) : OperationRight t := by
  have hx : exec .infoCompletion s = running s (giveArray (infoWritten offset data s)) := by
    show execInfoCompletion s = _
    unfold execInfoCompletion
    rw [ha]
  rw [hx, running_eq hp] at he
  cases he
  have hd : Permitted (fun _ => False) (giveArray (infoWritten offset data s)) := Permitted.give (.idle rfl)
  exact hd.settle.right hn id

theorem operationRight_of_begins {c : Instr} {s t : State} (he : exec c s = .next t) (hb : OperationBegins c s t) :
    OperationRight t := by
  obtain ⟨hp, hn, hnew | ⟨rfl, ha, hs⟩ | ⟨rfl, offset, data, ha⟩⟩ := hb
  · exact operationRight_of_new he hp hn hnew
  · exact operationRight_of_written he hp ha hs hn
  · exact operationRight_of_info he hp ha hn

/-! ## The write pointer -/

/-- R156: from slot f on, the write pointer has only skipped slots at places 1..31 that are not blank. -/
def Skipped (f : Nat) (m : List Host.Cell) (wp : Nat) : Prop :=
  wp < 512 ∧ ∃ k, wp = (f + k) % 512 ∧ ∀ n, n < k → (f + n) % 32 ≠ 0 ∧ slotBlank m (f + n) = false

theorem Skipped.refl {f : Nat} (hf : f < 512) (m : List Host.Cell) : Skipped f m f :=
  ⟨hf, 0, by simp [Nat.mod_eq_of_lt hf], by simp⟩

/-- R156: skipping goes on from where it stood. -/
theorem Skipped.skip {f wp : Nat} {m : List Host.Cell} (hf : f < 512) (h : Skipped f m wp) :
    Skipped f m (skipSlots m 32 wp) := by
  obtain ⟨hwp, k, hk, hskip⟩ := h
  obtain ⟨l, hl, hmore, -⟩ := skipSlots_spec m 32 wp hwp
  have hle : f + k ≤ 512 := by
    by_contra hgt
    have := (hskip (512 - f) (by omega)).1
    omega
  refine ⟨skipSlots_lt m 32 hwp, ?_⟩
  rcases Nat.lt_or_ge (f + k) 512 with hlt | hge
  · have hk' : wp = f + k := by rw [hk, Nat.mod_eq_of_lt hlt]
    refine ⟨k + l, by rw [hl, hk', Nat.add_assoc], fun n hn => ?_⟩
    rcases Nat.lt_or_ge n k with h | h
    · exact hskip n h
    · have := hmore (n - k) (by omega)
      rwa [hk', show f + k + (n - k) = f + n by omega] at this
  · have hwp0 : wp = 0 := by omega
    have hl0 : l = 0 := by
      by_contra hpos
      have := (hmore 0 (by omega)).1
      omega
    exact ⟨k, by rw [hl, hl0, hwp0]; omega, hskip⟩

/-- What a giving of the array, and so every operation, keeps of the skipping. -/
theorem Skipped.given {f : Nat} (hf : f < 512) {s t : State} (h : Given s t) (hs : t.flash = s.flash)
    (i : Skipped f s.flash s.jnc.writePtr) : Skipped f t.flash t.jnc.writePtr := by
  rw [hs]
  cases h with
  | busy _ ht => rw [ht]; exact i
  | skip _ _ _ _ _ ht | program _ _ _ _ _ _ _ ht => rw [ht]; exact i.skip hf
  | erase _ _ _ _ ht | info _ _ _ _ _ _ ht | rest _ _ _ _ _ ht => rw [ht]; exact i

theorem Skipped.give {f : Nat} (hf : f < 512) {s : State} (i : Skipped f s.flash s.jnc.writePtr) :
    Skipped f (giveArray s).flash (giveArray s).jnc.writePtr := .given hf (giveArray_given s) (giveArray_op s).flash i

theorem Skipped.act {f : Nat} (hf : f < 512) (s t : State) (h : Act s t) (i : Skipped f s.flash s.jnc.writePtr) :
    Skipped f t.flash t.jnc.writePtr := by
  rcases h.jnc with hj | hj
  · rw [h.steady.flash, hj]
    exact i
  · rcases hj.work with ⟨k, -⟩ | ⟨u, k, rfl, -⟩
    · rw [k.steady.flash, k.work]
      exact i
    · refine .give hf ?_
      rw [k.steady.flash, k.work]
      exact i

theorem Skipped.settle {f : Nat} (hf : f < 512) {s : State} (i : Skipped f s.flash s.jnc.writePtr) :
    Skipped f (settleStep s).flash (settleStep s).jnc.writePtr :=
  (settleStep_acts s).keeps (I := fun u => Skipped f u.flash u.jnc.writePtr) (Skipped.act hf) i

/-- R155: the pointer goes on from the slot written. -/
theorem Skipped.written {s : State} {r : Record} {rest : List Record} (h : s.jnc.staging = r :: rest) :
    Skipped (nextSlot s.jnc.writePtr) (programDone s).flash (programDone s).jnc.writePtr := by
  unfold programDone
  rw [h]
  dsimp only
  have hw := stageDeferred_work (recordWritten r rest s)
  refine .give (nextSlot_lt _) ?_
  show Skipped _ (stageDeferred _).flash (stageDeferred _).jnc.writePtr
  rw [hw.steady.flash, hw.work]
  exact .refl (nextSlot_lt _) _

/-- Before the operations the pointer moves only as an array is given, or as a record has been written. -/
theorem Skipped.front {c : Instr} {s t : State} (h : Front c s t) (hf : s.jnc.writePtr < 512)
    (hc : ¬ (c = .programCompletion ∧ s.jnc.array = .program ∧ s.jnc.staging ≠ [])) :
    Skipped s.jnc.writePtr t.flash t.jnc.writePtr := by
  have here (m : List Host.Cell) := Skipped.refl hf m
  cases h with
  | marked m req =>
    exact .give hf (.act hf _ _ (.ask req { takeRx s with jnc := { s.jnc with auditMark := m } }) (here _))
  | received j => rw [completed_frame]; exact here _
  | claimed j n age => rw [completed_frame]; exact here _
  | written hp ha =>
    have hs : s.jnc.staging = [] := by
      by_contra hs
      exact hc ⟨hp, ha, hs⟩
    unfold programDone
    rw [hs]
    exact here _
  | erased page => exact .give (s := judgeFull (pageErased page s)) hf (here _)
  | info offset data => exact .give (s := infoWritten offset data s) hf (here _)
  | restored => exact .give hf (.act hf _ _ (.ask _ (clearHold .power (setLevel .normal s))) (here _))
  | _ => exact here _

theorem Skipped.effect {c : Instr} {s t : State} (h : Effect c s t) (hf : s.jnc.writePtr < 512)
    (hc : ¬ (c = .programCompletion ∧ s.jnc.array = .program ∧ s.jnc.staging ≠ [])) :
    Skipped s.jnc.writePtr t.flash t.jnc.writePtr := by
  obtain ⟨a, b, hfr, ha, ht⟩ := h
  have hb : Skipped s.jnc.writePtr b.flash b.jnc.writePtr :=
    ha.keeps (I := fun u => Skipped s.jnc.writePtr u.flash u.jnc.writePtr) (Skipped.act hf) (.front hfr hf hc)
  refine ht.fines.keeps (I := fun u => Skipped s.jnc.writePtr u.flash u.jnc.writePtr) (fun u v k i => ?_) hb
  cases k with
  | act k => exact i.act hf _ _ k
  | fill c => exact i

theorem exec_skipped {c : Instr} {s t : State} (he : exec c s = .next t) (hs : s.phase = .service)
    (ht : t.phase = .service) (hf : s.jnc.writePtr < 512)
    (hc : ¬ (c = .programCompletion ∧ s.jnc.array = .program ∧ s.jnc.staging ≠ [])) :
    Skipped s.jnc.writePtr t.flash t.jnc.writePtr := by
  obtain ⟨u, hu, hcourse⟩ := exec_course c s
  obtain rfl : u = t := Host.Outcome.next.inj (hu.symm.trans he)
  clear hu he
  cases hcourse with
  | same => exact .refl hf _
  | started l _ h => exact absurd h (by simp [startAllowed, hs])
  | released => exact .refl hf _
  | reset p b => exact absurd ((holdInReset_phase s).symm.trans ht) (by simp)
  | supplied p => exact .refl hf _
  | lost => exact absurd ht (by simp [losePower, State.reset])
  | ran _ h => exact .settle hf (.effect h hf hc)
  | scanned _ h => rw [hs] at h; cases h

theorem exec_skipped_written {s t : State} (he : exec .programCompletion s = .next t) (hs : s.phase = .service)
    (ha : s.jnc.array = .program) (hn : s.jnc.staging ≠ []) :
    Skipped (nextSlot s.jnc.writePtr) t.flash t.jnc.writePtr := by
  have hx : exec .programCompletion s = running s (if s.jnc.array = .program then programDone s else s) := rfl
  rw [hx, if_pos ha, running_eq (by simp [hs])] at he
  cases he
  obtain ⟨r, rest, h⟩ := List.exists_cons_of_ne_nil hn
  exact .settle (nextSlot_lt _) (.written h)

/-- Settles O10: every giving of the array leaves it at permitted work or without any, and only the array's own work
moves the write pointer. -/
theorem stepKeepsArrayAtWork : Obligations.StepKeepsArrayAtWork := by
  refine ⟨fun _ _ i h => arrayRight_kept.step i h, fun _ _ _ => operationRight_of_begins, ?_⟩
  intro c s t he hs ht hf
  dsimp only
  split
  · next h =>
    obtain ⟨rfl, ha, hn⟩ := h
    exact (exec_skipped_written he hs ha hn).2
  · next h => exact (exec_skipped he hs ht hf h).2

end Sys2Proof.Machine
end

section
/-! PROOFS. The hold reasons that stand for a condition (StepKeepsHoldReasons). -/

namespace Sys2Proof.Machine

/-! ## JOURNAL_BUSY and JOURNAL_FULL -/

/-- R153, R160: the journal's two hold reasons stand with their conditions. -/
abbrev JournalHolds (s : State) : Prop :=
  s.csq.holds.journalBusy = decide (4 ≤ s.jnc.staging.length) ∧ s.csq.holds.journalFull = fullJudged s.flash s.jnc

theorem journalHolds_judged (s : State) : JournalHolds (judgeFull (judgeBusy s)) := ⟨rfl, rfl⟩

theorem JournalHolds.full {s : State} (h : s.csq.holds.journalBusy = decide (4 ≤ s.jnc.staging.length)) :
    JournalHolds (judgeFull s) := ⟨h, rfl⟩

theorem JournalHolds.congr {s t : State} (i : JournalHolds s) (hh : t.csq.holds.journalBusy = s.csq.holds.journalBusy)
    (hf : t.csq.holds.journalFull = s.csq.holds.journalFull) (hm : t.flash = s.flash)
    (hw : t.jnc.writePtr = s.jnc.writePtr) (hq : t.jnc.seqCounter = s.jnc.seqCounter)
    (hs : t.jnc.staging.length = s.jnc.staging.length) : JournalHolds t := by
  unfold JournalHolds fullJudged
  rw [hh, hf, hm, hw, hq, hs]
  exact i

theorem startProgram_holds {s : State} (i : JournalHolds s) : JournalHolds (startProgram s) := by
  unfold startProgram
  dsimp only
  split
  · exact ⟨i.1, rfl⟩
  · exact ⟨i.1, rfl⟩

theorem giveOperation_holds {s : State} (i : JournalHolds s) : JournalHolds (giveOperation s) := by
  unfold giveOperation
  split
  · exact i
  · split
    · exact i
    · split
      · exact i
      · exact startProgram_holds i

theorem servePending_holds {s : State} (i : JournalHolds s) : JournalHolds (servePending s) := by
  unfold servePending
  split
  · exact i
  · have h := serveRead_op ‹_› { s with jnc := { s.jnc with pendingRead := none } }
    exact i.congr (by rw [h.csq]) (by rw [h.csq]) h.flash (by rw [h.jnc]) (by rw [h.jnc]) (by rw [h.jnc])

theorem giveArray_holds {s : State} (i : JournalHolds s) : JournalHolds (giveArray s) := by
  unfold giveArray
  split
  · exact giveOperation_holds (servePending_holds i)
  · exact i

theorem stageNow_holds {req : RecordReq} {s : State} (i : JournalHolds s) : JournalHolds (stageNow req s) := by
  unfold stageNow
  split
  · exact i
  · exact giveArray_holds (journalHolds_judged _)

theorem JournalAct.holds {s t : State} (h : JournalAct s t) (hp : s.phase = .service) (i : JournalHolds s) :
    JournalHolds t := by
  cases h with
  | ask req =>
    unfold askGeneral
    rw [if_neg (not_not.2 hp)]
    split
    · exact i.congr rfl rfl rfl rfl rfl (bumpLast_length _)
    · split
      · exact stageNow_holds i
      · exact i
  | askBag req =>
    unfold Sys2Proof.Machine.askBag
    split
    · exact stageNow_holds i
    · exact i
  | give => exact giveArray_holds i

/-- R3, R180: before service no operation of the journal controller judges its hold reasons. -/
theorem JournalAct.holds_same {s t : State} (h : JournalAct s t) (hp : s.phase ≠ .service) (hs : s.csq.state = .start) :
    t.csq.holds = s.csq.holds := by
  cases h with
  | ask req =>
    unfold askGeneral holdForStart
    rw [if_pos hp]
    split <;> rfl
  | askBag req _ h => exact absurd hs h
  | give =>
    unfold giveArray
    rw [if_neg fun h => hp h.1]

/-! ## The hold reasons of the own bin and the own shaft -/

/-- R129, R132: BIN_FULL stands with a full own bin, JAM with a JAMMED own shaft. -/
abbrev OwnHolds (s : State) : Prop :=
  (ownFull s = true → s.csq.holds.binFull = true) ∧ (ownView s = .jammed → s.csq.holds.jam = true)

/-- The bin limits are at least 1. -/
abbrev LimitsRight (s : State) : Prop := 1 ≤ s.cfg.binCountLimit ∧ 1 ≤ s.cfg.binMassLimit

theorem ownFull_congr {s t : State} (ht : t.shc.tallies = s.shc.tallies) (hs : t.straps = s.straps) (hc : t.cfg = s.cfg) :
    ownFull t = ownFull s := by
  unfold ownFull ownTally
  rw [ht, hs, hc]

theorem ownView_congr {s t : State} (hv : t.shc.views = s.shc.views) (hs : t.straps = s.straps) :
    ownView t = ownView s := by
  unfold ownView
  rw [hv, hs]

theorem OwnHolds.congr {s t : State} (i : OwnHolds s) (hv : t.shc.views = s.shc.views)
    (ht : t.shc.tallies = s.shc.tallies) (hs : t.straps = s.straps) (hc : t.cfg = s.cfg)
    (hb : t.csq.holds.binFull = s.csq.holds.binFull) (hj : t.csq.holds.jam = s.csq.holds.jam) : OwnHolds t := by
  unfold OwnHolds
  rw [ownFull_congr ht hs hc, ownView_congr hv hs, hb, hj]
  exact i

/-- R132: an empty bin is not full. -/
theorem ownFull_empty {s : State} (hl : LimitsRight s) (h : ownTally s = { count := 0, mass := 0 }) : ownFull s = false := by
  obtain ⟨h1, h2⟩ := hl
  simp only [ownFull, h, tallyFull, Bool.or_eq_false_iff, decide_eq_false_iff_not]
  omega

theorem OwnHolds.setTally {s : State} (hl : LimitsRight s) (i : OwnHolds s) (k : Fin 4) {x : Tally}
    (h : k = s.straps.shf → x = { count := 0, mass := 0 }) : OwnHolds (setTally k x s) := by
  refine ⟨fun hf => ?_, i.2⟩
  by_cases hk : k = s.straps.shf
  · have he : ownTally (Machine.setTally k x s) = { count := 0, mass := 0 } := by
      rw [← h hk]
      simp [ownTally, Machine.setTally, hk]
    rw [ownFull_empty (s := Machine.setTally k x s) hl he] at hf
    cases hf
  · refine i.1 ?_
    rw [← hf]
    simp only [ownFull, ownTally, Machine.setTally, Four.get_set_ne _ _ (Ne.symm hk)]

theorem OwnHolds.setView {s : State} (i : OwnHolds s) (k : Fin 4) {v : View} (age : Timer)
    (h : k = s.straps.shf → v ≠ .jammed) : OwnHolds (setView k v age s) := by
  refine ⟨i.1, fun hj => ?_⟩
  by_cases hk : k = s.straps.shf
  · refine absurd ?_ (h hk)
    rw [← hj]
    simp [ownView, Machine.setView, hk]
  · refine i.2 ?_
    rw [← hj]
    simp only [ownView, Machine.setView, Four.get_set_ne _ _ (Ne.symm hk)]

theorem faultCore_holds (s : State) : (faultCore s).csq.holds = s.csq.holds := by
  rw [(faultCore_csq s).1]
  rfl

theorem OwnHolds.faultCore {s : State} (i : OwnHolds s) : OwnHolds (faultCore s) := by
  have hst := (faultCore_steady s).straps
  have ht : (Machine.faultCore s).shc.tallies = s.shc.tallies := by rw [faultCore_frame]
  refine ⟨fun hf => ?_, fun hj => ?_⟩ <;> rw [faultCore_holds]
  · exact i.1 (by rw [← ownFull_congr ht hst (faultCore_steady s).cfg]; exact hf)
  · refine i.2 ?_
    unfold ownView at hj ⊢
    rw [faultCore_views, hst] at hj
    split at hj
    · simp at hj
    · exact hj

/-! ## Every operation -/

/-- What an operation leaves of the hold reasons of the other blocks: POWER, the journal's two, and those of the own bin
and shaft with their conditions. -/
structure HoldsStep (s t : State) : Prop where
  power : t.csq.holds.power = s.csq.holds.power
  busy : t.csq.holds.journalBusy = s.csq.holds.journalBusy
  full : t.csq.holds.journalFull = s.csq.holds.journalFull
  own : LimitsRight s → OwnHolds s → OwnHolds t

theorem HoldsStep.of_holds {s t : State} (h : t.csq.holds = s.csq.holds) (own : LimitsRight s → OwnHolds s → OwnHolds t) :
    HoldsStep s t := ⟨by rw [h], by rw [h], by rw [h], own⟩

theorem HoldsStep.of_same {s t : State} (h : t.csq.holds = s.csq.holds) (hv : t.shc.views = s.shc.views)
    (ht : t.shc.tallies = s.shc.tallies) (hs : t.straps = s.straps) (hc : t.cfg = s.cfg) : HoldsStep s t :=
  .of_holds h fun _ i => i.congr hv ht hs hc (by rw [h]) (by rw [h])

theorem holdMoves_step {r : HoldReason} {v : Bool} (w : Bool) {s : State} (h : holdMoves r v s) :
    HoldsStep s { s with csq := { s.csq with holds := s.csq.holds.put r v, weighSeen := w } } := by
  cases r with
  | jam =>
    refine ⟨rfl, rfl, rfl, fun _ i => ⟨i.1, fun hj => ?_⟩⟩
    cases v with
    | true => rfl
    | false => exact absurd hj h
  | binFull =>
    refine ⟨rfl, rfl, rfl, fun hl i => ⟨fun hf => ?_, i.2⟩⟩
    cases v with
    | true => rfl
    | false =>
      have hf : ownFull s = true := hf
      rw [ownFull_empty hl h] at hf
      cases hf
  | power | journalFull | journalBusy | unconfigured => exact absurd h (by simp [holdMoves])
  | audit | zero | weigh | addressClash => exact ⟨rfl, rfl, rfl, fun _ i => i⟩

theorem raiseIfFull_step (k : Fin 4) (x : Tally) (s : State) :
    HoldsStep s (raiseIfFull (setTally k x s)) := by
  rw [raiseIfFull_frame]
  refine ⟨rfl, rfl, rfl, fun _ i => ⟨fun hf => ?_, i.2⟩⟩
  have hf : ownFull (setTally k x s) = true := hf
  simp [hf]

theorem jammed_step {s u : State} (h : LinkOp (setView s.straps.shf .jammed none s) u) : HoldsStep s (raiseHold .jam u) := by
  have hh : u.csq.holds = s.csq.holds := by simpa using congrArg Sequencer.holds h.csq
  refine ⟨by simp [HoldSet.put, hh], by simp [HoldSet.put, hh], by simp [HoldSet.put, hh], fun _ i => ⟨fun hf => ?_, fun _ => rfl⟩⟩
  show (u.csq.holds.put .jam true).binFull = true
  rw [hh]
  exact i.1 (by rw [← hf]; exact (ownFull_congr h.tallies h.straps h.cfg).symm)

theorem Act.holdsStep {s t : State} (h : Act s t) : HoldsStep s t ∨ JournalAct s t := by
  have same {u : State} (hh : u.csq.holds = s.csq.holds) (hv : u.shc.views = s.shc.views)
      (ht : u.shc.tallies = s.shc.tallies) (hs : u.straps = s.straps) (hc : u.cfg = s.cfg) :
      HoldsStep s u ∨ JournalAct s u := .inl (.of_same hh hv ht hs hc)
  have turned {u : State} (hh : u.csq.holds = s.csq.holds) (hu : u.shc.views = s.shc.views.set s.straps.shf (.held s.straps.adr))
      (ht : u.shc.tallies = s.shc.tallies) (hs : u.straps = s.straps) (hc : u.cfg = s.cfg) : HoldsStep s u :=
    .of_holds hh fun _ i => OwnHolds.congr (i.setView s.straps.shf none (v := .held s.straps.adr) fun _ => by simp) hu ht hs hc
      (by rw [hh]; rfl) (by rw [hh]; rfl)
  cases h with
  | link h => exact same (by rw [h.csq]) h.views h.tallies h.straps h.cfg
  | journal h => exact .inr h
  | seq c _ hc => exact same hc.holds rfl rfl rfl rfl
  | hold r v w _ hr => exact .inl (holdMoves_step w hr)
  | tally k x _ hx => exact .inl (.of_holds rfl fun hl i => i.setTally hl k hx)
  | filled x => exact .inl (raiseIfFull_step _ x s)
  | jammed h => exact .inl (jammed_step h)
  | view k v age _ hv => exact .inl (.of_holds rfl fun _ i => i.setView k age fun hk => (hv hk).2)
  | enter st c _ _ _ hh => exact same hh rfl rfl rfl rfl
  | fault => exact .inl (.of_holds (faultCore_holds s) fun _ i => i.faultCore)
  | home c _ _ hh => exact same hh rfl rfl rfl rfl
  | forced c _ _ hh =>
    refine .inl (.of_holds ((faultCore_holds _).trans hh) fun _ i => OwnHolds.faultCore ?_)
    have hh' : (homeAsked { s with csq := c }).csq.holds = s.csq.holds := hh
    exact i.congr rfl rfl rfl rfl (by rw [hh']) (by rw [hh'])
  | fall r c _ _ _ _ hh => exact same hh rfl rfl rfl rfl
  | turned => exact .inl (turned rfl rfl rfl rfl rfl)
  | dropped c _ _ _ hh => exact .inl (turned hh rfl rfl rfl rfl)
  | _ => exact same rfl rfl rfl rfl rfl

/-! ## Every command -/

theorem holdsRight_iff {s : State} : HoldsRight s ↔
    (s.phase ≠ .inReset → s.csq.holds.power = (s.supply.level == .warn)) ∧
    (s.phase = .service → JournalHolds s ∧ OwnHolds s) ∧
    (s.phase ≠ .service → s.csq.holds.journalBusy = false) ∧ LimitsRight s :=
  ⟨fun ⟨h1, h2, h3, h4⟩ => ⟨h1, fun hp => ⟨⟨(h2 hp).1, (h2 hp).2.1⟩, (h2 hp).2.2⟩, h3, h4⟩,
    fun ⟨h1, h2, h3, h4⟩ => ⟨h1, fun hp => ⟨(h2 hp).1.1, (h2 hp).1.2, (h2 hp).2⟩, h3, h4⟩⟩

theorem LimitsRight.congr {s t : State} (h : t.cfg = s.cfg) (i : LimitsRight s) : LimitsRight t := by
  unfold LimitsRight
  rw [h]
  exact i

theorem HoldsRight.journal {s t : State} (h : JournalAct s t) (hs : s.phase ≠ .service → s.csq.state = .start) (i : HoldsRight s) : HoldsRight t := by
  rw [holdsRight_iff] at i ⊢
  obtain ⟨hpow, hserv, hbusy, hlim⟩ := i
  have k := h.op
  refine ⟨fun hp => ?_, fun hp => ?_, fun hp => ?_, hlim.congr k.cfg⟩ <;> rw [k.phase] at hp
  · rw [k.csq, k.supply]
    exact hpow hp
  · obtain ⟨hj, ho⟩ := hserv hp
    exact ⟨h.holds hp hj, ho.congr k.views k.tallies k.straps k.cfg (by rw [k.csq]) (by rw [k.csq])⟩
  · rw [h.holds_same hp (hs hp)]
    exact hbusy hp

theorem HoldsRight.act {s t : State} (h : Act s t) (hs : s.phase ≠ .service → s.csq.state = .start)
    (i : HoldsRight s) : HoldsRight t := by
  rcases h.jnc with hj | hj
  · rcases h.holdsStep with hk | hk
    · rw [holdsRight_iff] at i ⊢
      obtain ⟨hpow, hserv, hbusy, hlim⟩ := i
      have k := h.steady
      refine ⟨fun hp => ?_, fun hp => ?_, fun hp => ?_, hlim.congr k.cfg⟩ <;> rw [k.phase] at hp
      · rw [hk.power, k.supply]
        exact hpow hp
      · obtain ⟨hjh, ho⟩ := hserv hp
        exact ⟨hjh.congr hk.busy hk.full k.flash (by rw [hj]) (by rw [hj]) (by rw [hj]), hk.own hlim ho⟩
      · rw [hk.busy]
        exact hbusy hp
    · exact i.journal hk hs
  · exact i.journal hj hs

/-- An operation before the others that leaves the journal, the own bin and the own shaft. -/
theorem HoldsRight.of_same {s t : State} (i : HoldsRight s) (hl : t.supply = s.supply) (hp : t.phase = s.phase)
    (hc : t.cfg = s.cfg) (hst : t.straps = s.straps) (hf : t.flash = s.flash)
    (hj : t.jnc.writePtr = s.jnc.writePtr ∧ t.jnc.seqCounter = s.jnc.seqCounter ∧ t.jnc.staging = s.jnc.staging)
    (hv : t.shc.views = s.shc.views) (ht : t.shc.tallies = s.shc.tallies)
    (hh : t.csq.holds = { s.csq.holds with addressClash := t.csq.holds.addressClash }) : HoldsRight t := by
  obtain ⟨hw, hq, hsg⟩ := hj
  rw [holdsRight_iff] at i ⊢
  obtain ⟨hpow, hserv, hbusy, hlim⟩ := i
  rw [hp, hl, hh]
  refine ⟨hpow, fun hps => ?_, hbusy, hlim.congr hc⟩
  obtain ⟨hjh, ho⟩ := hserv hps
  exact ⟨hjh.congr (by rw [hh]) (by rw [hh]) hf hw hq (by rw [hsg]), ho.congr hv ht hst hc (by rw [hh]) (by rw [hh])⟩

/-- R151 to R160: the journal's hold reasons judged again, in service. -/
theorem HoldsRight.judged {s t : State} (i : HoldsRight s) (hps : s.phase = .service) (hj : JournalHolds t)
    (hl : t.supply = s.supply) (hp : t.phase = s.phase) (hc : t.cfg = s.cfg) (hst : t.straps = s.straps)
    (hv : t.shc.views = s.shc.views) (ht : t.shc.tallies = s.shc.tallies)
    (hh : t.csq.holds.power = s.csq.holds.power ∧ t.csq.holds.binFull = s.csq.holds.binFull ∧
      t.csq.holds.jam = s.csq.holds.jam) : HoldsRight t := by
  obtain ⟨hpower, hbin, hjam⟩ := hh
  rw [holdsRight_iff] at i ⊢
  obtain ⟨hpow, hserv, -, hlim⟩ := i
  rw [hp, hl, hpower]
  exact ⟨hpow, fun hs => ⟨hj, (hserv hs).2.congr hv ht hst hc hbin hjam⟩, fun h => absurd hps h, hlim.congr hc⟩

/-- R160: JOURNAL_FULL judged again, or standing as before. -/
theorem HoldsRight.full {s t : State} (i : HoldsRight s) (hl : t.supply = s.supply) (hp : t.phase = s.phase)
    (hc : t.cfg = s.cfg) (hst : t.straps = s.straps) (hv : t.shc.views = s.shc.views)
    (ht : t.shc.tallies = s.shc.tallies) (hsg : t.jnc.staging = s.jnc.staging)
    (hh : t.csq.holds.power = s.csq.holds.power ∧ t.csq.holds.binFull = s.csq.holds.binFull ∧
      t.csq.holds.jam = s.csq.holds.jam ∧ t.csq.holds.journalBusy = s.csq.holds.journalBusy)
    (hf : s.phase = .service → t.csq.holds.journalFull = fullJudged t.flash t.jnc) : HoldsRight t := by
  obtain ⟨hpower, hbin, hjam, hbusy⟩ := hh
  rw [holdsRight_iff] at i ⊢
  obtain ⟨hpow, hserv, hclear, hlim⟩ := i
  rw [hp, hl, hpower, hbusy]
  refine ⟨hpow, fun hs => ⟨⟨?_, hf hs⟩, (hserv hs).2.congr hv ht hst hc hbin hjam⟩, hclear, hlim.congr hc⟩
  rw [hbusy, hsg]
  exact (hserv hs).1.1

theorem stageDeferred_frame (s : State) : Steady s (stageDeferred s) ∧ (stageDeferred s).shc = s.shc ∧
    (stageDeferred s).csq.holds = s.csq.holds := by
  refine ⟨(stageDeferred_work s).steady, ?_⟩
  rw [stageDeferred_eq]
  split <;> rw [deferredStaged_frame] <;> exact ⟨rfl, rfl⟩

theorem HoldsRight.give {s : State} (i : HoldsRight s) : HoldsRight (giveArray s) := by
  by_cases hp : s.phase = .service
  · have k := giveArray_op s
    have hj := giveArray_holds (((holdsRight_iff.1 i).2.1 hp).1)
    exact i.judged hp hj k.supply k.phase k.cfg k.straps k.views k.tallies
      ⟨by rw [k.csq], by rw [k.csq], by rw [k.csq]⟩
  · unfold giveArray
    rw [if_neg fun h => hp h.1]
    exact i

/-- R146: only the journal's slots count as free. -/
theorem freeSlots_congr {m n : List Host.Cell} {wp : Nat} (hw : wp < 512)
    (h : ∀ x, x < infoBase → flashRead n x = flashRead m x) : freeSlots n wp = freeSlots m wp := by
  have hslot (k : Nat) (hk : k < 512) : slotBlank n k = slotBlank m k := by
    unfold slotBlank slotBytes flashBytes
    congr 1
    refine List.map_congr_left fun i hi => h _ ?_
    rw [List.mem_range] at hi
    unfold infoBase
    omega
  have hin : freeInPage n wp = freeInPage m wp := by
    unfold freeInPage
    split
    · rfl
    · congr 1
      refine List.filter_congr fun i hi => hslot _ ?_
      rw [List.mem_range] at hi
      omega
  have hpage : pageBlank n (pageAhead wp) = pageBlank m (pageAhead wp) := by
    have hp := pageAhead_lt wp
    unfold pageBlank
    rw [Bool.eq_iff_iff, List.all_eq_true, List.all_eq_true]
    refine forall₂_congr fun i hi => ?_
    rw [List.mem_range] at hi
    rw [hslot _ (by omega)]
  unfold freeSlots
  rw [hin, hpage]

theorem infoProgrammed_journal (offset : Byte) (data : List Byte) (m : List Host.Cell) {x : Nat} (h : x < infoBase) :
    flashRead (infoProgrammed offset data m) x = flashRead m x := by
  unfold infoProgrammed
  rw [flashRead_flashProgramBytes_outside _ (.inl (by omega))]
  split
  · rw [flashRead_flashErase, if_neg (by omega)]
  · rfl

theorem HoldsRight.front {c : Instr} {s t : State} (h : Front c s t) (hs : StartRight s) (hf : FlashRight s)
    (i : HoldsRight s) : HoldsRight t := by
  have service (hn : s.jnc.staging ≠ []) : s.phase = .service := by
    by_contra hp
    exact hn (hs.2 hp)
  cases h with
  | refl => exact i
  | taken => exact i.of_same rfl rfl rfl rfl rfl ⟨rfl, rfl, rfl⟩ rfl rfl rfl
  | waits req => exact i.of_same rfl rfl rfl rfl rfl ⟨rfl, rfl, rfl⟩ rfl rfl rfl
  | opened => exact i.of_same rfl rfl rfl rfl rfl ⟨rfl, rfl, rfl⟩ rfl rfl rfl
  | marked m req =>
    have hm : HoldsRight { takeRx s with jnc := { s.jnc with auditMark := m } } :=
      i.of_same rfl rfl rfl rfl rfl ⟨rfl, rfl, rfl⟩ rfl rfl rfl
    exact (hm.act (t := askGeneral req { takeRx s with jnc := { s.jnc with auditMark := m } }) (.ask req _) hs.1.2).give
  | received j =>
    rw [completed_frame]
    exact i.of_same rfl rfl rfl rfl rfl ⟨rfl, rfl, rfl⟩ rfl rfl rfl
  | claimed j n age =>
    have hr : HoldsRight (pushRx j.take (judgeClash j (toSettling s))) := by
      rw [completed_frame]
      exact i.of_same rfl rfl rfl rfl rfl ⟨rfl, rfl, rfl⟩ rfl rfl rfl
    rw [holdsRight_iff] at hr ⊢
    obtain ⟨h1, h2, h3, h4⟩ := hr
    exact ⟨h1, fun hp => ⟨(h2 hp).1, (h2 hp).2.setView n age fun _ => by simp⟩, h3, h4⟩
  | written =>
    unfold programDone
    split
    · exact i
    · next r rest hst =>
      have hp := service (by simp [hst])
      obtain ⟨k, hshc, hholds⟩ := stageDeferred_frame (recordWritten r rest s)
      refine HoldsRight.give (i.judged hp (journalHolds_judged _) k.supply k.phase k.cfg k.straps ?_ ?_ ?_)
      · exact congrArg Shafts.views hshc
      · exact congrArg Shafts.tallies hshc
      · have hx (f : HoldSet → Bool) : f (stageDeferred (recordWritten r rest s)).csq.holds = f s.csq.holds :=
          congrArg f hholds
        exact ⟨hx HoldSet.power, hx HoldSet.binFull, hx HoldSet.jam⟩
  | erased page =>
    exact HoldsRight.give (i.full (t := judgeFull (pageErased page s)) rfl rfl rfl rfl rfl rfl rfl ⟨rfl, rfl, rfl, rfl⟩
      fun _ => rfl)
  | info offset data =>
    refine HoldsRight.give (i.full (t := infoWritten offset data s) rfl rfl rfl rfl rfl rfl rfl ⟨rfl, rfl, rfl, rfl⟩
      fun hp => ?_)
    refine (((holdsRight_iff.1 i).2.1 hp).1.2).trans ?_
    unfold fullJudged
    rw [show (infoWritten offset data s).jnc.writePtr = s.jnc.writePtr from rfl,
      show (infoWritten offset data s).flash = infoProgrammed offset data s.flash from rfl,
      freeSlots_congr hf.2.1 fun x hx => infoProgrammed_journal offset data s.flash hx]
    rfl
  | warned =>
    rw [holdsRight_iff] at i ⊢
    obtain ⟨-, h2, h3, h4⟩ := i
    exact ⟨fun _ => rfl, h2, h3, h4⟩
  | restored =>
    have hc : HoldsRight (clearHold .power (setLevel .normal s)) := by
      rw [holdsRight_iff] at i ⊢
      obtain ⟨-, h2, h3, h4⟩ := i
      exact ⟨fun _ => rfl, h2, h3, h4⟩
    exact HoldsRight.give (HoldsRight.act (s := clearHold .power (setLevel .normal s)) (.ask _ _) hs.1.2 hc)

theorem tallyLimits_loadConfig (m : List Host.Cell) :
    1 ≤ (loadConfig m).binCountLimit ∧ 1 ≤ (loadConfig m).binMassLimit := by
  unfold loadConfig
  split
  · simp [Cfg.ofRecord, clampTo]
  · simp [Cfg.default]

/-- R112, R132, R153, R160, R179: the scan leaves the hold reasons with their conditions. -/
theorem HoldsRight.served {s : State} (hs : StartRight s) (hp : s.phase = .scanning) (i : HoldsRight s) :
    HoldsRight (served s) := by
  have hnp : s.phase ≠ .service := by simp [hp]
  obtain ⟨hpow, -, hbusy, hlim⟩ := holdsRight_iff.1 i
  rw [served_frame, holdsRight_iff]
  refine ⟨fun _ => ?_, fun _ => ⟨⟨?_, rfl⟩, ?_⟩, fun h => absurd rfl h, hlim⟩
  · have : (scanHolds s).power = s.csq.holds.power := by unfold scanHolds; rfl
    rw [this]
    exact hpow (by simp [hp])
  · have : (scanHolds s).journalBusy = s.csq.holds.journalBusy := by unfold scanHolds; rfl
    rw [this, (scanJournal_keeps s).1, hs.2 hnp]
    exact hbusy hnp
  · unfold OwnHolds ownFull ownTally ownView scanHolds scanShafts
    generalize journalRecords s.flash = rs
    dsimp only
    simp only [Four.get_set_same]
    refine ⟨fun h => by simp [h], fun h => ?_⟩
    by_contra hj
    simp [hj] at h

/-- R178: in service the operations of the scan's end keep the hold reasons with their conditions. -/
theorem HoldsRight.scan {s : State} (hs : StartRight s) (hp : s.phase = .scanning) (i : HoldsRight s) :
    HoldsRight (endScan s) := by
  have hact (u v : State) (h : Act u v) (j : u.phase = .service ∧ HoldsRight u) : v.phase = .service ∧ HoldsRight v :=
    ⟨h.steady.phase.trans j.1, j.2.act h fun hn => absurd j.1 hn⟩
  have hserved : (Machine.served s).phase = .service ∧ HoldsRight (Machine.served s) :=
    ⟨by rw [served_frame], i.served hs hp⟩
  have hhome (u : State) (j : u.phase = .service ∧ HoldsRight u) :
      (enterHome u).phase = .service ∧ HoldsRight (enterHome u) := by
    have hh : HoldsRight (homeAsked u) := j.2.of_same rfl rfl rfl rfl rfl ⟨rfl, rfl, rfl⟩ rfl rfl rfl
    refine enterHome_keeps_of (I := fun u => u.phase = .service ∧ HoldsRight u) hact (fun _ => ⟨j.1, hh⟩) ?_
    exact hact _ _ (.fault (homeAsked u) (by simp [homeAsked])) ⟨j.1, hh⟩
  have hgiven := hact _ _ (.give _) hserved
  rw [endScan_eq]
  exact (hhome _ ((joined_chain s).keeps (I := fun u => u.phase = .service ∧ HoldsRight u) hact hgiven)).2

/-- The state with what its hold reasons rest on. -/
abbrev HoldsKept (s : State) : Prop := (StartRight s ∧ FlashRight s) ∧ HoldsRight s

theorem HoldsKept.act (s t : State) (h : Act s t) (i : HoldsKept s) : HoldsKept t :=
  ⟨⟨i.1.1.act h, i.1.2.act h⟩, i.2.act h i.1.1.1.2⟩

theorem holdsRight_kept : Kept HoldsKept where
  pending := fun _ _ => id
  start := fun l s ha i => by
    refine ⟨⟨startRight_kept.start l s ha i.1.1, flashRight_kept.start l s ha i.1.2⟩, holdsRight_iff.2 ?_⟩
    have hp : (beginStart l s).phase ≠ .service := by
      unfold beginStart
      cases addressValid l.adr <;> simp
    have hl : (beginStart l s).supply.level = .normal := by
      simp only [startAllowed, Bool.and_eq_true, beq_iff_eq] at ha
      exact ha.2
    refine ⟨fun _ => ?_, fun h => absurd h hp, fun _ => rfl, tallyLimits_loadConfig _⟩
    rw [hl]
    rfl
  released := fun _ => id
  reset := fun s p b i => by
    refine ⟨⟨startRight_kept.reset s p b i.1.1, flashRight_kept.reset s p b i.1.2⟩, holdsRight_iff.2 ?_⟩
    obtain ⟨-, -, h3, h4⟩ := holdsRight_iff.1 i.2
    have hp := holdInReset_phase s
    refine ⟨fun h => absurd hp h, fun h => ?_, fun _ => ?_, ?_⟩
    · exact absurd (hp.symm.trans h) (by simp)
    · rcases holdInReset_cases s with ⟨h, hr⟩ | ⟨m, n, h⟩ <;> rw [h]
      · exact h3 (by simp [hr])
      · rfl
    · rcases holdInReset_cases s with ⟨h, -⟩ | ⟨m, n, h⟩ <;> rw [h] <;> exact h4
  supplied := fun s p i hp => by
    refine ⟨i.1, holdsRight_iff.2 ?_⟩
    obtain ⟨h1, h2, h3, h4⟩ := holdsRight_iff.1 i.2
    refine ⟨fun hr => (h1 hr).trans ?_, h2, h3, h4⟩
    rcases hp with hp | hp | ⟨hc, hn⟩
    · rw [hp]
    · exact absurd hp hr
    · rw [hc, hn]
      rfl
  lost := fun s i => ⟨⟨startRight_kept.lost s i.1.1, flashRight_kept.lost s i.1.2⟩, holdsRight_iff.2
    ⟨(fun h => absurd rfl h), (fun h => nomatch h), (fun _ => rfl), (by decide : LimitsRight State.reset)⟩⟩
  act := HoldsKept.act
  front := fun c s t h i => ⟨⟨startRight_kept.front c s t h i.1.1, flashRight_kept.front c s t h i.1.2⟩,
    i.2.front h i.1.1 i.1.2⟩
  tail := Tail.keeps_of fun s t k i => by
    cases k with
    | act h => exact i.act _ _ h
    | fill c _ hc =>
      refine ⟨⟨i.1.1.fill hc, i.1.2⟩, i.2.of_same rfl rfl rfl rfl rfl ⟨rfl, rfl, rfl⟩ rfl rfl ?_⟩
      rw [hc.holds]
  scan := fun s hp i => ⟨⟨startRight_kept.scan s hp i.1.1, flashRight_kept.scan s hp i.1.2⟩, i.2.scan i.1.1 hp⟩

/-- Settles O11: each operation that changes a condition or its hold reason leaves both together. -/
theorem stepKeepsHoldReasons : Obligations.StepKeepsHoldReasons := fun _ _ hs hf i h =>
  (holdsRight_kept.step ⟨⟨hs, hf⟩, i⟩ h).2

end Sys2Proof.Machine
end

section
/-! PROOFS. The step and the queue, the invariants after the power-on reset, and what a start, the reset pin and the supply
monitor do. -/

namespace Sys2Proof.Machine

/-! ## The step and the queue -/

/-- Settles O1: by the definition of the step. -/
theorem stepRunsFrontCommand : Obligations.StepRunsFrontCommand :=
  ⟨fun _ _ _ => rfl, fun s h => by unfold step; rw [h]⟩

theorem Moves.pending {s t : State} (h : Moves s t) : t.pending = s.pending :=
  h.keeps (I := fun u => u.pending = s.pending) (fun u v k i => by
    cases k with
    | act k => exact k.steady.pending.trans i
    | soft k => exact k.keeps.pending.trans i) rfl

theorem Effect.pending {c : Instr} {s t : State} (h : Effect c s t) : t.pending = s.pending := by
  obtain ⟨a, b, hf, ha, ht⟩ := h
  have hfront : a.pending = s.pending := by
    rcases hf.moves with k | ⟨-, rfl⟩
    · exact k.pending
    · rfl
  exact ht.fines.steady.pending.trans (ha.steady.pending.trans hfront)

theorem endScan_pending (s : State) : (endScan s).pending = s.pending := by
  rw [endScan_eq]
  refine (enterHome_keeps (joined s)).pending.trans ((joined_moves s).pending.trans ?_)
  rw [served_frame]

/-- Settles O2: every command takes one of the courses of `Course`, and none of them touches the queue. -/
theorem everyCommandCompletes : Obligations.EveryCommandCompletes := by
  intro c s
  obtain ⟨t, ht, hc⟩ := exec_course c s
  refine ⟨t, ht, ?_⟩
  clear ht
  cases hc with
  | reset p b => exact holdInReset_pending s
  | lost => exact losePower_pending s
  | ran _ h => exact (settleStep_keeps _).pending.trans h.pending
  | scanned => exact (settleStep_keeps _).pending.trans (endScan_pending s)
  | _ => rfl

/-- Settles O16: out of reset only a running part takes the other commands. -/
theorem nothingIsTakenInReset : Obligations.NothingIsTakenInReset := by
  intro c s hp hstart hlow hhigh hwarn hcut hloss hrise hdip hrec
  obtain ⟨t, ht, hc⟩ := exec_course c s
  rw [ht]
  clear ht
  cases hc with
  | same => rfl
  | started l h => exact absurd h (hstart l)
  | released h => exact absurd h hhigh
  | reset p b h => exact absurd h (by simp [hlow, hcut])
  | supplied p h => exact absurd h (by simp [hwarn, hrise, hdip, hrec])
  | lost h => exact absurd h hloss
  | ran h => exact absurd hp h
  | scanned _ h => rw [hp] at h; cases h

/-! ## The power-on reset -/

/-- Settles O3: by computation, each invariant on the values of State.reset. -/
theorem invariantsHoldAtReset : Obligations.InvariantsHoldAtReset := by
  refine ⟨?_, ?_, ?_, ?_, ?_, ?_, ?_, ?_, ?_, ?_, ?_, ?_, ?_, ?_, ?_, ?_, ?_, ?_⟩
  · exact .of_start rfl (by simp [State.reset]) rfl
  · exact ⟨by simp [State.reset], fun _ => rfl⟩
  · exact rfl
  · exact .of_stopped rfl (by simp [State.reset])
  · exact ⟨by simp [selfHeld, ownView, State.reset, Four.get], trivial⟩
  · exact fun h => absurd rfl h
  · decide
  · decide
  · decide
  · exact ⟨fun _ => rfl, fun _ => rfl, fun h => absurd rfl h, fun h => nomatch h⟩
  · decide
  · exact ⟨fun h => absurd rfl h, (fun h => nomatch h), fun _ => rfl, by decide⟩
  · exact serialsRight_nil
  · decide
  · decide
  · decide
  · exact ⟨rfl, by decide, trivial⟩
  · simp [BagRight, State.reset]

/-! ## The reset pin and the supply monitor -/

/-- R110, R175, R176: what a part that enters reset shows: its outputs released, its queues and the journal's work lost. -/
theorem enterReset_shown {s : State} (hp : s.phase ≠ .inReset) :
    (holdInReset s).csq = State.reset.csq ∧ (holdInReset s).rct = State.reset.rct ∧
    (holdInReset s).lms = State.reset.lms ∧ (holdInReset s).lkc = State.reset.lkc ∧
    (holdInReset s).jnc = State.reset.jnc := by
  rcases holdInReset_cases s with ⟨-, h⟩ | ⟨m, n, h⟩
  · exact absurd h hp
  · rw [h]
    exact ⟨rfl, rfl, rfl, rfl, rfl⟩

/-- Settles O20: RST_LOW puts a running part into reset and leaves one in reset; the pin is all that RST_HIGH changes. -/
theorem resetPin : Obligations.ResetPin := by
  refine fun s => ⟨⟨{ holdInReset s with rstLow := true }, rfl, rfl, holdInReset_phase s, holdInReset_supply s,
    fun hp => ?_, fun hp => ?_⟩, rfl⟩
  · obtain ⟨hc, hr, hl, hk, hj⟩ := enterReset_shown hp
    dsimp only
    rw [hc, hr, hl, hk, hj]
    exact ⟨rfl, rfl, rfl, rfl, rfl, rfl, rfl, rfl, rfl, rfl, rfl, rfl, rfl, fun h => holdInReset_flash (.inr h)⟩
  · unfold holdInReset
    rw [if_pos hp]

/-- R173, R175: the change to CUT. -/
theorem exec_supplyCut {s : State} (h : s.supply.level ≠ .cut) : exec .supplyCut s = .next
    { holdInReset s with supply := { s.supply with level := .cut, recovery := none, cutSinceStart := true } } := by
  show execSupplyCut s = _
  unfold execSupplyCut
  rw [if_neg h]
  exact congrArg _ (holdInReset_setSupply _ s)

/-- Settles O21: each change of the supply on the monitor, and what a cut or a power loss leaves of the part. -/
theorem supplyMonitor : Obligations.SupplyMonitor := by
  intro s
  refine ⟨⟨losePower s, rfl, rfl, rfl, ?_, holdInReset_flash⟩, fun h => ?_, fun h => ?_, rfl, fun hl hr => ?_, fun h => ?_⟩
  · unfold losePower
    dsimp only
    rw [holdInReset_rstLow, holdInReset_pending]
  · show execSupplyRise s = _
    unfold execSupplyRise
    rw [if_neg h]
  · show execSupplyRise s = _
    unfold execSupplyRise
    rw [if_pos h]
  · show execSupplyRecoveryExpiry s = _
    unfold execSupplyRecoveryExpiry
    rw [if_neg hr, if_neg (by simp [hl])]
    rfl
  · refine ⟨_, exec_supplyCut h, holdInReset_phase s, rfl, fun hp => ?_⟩
    obtain ⟨hc, hr, hl, hk, hj⟩ := enterReset_shown hp
    dsimp only
    rw [hc, hr, hl, hk, hj]
    exact ⟨rfl, rfl, rfl, rfl, rfl, rfl, rfl, fun h => holdInReset_flash (.inr h)⟩

/-! ## A start -/

theorem startAllowed_iff {s : State} :
    startAllowed s = true ↔ s.phase = .inReset ∧ s.rstLow = false ∧ s.supply.level = .normal := by
  simp [startAllowed, and_assoc]

theorem addressValid_iff {adr : BitVec 4} : addressValid adr = true ↔ 1 ≤ adr.toNat ∧ adr.toNat ≤ 8 := by
  simp [addressValid]

theorem exec_start {l : StartLines} {s : State} (h : startAllowed s = true) :
    exec (.start l) s = .next (beginStart l s) := by
  show execStart l s = _
  unfold execStart
  rw [if_pos h]

/-- R177: a start, with the address bad or good. -/
theorem beginStart_eq (l : StartLines) (s : State) : beginStart l s =
    refreshLamps
      { supply := { s.supply with powerLoss := false, cutSinceStart := false }
        rstLow := s.rstLow
        phase := if (!addressValid l.adr) = true then .badAddress else .scanning
        startKind := kindOfStart s.supply
        straps := { adr := l.adr, shf := l.shf, srv := l.srv }
        cfg := loadConfig s.flash
        csq := { startSequencer (!configGood (configBytes s.flash)) with
          lock := if (!addressValid l.adr) = true then .released else .low }
        wch := startWeigh (loadConfig s.flash).tareReference
        tgi := startTags
        nls := { entries := [], night := 0, closeSinceStart := false }
        rct := startRotor l.enc (!addressValid l.adr)
        ldi := startLanding l.beamBroken
        lkc := startLink
        shc := startShafts
        nck := startClock
        jnc := startJournal
        lms := startLamps
        flash := s.flash
        draws := s.draws
        pending := s.pending } := rfl

/-- Settles O17: every block's values after a start, by the definition of the start. -/
theorem startSetsEveryBlock : Obligations.StartSetsEveryBlock := by
  intro l s
  refine ⟨fun h => ?_, fun hp hr hl => ?_⟩
  · show execStart l s = _
    unfold execStart
    rw [if_neg fun hs => h (startAllowed_iff.1 hs)]
  · refine ⟨beginStart l s, exec_start (startAllowed_iff.2 ⟨hp, hr, hl⟩), ?_⟩
    have hkind : kindOfStart s.supply = (if s.supply.powerLoss = true then .powerOn
        else if s.supply.cutSinceStart = true then .supplyCut else .resetPin) := rfl
    by_cases hg : 1 ≤ l.adr.toNat ∧ l.adr.toNat ≤ 8
    · have hv : addressValid l.adr = true := addressValid_iff.2 hg
      have hs := beginStart_eq l s
      simp only [hv, Bool.not_true, Bool.false_eq_true, if_false] at hs
      simp only [hg, if_true, and_self, decide_true, Bool.not_true]
      rw [hs, ← hkind]
      exact ⟨rfl, rfl, rfl, rfl, rfl, rfl, hr, rfl, rfl, rfl, rfl, rfl, rfl, rfl, rfl, rfl, rfl, rfl⟩
    · have hv : addressValid l.adr = false := by
        rw [← Bool.not_eq_true, addressValid_iff]; exact hg
      have hs := beginStart_eq l s
      simp only [hv, Bool.not_false, if_true] at hs
      simp only [hg, if_false, decide_false, Bool.not_false]
      rw [hs, ← hkind]
      exact ⟨rfl, rfl, rfl, rfl, rfl, rfl, hr, rfl, rfl, rfl, rfl, rfl, rfl, rfl, rfl, rfl, rfl, rfl⟩

/-! ## The configuration -/

/-- Table 9-1: a value clamped to a range that is not empty. -/
theorem clampTo_eq {lo hi : Nat} (h : lo ≤ hi) (v : Nat) :
    clampTo lo hi v = if v < lo then lo else if hi < v then hi else v := by
  unfold clampTo
  split
  · omega
  · split <;> omega

/-- R168: a good configuration record is not blank, and its CRC-16 stands in its last two bytes. -/
theorem configGood_iff {r : List Byte} :
    configGood r = true ↔ (∃ b ∈ r, b ≠ 0xFF) ∧ crc16 (r.take 72) = byteAt r 72 ++ byteAt r 73 := by
  simp [configGood, blankBytes, wordAt16]

/-- R168, R169: the values of a good record, clamped field by field. -/
theorem loadConfig_good {m : List Host.Cell} (h : configGood (flashBytes m infoBase 74) = true) :
    loadConfig m = Cfg.ofRecord (flashBytes m infoBase 74) := by
  unfold loadConfig configBytes
  rw [if_pos h]

theorem loadConfig_default {m : List Host.Cell} (h : configGood (flashBytes m infoBase 74) = false) :
    loadConfig m = Cfg.default := by
  unfold loadConfig configBytes
  rw [if_neg (by simp [h])]

/-- The bands of a record, one for each bag type. -/
theorem ofRecord_bands (r : List Byte) (k : Fin 8) : (Cfg.ofRecord r).bands[k.val]? = some (bandAt r k.val) := by
  fin_cases k <;> rfl

/-- R167, R169: only a start and a power loss change the configured values and the straps as read. -/
theorem exec_keeps_cfg {c : Instr} {s t : State} (he : exec c s = .next t) (hs : ∀ l, c ≠ .start l)
    (hl : c ≠ .powerLoss) : t.cfg = s.cfg ∧ t.straps = s.straps := by
  have moves {u v : State} (h : Moves u v) : v.cfg = u.cfg ∧ v.straps = u.straps :=
    h.keeps (I := fun w => w.cfg = u.cfg ∧ w.straps = u.straps) (fun _ _ k i => by
      cases k with
      | act k => exact ⟨k.steady.cfg.trans i.1, k.steady.straps.trans i.2⟩
      | soft k => exact ⟨k.keeps.cfg.trans i.1, k.keeps.straps.trans i.2⟩) ⟨rfl, rfl⟩
  have settle {u v : State} (h : v.cfg = u.cfg ∧ v.straps = u.straps) :
      (settleStep v).cfg = u.cfg ∧ (settleStep v).straps = u.straps :=
    ⟨(settleStep_keeps v).cfg.trans h.1, (settleStep_keeps v).straps.trans h.2⟩
  obtain ⟨u, hu, hc⟩ := exec_course c s
  obtain rfl : u = t := Host.Outcome.next.inj (hu.symm.trans he)
  clear hu he
  cases hc with
  | started l h => exact absurd h (hs l)
  | lost h => exact absurd h hl
  | reset p b =>
    rcases holdInReset_cases s with ⟨h, -⟩ | ⟨m, n, h⟩ <;> rw [h] <;> exact ⟨rfl, rfl⟩
  | ran _ h =>
    obtain ⟨a, b, hf, ha, ht⟩ := h
    have hfront : a.cfg = s.cfg ∧ a.straps = s.straps := by
      rcases hf.moves with k | ⟨-, rfl⟩
      · exact moves k
      · exact ⟨rfl, rfl⟩
    have k := ha.steady.trans ht.fines.steady
    exact settle ⟨k.cfg.trans hfront.1, k.straps.trans hfront.2⟩
  | scanned =>
    have hj := moves (joined_moves s)
    have hh := enterHome_keeps (joined s)
    refine settle ⟨hh.cfg.trans (hj.1.trans ?_), hh.straps.trans (hj.2.trans ?_)⟩ <;> rw [served_frame]
  | _ => exact ⟨rfl, rfl⟩

/-- Settles O18: the record is loaded by `loadConfig`, and no other command loads one. -/
theorem startLoadsConfiguration : Obligations.StartLoadsConfiguration := by
  refine ⟨fun l s t hp hr hl he => ?_, fun c s t he hs hl => exec_keeps_cfg he hs hl⟩
  rw [exec_start (startAllowed_iff.2 ⟨hp, hr, hl⟩)] at he
  obtain rfl : beginStart l s = t := Host.Outcome.next.inj he
  have hcfg : (beginStart l s).cfg = loadConfig s.flash := rfl
  dsimp only
  rw [hcfg]
  refine ⟨configGood_iff, rfl, rfl, rfl, fun h => (loadConfig_default h).trans rfl, fun h => ?_⟩
  rw [loadConfig_good h]
  refine ⟨?_, ?_, ?_, ?_, ?_, ?_, ?_, ?_, ?_, ?_, ?_, ?_, ?_, ?_, ?_, ?_, ?_, ?_, ?_, ?_, ?_, rfl, fun k => ?_⟩
  on_goal 22 =>
    exact (ofRecord_bands _ k).trans
      (congrArg some (congrArg₂ Band.mk (clampTo_eq (by decide) _) (clampTo_eq (by decide) _)))
  all_goals exact clampTo_eq (by decide) _

end Sys2Proof.Machine
end

section
/-! PROOFS. When the flash array changes (FlashChangesAtCompletionsOnly). -/

namespace Sys2Proof.Machine

/-! ## Out of reset -/

theorem enterHome_flash (s : State) : (enterHome s).flash = s.flash := (enterHome_keeps s).flash

/-- Before its operations only a completion changes the array. -/
theorem Front.flash {c : Instr} {s t : State} (h : Front c s t) (hp : c ≠ .programCompletion)
    (he : c ≠ .eraseCompletion) (hi : c ≠ .infoCompletion) : t.flash = s.flash := by
  cases h with
  | marked m req =>
    exact (giveArray_op _).flash.trans (askGeneral_op req { takeRx s with jnc := { s.jnc with auditMark := m } }).flash
  | received j => rw [completed_frame]
  | claimed j n age => rw [completed_frame]; rfl
  | written hc => exact absurd hc hp
  | erased page hc => exact absurd hc he
  | info offset data hc => exact absurd hc hi
  | restored => exact (giveArray_op _).flash.trans (askGeneral_op _ (clearHold .power (setLevel .normal s))).flash
  | _ => rfl

/-- R155, R157, R171: out of reset only a completion changes the array. -/
theorem exec_flash {c : Instr} {s t : State} (h : exec c s = .next t) (ht : t.phase ≠ .inReset)
    (hp : c ≠ .programCompletion) (he : c ≠ .eraseCompletion) (hi : c ≠ .infoCompletion) : t.flash = s.flash := by
  obtain ⟨u, hu, hc⟩ := exec_course c s
  obtain rfl : u = t := Host.Outcome.next.inj (hu.symm.trans h)
  clear hu h
  cases hc with
  | reset p b => exact absurd (holdInReset_phase s) ht
  | lost => exact absurd rfl ht
  | ran _ h =>
    obtain ⟨a, b, hf, ha, hb⟩ := h
    exact (settleStep_keeps _).flash.trans ((ha.steady.trans hb.fines.steady).flash.trans (hf.flash hp he hi))
  | scanned =>
    have hj : (joined s).flash = (served s).flash := (joined_chain s).steady.flash.trans (giveArray_op _).flash
    refine (settleStep_keeps _).flash.trans ((enterHome_flash _).trans (hj.trans ?_))
    rw [served_frame]
  | _ => rfl

/-! ## A programming cut off -/

/-- Table 11-3: the 32 bytes of a record are not all FFh: the CRC-16 of 30 bytes FFh is not FFFFh. -/
theorem toBytes_not_blank (r : Record) : ∃ b ∈ r.toBytes, b ≠ 0xFF := by
  by_contra hall
  have hbytes : r.toBytes = List.replicate 32 0xFF :=
    List.eq_replicate_iff.2 ⟨r.toBytes_length, fun b hb => by_contra fun hn => hall ⟨b, hb, hn⟩⟩
  have hbody : r.body = List.replicate 30 0xFF := congrArg (List.take 30) hbytes
  have hcrc : be16 (crc16 r.body) = List.replicate 2 0xFF := congrArg (List.drop 30) hbytes
  rw [hbody] at hcrc
  exact absurd hcrc (by decide +kernel)

/-- The first byte that is not FFh stands behind those that are. -/
theorem byteAt_takeWhile_ne : ∀ {bs : List Byte}, (∃ b ∈ bs, b ≠ 0xFF) →
    (bs.takeWhile (· == 0xFF)).length < bs.length ∧ byteAt bs (bs.takeWhile (· == 0xFF)).length ≠ 0xFF
  | [], h => by simp at h
  | b :: rest, h => by
    by_cases hb : b = 0xFF
    · have hrest : ∃ c ∈ rest, c ≠ 0xFF := by simpa [hb] using h
      obtain ⟨hlt, hne⟩ := byteAt_takeWhile_ne hrest
      simp only [hb, List.takeWhile_cons, beq_self_eq_true, if_true, List.length_cons]
      exact ⟨by omega, hne⟩
    · have hn : (b :: rest).takeWhile (· == 0xFF) = [] := 
        List.takeWhile_cons_of_neg (by simpa using hb)
      rw [hn]
      exact ⟨by simp, hb⟩

/-- A slot reads as bytes that stand there one by one. -/
theorem slotBytes_eq {m : List Host.Cell} {n : Nat} {bs : List Byte} (hl : bs.length = 32)
    (h : ∀ k, k < 32 → flashRead m (32 * n + k) = byteAt bs k) : slotBytes m n = bs := by
  refine List.ext_getElem (by simp [hl]) fun k h1 h2 => ?_
  have hk : k < 32 := by simpa using h1
  simp only [slotBytes, flashBytes, List.getElem_map, List.getElem_range, h k hk]
  simp [byteAt, h2]

theorem flashRead_of_slotBlank {m : List Host.Cell} {n : Nat} (h : slotBlank m n = true) {k : Nat} (hk : k < 32) :
    flashRead m (32 * n + k) = 0xFF := by
  simp only [slotBlank, blankBytes, slotBytes, flashBytes, List.all_map, List.all_eq_true, List.mem_range,
    Function.comp, beq_iff_eq] at h
  exact h k hk

theorem slotBlank_false {m : List Host.Cell} {n k : Nat} (hk : k < 32) (h : flashRead m (32 * n + k) ≠ 0xFF) :
    slotBlank m n = false := by
  by_contra hb
  exact h (flashRead_of_slotBlank (by simpa using hb) hk)

/-- R159: a record cut off in programming stands in its slot with its first bytes, and leaves it not blank. -/
theorem cutOffProgram_slot {n : Nat} {j : Journal} {r : Record} {rest : List Record} {m : List Host.Cell}
    (hj : j.staging = r :: rest) (hp : j.writePtr < 512) (w : flashWf m = true) :
    slotBlank (cutOffProgram n j m) j.writePtr = false ∧
    (slotBlank m j.writePtr = true → (∀ k, bytesLeft n r.toBytes ≤ k → k < 32 → byteAt r.toBytes k = 0xFF) →
      slotBytes (cutOffProgram n j m) j.writePtr = r.toBytes) := by
  have hread := fun k hk => flashRead_cutOffProgram (n := n) hj hp w k hk
  obtain ⟨hlt, hne⟩ := byteAt_takeWhile_ne (toBytes_not_blank r)
  rw [r.toBytes_length] at hlt
  have hleft := bytesLeft_pos n r.toBytes
  refine ⟨slotBlank_false hlt ?_, fun hb hff => slotBytes_eq r.toBytes_length fun k hk => ?_⟩
  · rw [hread _ hlt, if_pos hleft]
    exact fun h => hne (BitVec.and_eq_allOnes_iff.1 h).2
  · rw [hread k hk, flashRead_of_slotBlank hb hk]
    split
    · exact BitVec.allOnes_and
    · exact (hff k (by omega) hk).symm

/-! ## An erase cut off -/

/-- R159: the slots of a page as an erase that was cut off has set them, one after another. -/
theorem foldl_flashSetBytes_slots {page : Nat} (hp : page < 16) (bs : Nat → List Byte) (hl : ∀ i, (bs i).length = 32)
    {m : List Host.Cell} (w : flashWf m = true) : ∀ n, n ≤ 32 →
    flashWf ((List.range n).foldl (fun acc i => flashSetBytes acc (32 * (32 * page + i)) (bs i)) m) = true ∧
    ∀ i, i < n → slotBytes ((List.range n).foldl (fun acc i => flashSetBytes acc (32 * (32 * page + i)) (bs i)) m)
      (32 * page + i) = bs i
  | 0, _ => ⟨w, by simp⟩
  | n + 1, hn => by
    obtain ⟨hw, hs⟩ := foldl_flashSetBytes_slots hp bs hl w n (by omega)
    rw [List.range_succ, List.foldl_append, List.foldl_cons, List.foldl_nil]
    generalize (List.range n).foldl (fun acc i => flashSetBytes acc (32 * (32 * page + i)) (bs i)) m = acc at hw hs
    have hsize : 32 * (32 * page + n) + (bs n).length ≤ flashSize := by rw [hl, flashSize]; omega
    refine ⟨flashSetBytes_wf _ hsize hw, fun i hi => ?_⟩
    rcases Nat.lt_succ_iff_lt_or_eq.1 hi with hlt | rfl
    · rw [← hs i hlt]
      refine slotBytes_eq (slotBytes_length _ _) fun k hk => ?_
      rw [flashRead_flashSetBytes_outside _ (by rw [hl]; omega)]
      simp [slotBytes, flashBytes, byteAt, hk]
    · exact slotBytes_eq (hl i) fun k hk => flashRead_flashSetBytes_inside _ (by rw [hl]; exact hk) hsize hw

/-- R159: each slot of a page in erase reads blank, void or as before. -/
theorem cutOffErase_slot (n : Nat) {page i : Nat} (hp : page < 16) {m : List Host.Cell} (w : flashWf m = true)
    (hi : i < 32) : slotBlank (cutOffErase n page m) (32 * page + i) = true ∨
      voidBytes (slotBytes (cutOffErase n page m) (32 * page + i)) = true ∨
      slotBytes (cutOffErase n page m) (32 * page + i) = slotBytes m (32 * page + i) := by
  set bs : Nat → List Byte := fun i => cutOffSlot (slotBytes m (32 * page + i))
    ((List.range 32).map fun k => Config.partlyErasedByte n (32 * (32 * page + i) + k)) with hbs
  have hs : slotBytes (cutOffErase n page m) (32 * page + i) = bs i :=
    (foldl_flashSetBytes_slots hp bs (fun i => cutOffSlot_length (slotBytes_length _ _) (by simp)) w 32 le_rfl).2 i hi
  unfold slotBlank
  rw [hs]
  exact cutOffSlot_cases _ _

/-! ## An information-page operation cut off -/

theorem cutOffInfo_places {n : Nat} {offset : Byte} {data : List Byte} {m : List Host.Cell} (ho : offset ≠ 0) {a : Nat}
    (ha : a < 16384 + offset.toNat ∨ 16384 + 73 < a ∨ 16384 + offset.toNat + data.length ≤ a) :
    flashRead (cutOffInfo n offset data m) a = flashRead m a := by
  have hne : offset.toNat ≠ 0 := fun h => ho (BitVec.eq_of_toNat_eq h)
  have hl : ((infoData offset data).take (Config.bytesProgrammed n)).length ≤ min (74 - offset.toNat) data.length := by
    rw [List.length_take, infoData, List.length_take]
    exact min_le_right _ _
  unfold cutOffInfo
  dsimp only
  rw [if_neg hne]
  refine flashRead_flashProgramBytes_outside _ ?_ m
  simp only [infoBase]
  omega

/-! ## Entering reset -/

/-- R159, R175, R176: what a command that enters reset leaves of the array. -/
theorem exec_cutOff {c : Instr} {s t : State} (hc : c = .rstLow ∨ c = .supplyCut ∨ c = .powerLoss)
    (he : exec c s = .next t) (hs : s.phase ≠ .inReset) (ht : t.phase = .inReset) :
    t.flash = (abandonArray s).flash := by
  have hold : (holdInReset s).flash = (abandonArray s).flash := by
    unfold holdInReset
    rw [if_neg hs]
    rfl
  rcases hc with rfl | rfl | rfl
  · cases he
    exact hold
  · by_cases hl : s.supply.level = .cut
    · have hx : exec .supplyCut s = .next s := by
        show execSupplyCut s = _
        unfold execSupplyCut
        rw [if_pos hl]
      rw [hx] at he
      cases he
      exact absurd ht hs
    · rw [exec_supplyCut hl] at he
      cases he
      exact hold
  · cases he
    exact hold

/-- Settles O15: only the completions change the array out of reset, and an operation that reset cuts off leaves what the
lemmas above say. -/
theorem flashChangesAtCompletionsOnly : Obligations.FlashChangesAtCompletionsOnly := by
  refine ⟨fun c s t h ht hp he hi => exec_flash h ht hp he hi, fun c s t hc he hs ht hf => ?_⟩
  obtain ⟨w, hp, hpage⟩ := flashRight_iff.1 hf
  rw [exec_cutOff hc he hs ht]
  refine ⟨fun ha => by rw [abandonArray_idle ha], fun r rest ha hst => ?_, fun page ha => ?_, fun offset data ha => ?_⟩
  · have hx : (abandonArray s).flash = cutOffProgram s.draws s.jnc s.flash := by unfold abandonArray; rw [ha]
    rw [hx]
    obtain ⟨hblank, hwhole⟩ := cutOffProgram_slot (n := s.draws) hst hp w
    exact ⟨bytesLeft s.draws r.toBytes, fun k hk => flashRead_cutOffProgram hst hp w k hk, hblank, hwhole,
      fun a h => flashRead_cutOffProgram_outside h⟩
  · have hx : (abandonArray s).flash = cutOffErase s.draws page s.flash := by unfold abandonArray; rw [ha]
    rw [hx]
    exact ⟨fun i hi => cutOffErase_slot s.draws (hpage page ha) w hi, (cutOffErase_op (hpage page ha) w).2⟩
  · have hx : (abandonArray s).flash = cutOffInfo s.draws offset data s.flash := by unfold abandonArray; rw [ha]
    rw [hx]
    exact ⟨(cutOffInfo_op w).2, fun ho a h => cutOffInfo_places ho h⟩

end Sys2Proof.Machine
end

section
/-! PROOFS. The weigh and tag lines (WeighBytes, TagBytes), the encoder in STOPPED and REVERSE (EncoderCounts) and the hatch
outside FAULT's causes (HatchOpening, HatchClosing). -/

namespace Sys2Proof.Machine

/-! ## States that the end of a step leaves as they are -/

/-- Whether a state is settled rests on these of its fields only. -/
theorem Settled.transfer {s t : State} (h : Settled s) (hs : t.csq.state = s.csq.state)
    (he : t.csq.holds.isEmpty = s.csq.holds.isEmpty) (hw : t.csq.holds.weigh = s.csq.holds.weigh)
    (hc : t.csq.hatch = s.csq.hatch) (hr : t.rct.homeActive = s.rct.homeActive)
    (ha : t.wch.activity = .tare ↔ s.wch.activity = .tare) (ht : t.wch.tareInterval = s.wch.tareInterval) :
    Settled t := by
  have hel : tareEligible t = tareEligible s := by simp only [tareEligible, hs, hw, hc, hr]
  simpa only [Settled, hel, hs, he, hc, ha, ht, ne_eq] using h

/-- R39: outside IDLE and HELD no tare check may run. -/
theorem tareEligible_elsewhere {s : State} (hi : s.csq.state ≠ .idle) (hh : s.csq.state ≠ .held) :
    tareEligible s = false := by
  simp [tareEligible, hi, hh]

/-- R8, R11, R26, R39: outside IDLE and HELD a state is settled with the hatch shut where it has to be and no tare check. -/
theorem settled_elsewhere {s : State} (hi : s.csq.state ≠ .idle) (hh : s.csq.state ≠ .held)
    (hc : s.csq.state.locked = true → s.csq.hatch = .closed) (ha : s.wch.activity ≠ .tare)
    (ht : s.wch.tareInterval = none) : Settled s :=
  ⟨fun h => absurd h hi, fun h => absurd h hh, fun h => hc (h.resolve_left hi),
    fun h => by simp [tareEligible_elsewhere hi hh] at h, fun _ => ⟨ha, ht⟩⟩

/-- R39: outside IDLE and HELD no tare check runs in a settled state. -/
theorem Settled.no_tare {s : State} (h : Settled s) (hi : s.csq.state ≠ .idle) (hh : s.csq.state ≠ .held) :
    s.wch.activity ≠ .tare ∧ s.wch.tareInterval = none :=
  h.2.2.2.2 (tareEligible_elsewhere hi hh)

/-- R40: a weigh channel that is no longer eligible. -/
def tareStopped (w : Weigh) : Weigh :=
  { w with
    tareInterval := none
    activity := if w.activity = .tare then .idle else w.activity
    window := if w.activity = .tare then [] else w.window }

/-- R40: a channel that is not eligible stops its tare check. -/
theorem judgeTare_of_ineligible {s : State} (h : tareEligible s = false) :
    judgeTare s = { s with wch := tareStopped s.wch } := by
  unfold judgeTare tareStopped
  rw [h, if_neg Bool.false_ne_true]
  split <;> simp

/-- R8, R11, R26, R40: what follows a step that ends outside IDLE and HELD with the hatch shut where it has to be. -/
theorem settleStep_elsewhere {s : State} (hi : s.csq.state ≠ .idle) (hh : s.csq.state ≠ .held)
    (hc : s.csq.state.locked = true → s.csq.hatch = .closed) :
    settleStep s = { s with wch := tareStopped s.wch } := by
  rw [settleStep_of_hatch fun h => hc (h.resolve_left hi), judgeHeld_of_not_idle hi, if_neg fun h => hh h.1,
    judgeTare_of_ineligible (tareEligible_elsewhere hi hh)]

/-! ## The weigh converter line (R30 to R33) -/

/-- R33: a sample outside a window is not kept. -/
theorem gatherSample_of_none {s : State} (v : W16) (h : s.wch.activity = .idle ∨ s.wch.activity = .settle) :
    gatherSample v s = s := by
  unfold gatherSample
  rcases h with h | h <;> rw [h]

/-- R33: short of the 16th a sample only joins its window. -/
theorem gatherSample_short {s : State} (v : W16) (h : s.wch.activity = .weighing ∨ s.wch.activity = .tare)
    (hw : s.wch.window.length < 15) : gatherSample v s = sampleJoined v s := by
  have hn : (s.wch.window ++ [v]).length ≠ 16 := by simp; omega
  unfold gatherSample
  rcases h with h | h <;> simp only [h, if_neg hn, sampleJoined]

/-- Settles O26: the bytes of the weigh converter line short of the 16th sample (R30 to R33). -/
theorem weighBytes : Obligations.WeighBytes := by
  intro b late s ⟨hp, hs⟩
  refine ⟨?_, fun h => ?_, fun first hf => ⟨fun ha => ?_, fun ha hw => ?_⟩⟩
  · exact running_of_settled hp (hs.congr rfl rfl rfl rfl Iff.rfl rfl)
  · have hx : weighByte b false late s = holdByte (some b) s := by
      unfold weighByte
      rcases h with h | h
      · rw [h]; rfl
      · cases s.wch.heldByte <;> rw [h] <;> rfl
    exact (congrArg (running s) hx).trans (running_of_settled hp (hs.congr rfl rfl rfl rfl Iff.rfl rfl))
  · rw [exec_sample b hf, gatherSample_of_none (s := sampleTaken s) _ ha]
    exact running_of_settled hp (hs.congr rfl rfl rfl rfl Iff.rfl rfl)
  · rw [exec_sample b hf, gatherSample_short (s := sampleTaken s) _ ha hw]
    exact running_of_settled hp (hs.congr rfl rfl rfl rfl Iff.rfl rfl)

/-! ## The tag reader line (R47 to R52) -/

/-- The tag input has no part in what is judged at the end of a step. -/
theorem running_tags {s : State} (hr : Runs s) (t : TagInput) :
    running s { s with tgi := t } = .next { s with tgi := t } :=
  running_of_settled hr.1 (hr.2.congr rfl rfl rfl rfl Iff.rfl rfl)

theorem exec_tagByte {s : State} (hr : Runs s) (b : Byte) (err : Bool) :
    exec (.tagByteReceived b err) s = .next { s with tgi := s.tgi.byte b err } := running_tags hr _

/-- R48: the bytes in HUNT. -/
theorem TagInput.byte_hunt {t : TagInput} (h : t.phase = .hunt) (b : Byte) :
    t.byte b true = t ∧ (b ≠ 0x3C → t.byte b false = t) ∧
    (b = 0x3C → t.byte b false = { t with phase := .collect, buffer := [], byteGap := some 5 }) := by
  unfold TagInput.byte
  rw [h]
  exact ⟨rfl, fun hb => if_neg hb, fun hb => if_pos hb⟩

/-- R47, R48: a framing error in COLLECT, and a byte short of the twelfth. -/
theorem TagInput.byte_collect {t : TagInput} (h : t.phase = .collect) (b : Byte) :
    t.byte b true = t.toHunt ∧
    (t.buffer.length < 11 → t.byte b false = { t with buffer := t.buffer ++ [b], byteGap := some 5 }) := by
  unfold TagInput.byte
  rw [h]
  refine ⟨rfl, fun hl => ?_⟩
  have hn : (t.buffer ++ [b]).length ≠ 12 := by simp; omega
  simp only [if_neg hn, Bool.false_eq_true, if_false]

/-- R48, R50: the twelfth byte has the message judged. -/
theorem TagInput.byte_twelfth {t : TagInput} (h : t.phase = .collect) (hl : t.buffer.length = 11) (b : Byte) :
    t.byte b false = t.judge (t.buffer ++ [b]) := by
  have hn : (t.buffer ++ [b]).length = 12 := by simp [hl]
  unfold TagInput.byte
  rw [h]
  simp only [if_pos hn, Bool.false_eq_true, if_false]

/-- Four words of one width, joined in pairs or one after another. -/
theorem toNat_append_pairs {w : Nat} (b0 b1 b2 b3 : BitVec w) :
    ((b0 ++ b1) ++ (b2 ++ b3)).toNat = (b0 ++ b1 ++ b2 ++ b3).toNat := by
  simp only [BitVec.toNat_append, Nat.shiftLeft_or_distrib, Nat.shiftLeft_add, Nat.or_assoc]

/-- Big-endian fields: a word of four bytes joined one after another. -/
theorem append_bytes (b0 b1 b2 b3 : Byte) : ((b0 ++ b1) ++ (b2 ++ b3) : W32) = b0 ++ b1 ++ b2 ++ b3 :=
  BitVec.eq_of_toNat_eq (toNat_append_pairs b0 b1 b2 b3)

/-- R50: a message of twelve bytes is valid where its CRC-16 is right and its serial may stand for a bag. -/
theorem tagValid_iff (b0 b1 b2 b3 b4 b5 b6 b7 b8 b9 b10 b11 : Byte) :
    tagValid [b0, b1, b2, b3, b4, b5, b6, b7, b8, b9, b10, b11] = true ↔
      crc16 [b0, b1, b2, b3, b4, b5, b6, b7, b8, b9] = b10 ++ b11 ∧
        (b0 ++ b1 ++ b2 ++ b3 : W32) ≠ 0 ∧ (b0 ++ b1 ++ b2 ++ b3 : W32) ≠ 0xFFFFFFFF := by
  rw [← append_bytes]
  simp only [tagValid, Bool.and_eq_true, beq_iff_eq, bne_iff_ne, and_assoc]
  rfl

/-- R52: what a valid message in an open window does to the read set. -/
theorem TagInput.judge_valid {t : TagInput} {buf : List Byte} (hv : tagValid buf = true) (ho : t.windowOpen = true) :
    (t.readSet = [] → t.judge buf = { t.toHunt with
      readSet := [wordAt32 buf 0], firstRead := some (tagRead buf) }) ∧
    (∀ x, t.readSet = [x] → x ≠ wordAt32 buf 0 → t.judge buf = { t.toHunt with readSet := [x, wordAt32 buf 0] }) ∧
    (t.readSet = [wordAt32 buf 0] ∨ t.readSet.length = 2 → t.judge buf = t.toHunt) := by
  unfold TagInput.judge
  rw [if_pos ⟨hv, ho⟩]
  refine ⟨fun h => ?_, fun x h hx => ?_, fun h => ?_⟩
  · simp [takeRead, toHunt, h]
  · simp [takeRead, toHunt, h, hx]
  · rcases h with h | h
    · simp [takeRead, toHunt, h]
    · obtain ⟨x, y, hxy⟩ := List.length_eq_two.mp h
      simp [takeRead, toHunt, hxy]

/-- R50, R52: a message that is not valid, or that finds the window closed, is discarded. -/
theorem TagInput.judge_discarded {t : TagInput} {buf : List Byte} (h : ¬ (tagValid buf = true ∧ t.windowOpen = true)) :
    t.judge buf = t.toHunt := if_neg h

/-- Settles O30: the bytes of a tag message (R47 to R49), and the message judged at the twelfth (R50, R52). -/
theorem tagBytes : Obligations.TagBytes := by
  refine ⟨fun b s hr => ⟨fun h => ?_, fun h => ?_, fun hg => ?_⟩, ?_⟩
  · obtain ⟨he, ho, hs⟩ := TagInput.byte_hunt h b
    exact ⟨by rw [exec_tagByte hr, he], fun hb => by rw [exec_tagByte hr, ho hb],
      fun hb => by rw [exec_tagByte hr, hs hb]⟩
  · obtain ⟨he, hj⟩ := TagInput.byte_collect h b
    exact ⟨by rw [exec_tagByte hr, he]; rfl, fun hl => by rw [exec_tagByte hr, hj hl]⟩
  · exact (congrArg (running s) (if_neg hg)).trans (running_tags hr _)
  · intro b0 b1 b2 b3 b4 b5 b6 b7 b8 b9 b10 b11 s hr hp hb serial valid hunt
    have hx : exec (.tagByteReceived b11 false) s = .next { s with
        tgi := s.tgi.judge [b0, b1, b2, b3, b4, b5, b6, b7, b8, b9, b10, b11] } := by
      rw [exec_tagByte hr, TagInput.byte_twelfth hp (by rw [hb]; rfl), hb]
      rfl
    have hs : wordAt32 [b0, b1, b2, b3, b4, b5, b6, b7, b8, b9, b10, b11] 0 = serial := append_bytes b0 b1 b2 b3
    have ha : wordAt32 [b0, b1, b2, b3, b4, b5, b6, b7, b8, b9, b10, b11] 4 = b4 ++ b5 ++ b6 ++ b7 :=
      append_bytes b4 b5 b6 b7
    have hv := tagValid_iff b0 b1 b2 b3 b4 b5 b6 b7 b8 b9 b10 b11
    rw [hx]
    refine ⟨fun h => ?_, fun hval ho => ?_⟩
    · rw [TagInput.judge_discarded fun hh => h.elim (fun hn => hn (hv.mp hh.1)) fun hc => by simp [hc] at hh]
      rfl
    · obtain ⟨hfirst, hsecond, hrest⟩ := TagInput.judge_valid (hv.mpr hval) ho
      rw [hs] at hfirst hsecond hrest
      refine ⟨fun h => ?_, fun x h hne => ?_, fun h => ?_⟩
      · rw [hfirst h, tagRead, ha]
        rfl
      · rw [hsecond x h hne]
        rfl
      · rw [hrest h]
        rfl

/-! ## The encoder in STOPPED and REVERSE (R67 to R69) -/

/-- R67: the forward cycle is that of the line states one after another. -/
theorem forwardStep_iff (p q : EncPair) : ForwardStep p q ↔ q = encNext p := by
  obtain ⟨a, b⟩ := p
  obtain ⟨c, d⟩ := q
  cases a <;> cases b <;> cases c <;> cases d <;> decide

/-- R67, R68: the two lines after a reverse step, which is neither none, forward nor invalid. -/
theorem eq_encNext_cases {p q : EncPair} (h : p = encNext q) :
    q ≠ p ∧ q ≠ encNext p ∧ q ≠ encOpposite p := by
  obtain ⟨a, b⟩ := q
  subst h
  cases a <;> cases b <;> decide

theorem encNext_ne (p : EncPair) : encNext p ≠ p := by
  obtain ⟨a, b⟩ := p
  cases a <;> cases b <;> decide

theorem encOpposite_ne (p : EncPair) : encOpposite p ≠ p ∧ encOpposite p ≠ encNext p := by
  obtain ⟨a, b⟩ := p
  cases a <;> cases b <;> decide

/-- R67: a sample one forward step on. -/
theorem encoderSample_forward {p : EncPair} {s : State} (h : ForwardStep s.rct.encRef p) :
    encoderSample p s = forwardStep { s with rct := { s.rct with encRef := p } } := by
  obtain rfl := (forwardStep_iff _ _).mp h
  simp [encoderSample, encNext_ne]

/-- R67: a sample one reverse step on. -/
theorem encoderSample_reverse {p : EncPair} {s : State} (h : ForwardStep p s.rct.encRef) :
    encoderSample p s = reverseStep { s with rct := { s.rct with encRef := p } } := by
  obtain ⟨h1, h2, h3⟩ := eq_encNext_cases ((forwardStep_iff _ _).mp h)
  simp [encoderSample, h1, h2, h3]

/-- R68: a sample that differs in both lines. -/
theorem encoderSample_invalid (s : State) :
    encoderSample (encOpposite s.rct.encRef) s =
      invalidSample { s with rct := { s.rct with encRef := encOpposite s.rct.encRef } } := by
  obtain ⟨h1, h2⟩ := encOpposite_ne s.rct.encRef
  simp [encoderSample, h1, h2]

/-- R74: outside FORWARD no drop compare is made. -/
theorem compareDrop_of_not_forward {s : State} (h : s.rct.mode ≠ .forward) : compareDrop s = s :=
  if_neg fun hh => h hh.1

/-- R67: a forward step in a mode that is not watched only counts. -/
theorem forwardStep_unwatched {s : State} (h : s.rct.mode = .stopped ∨ s.rct.mode = .reverse) :
    forwardStep s = { s with rct := s.rct.stepForward } := by
  have hm : s.rct.stepForward.mode.watched = false ∧ s.rct.stepForward.mode ≠ .forward := by
    change s.rct.mode.watched = false ∧ s.rct.mode ≠ .forward
    rcases h with h | h <;> rw [h] <;> exact ⟨rfl, by decide⟩
  unfold forwardStep
  dsimp only
  rw [if_neg fun hw => by simp [hm.1] at hw]
  exact compareDrop_of_not_forward hm.2

/-- R67: a reverse step in a mode that is not watched only counts. -/
theorem reverseStep_unwatched {s : State} (h : s.rct.mode = .stopped ∨ s.rct.mode = .reverse) :
    reverseStep s = { s with rct := s.rct.stepReverse } := by
  have hm : s.rct.mode.watched = false ∧ s.rct.mode ≠ .forward := by
    rcases h with h | h <;> rw [h] <;> exact ⟨rfl, by decide⟩
  unfold reverseStep
  dsimp only
  rw [if_neg fun hw => by simp [isReverseTravel, hm.1] at hw]
  exact compareDrop_of_not_forward hm.2

/-- The count and the encoder's reference have no part in what is judged at the end of a step. -/
theorem running_rotor {s : State} (hr : Runs s) {r : Rotor} (h : r.homeActive = s.rct.homeActive) :
    running s { s with rct := r } = .next { s with rct := r } :=
  running_of_settled hr.1 (hr.2.transfer rfl rfl rfl rfl h Iff.rfl rfl)

/-- Settles O33: the encoder in STOPPED and REVERSE (R67 to R69). -/
theorem encoderCounts : Obligations.EncoderCounts := by
  intro p s hr hm
  refine ⟨fun hp => ?_, fun hf => ?_, fun hf => ?_, fun h => ?_⟩
  · have hx : encoderSample p s = s := if_pos hp
    exact (congrArg (running s) hx).trans (running_self hr)
  · have hx : encoderSample p s = _ := (encoderSample_forward hf).trans (forwardStep_unwatched hm)
    have hpos := Rotor.stepForward_position { s.rct with encRef := p }
    refine ⟨_, (congrArg (running s) hx).trans (running_rotor hr rfl), rfl, fun hc hu => ?_, fun hn => ?_⟩
    · rw [hpos, if_pos ⟨hc, hu⟩]
    · rw [hpos, if_neg (by simpa [Decidable.imp_iff_not_or] using hn)]
      rfl
  · have hx : encoderSample p s = _ := (encoderSample_reverse hf).trans (reverseStep_unwatched hm)
    have hpos := Rotor.stepReverse_position { s.rct with encRef := p }
    refine ⟨_, (congrArg (running s) hx).trans (running_rotor hr rfl), rfl, fun hc _ => ?_, fun hn => ?_⟩
    · rw [hpos, if_pos hc]
    · rw [hpos]
      by_cases hc : s.rct.count = 0
      · rw [if_pos hc, Rotor.position, hn.resolve_left (absurd hc), hc]
        rfl
      · rw [if_neg hc]
        rfl
  · have hx : encoderSample (encOpposite s.rct.encRef) s = _ := (encoderSample_invalid s).trans (if_pos h)
    exact (congrArg (running s) hx).trans (running_rotor hr rfl)

/-! ## The hatch (R8, R9, R12, R16) -/

/-- R8, R16: a hatch opening in IDLE or PRESENT enters OPEN, and a tare check is abandoned. -/
theorem exec_hatchOpening_opened {s : State} (hp : s.phase ≠ .inReset) (hc : s.csq.hatch = .closed)
    (hs : s.csq.state = .idle ∨ s.csq.state = .present) :
    exec .hatchOpening s = .next { enterState .opened { s with csq := { s.csq with hatch := .opened } } with
      wch := tareStopped s.wch } := by
  rw [exec_hatchOpening_enters hc hs, running_eq hp,
    settleStep_elsewhere (by simp) (by simp) fun h => by simp [SeqState.locked] at h]
  rfl

/-- R4: a change of the hatch filter alone in a state that neither judges the hatch nor weighs. -/
theorem running_hatch {s : State} (hr : Runs s) (h : Hatch) (hi : s.csq.state ≠ .idle)
    (hl : s.csq.state.locked = false) :
    running s { s with csq := { s.csq with hatch := h } } = .next { s with csq := { s.csq with hatch := h } } := by
  have hh : s.csq.state ≠ .held := fun e => by simp [e, SeqState.locked] at hl
  obtain ⟨ha, ht⟩ := hr.2.no_tare hi hh
  exact running_of_settled hr.1 (settled_elsewhere hi hh (fun h => by simp [hl] at h) ha ht)

/-- Settles O23: the hatch opening outside the locked states (R8, R16, R26). -/
theorem hatchOpening : Obligations.HatchOpening := by
  intro s hr hc
  refine ⟨fun hp hs => ⟨_, exec_hatchOpening_opened hr.1 hc hs, ?_, rfl, rfl, rfl⟩, fun hs => ?_⟩
  · unfold enterState lockLine
    rw [hp]
    rfl
  · have hn : ¬ (s.csq.state = .idle ∨ s.csq.state = .present) := by
      rcases hs with h | h | h <;> rw [h] <;> decide
    have hl : s.csq.state.locked = false := by rcases hs with h | h | h <;> rw [h] <;> rfl
    have hx : exec .hatchOpening s = running s { s with csq := { s.csq with hatch := .opened } } := by
      simp only [exec, execHatchOpening, hatchOpens, if_pos hc, if_neg hn]
    exact hx.trans (running_hatch hr _ (fun h => hn (.inl h)) hl)

/-- R12, R34: the entry to CHECK leaves nothing to judge. -/
theorem enterCheck_settled {s : State} (hc : s.csq.hatch = .closed) (ht : s.wch.tareInterval = none) :
    Settled (enterCheck s) := by
  unfold enterCheck requestWeighing
  dsimp only
  split <;> exact settled_elsewhere (by simp [openTagWindow]) (by simp [openTagWindow]) (fun _ => hc) (by simp [openTagWindow]) ht

/-- Settles O25: the hatch closing (R4, R12, R34, R51). -/
theorem hatchClosing : Obligations.HatchClosing := by
  intro s hr hh
  refine ⟨fun hp hs => ?_, fun hs => ?_⟩
  · have hx : exec .hatchClosing s = running s (enterCheck { s with csq := { s.csq with hatch := .closed } }) := by
      simp only [exec, execHatchClosing, hatchCloses, if_pos hh, if_pos hs]
    obtain ⟨-, ht⟩ := hr.2.no_tare (by simp [hs]) (by simp [hs])
    refine ⟨_, hx.trans (running_of_settled hr.1 (enterCheck_settled rfl ht)), ?_, ?_⟩ <;>
      cases hw : s.csq.holds.weigh <;>
      simp [enterCheck, requestWeighing, openTagWindow, hw, enterState, refreshLamps, lockLine, hp, PerLamp.ofFn, lampMode]
  · have hn : s.csq.state ≠ .opened := by rcases hs with h | h | h <;> rw [h] <;> decide
    have hi : s.csq.state ≠ .idle ∧ s.csq.state.locked = false := by
      rcases hs with h | h | h <;> rw [h] <;> exact ⟨by decide, rfl⟩
    have hx : exec .hatchClosing s = running s { s with csq := { s.csq with hatch := .closed } } := by
      simp only [exec, execHatchClosing, hatchCloses, if_pos hh, if_neg hn]
    exact hx.trans (running_hatch hr _ hi.1 hi.2)

end Sys2Proof.Machine
end

section
/-! PROOFS. The end of a step that has changed the hold reason set or asked for a record: what the judgements then do, and
what such a step leaves alone. -/

namespace Sys2Proof.Machine

/-! ## The frames of the shared operations -/

/-- R104, R105: what the queuing of frames and the own claim may change. -/
theorem QueueOp.frame {s t : State} (h : QueueOp s t) :
    t = { s with csq := { s.csq with retry := t.csq.retry }, lkc := t.lkc, shc := t.shc, draws := t.draws } := by
  cases t
  rw [State.mk.injEq]
  exact ⟨h.supply, h.rstLow, h.phase, h.startKind, h.straps, h.cfg, h.csq, h.wch, h.tgi, h.nls, h.rct, h.ldi, rfl, rfl,
    h.nck, h.jnc, h.lms, h.flash, rfl, h.pending⟩

/-- R149, R154: what the journal controller's work may change. -/
theorem JournalOp.frame {s t : State} (h : JournalOp s t) :
    t = { s with csq := t.csq, lkc := t.lkc, shc := t.shc, jnc := t.jnc, draws := t.draws } := by
  cases t
  rw [State.mk.injEq]
  exact ⟨h.supply, h.rstLow, h.phase, h.startKind, h.straps, h.cfg, rfl, h.wch, h.tgi, h.nls, h.rct, h.ldi, rfl, rfl,
    h.nck, rfl, h.lms, h.flash, rfl, h.pending⟩

/-- R149, R154: where no READ_JOURNAL waits, the coordinator and the free values stay as well. -/
theorem JournalOp.frame_quiet {s t : State} (h : JournalOp s t) (hn : NoReadWaits s) :
    t = { s with csq := t.csq, lkc := t.lkc, jnc := t.jnc } := by
  obtain ⟨-, hs, hd, -, -⟩ := h.quiet hn
  conv_lhs => rw [h.frame, hs, hd]

/-! ## What is judged at the end of a step -/

/-- R39: the tare interval timer and the tare check as a settled state has them. -/
def TareRight (s : State) : Prop :=
  (tareEligible s = true → (s.wch.activity = .tare ↔ s.wch.tareInterval = none)) ∧
  (tareEligible s = false → s.wch.activity ≠ .tare ∧ s.wch.tareInterval = none)

theorem Settled.tareRight {s : State} (h : Settled s) : TareRight s := h.2.2.2

theorem Settled.hatchShut {s : State} (h : Settled s) : Machine.hatchShut s.csq := h.2.2.1

/-- R39: neither rests on more than the state, the reason WEIGH, the hatch, the home switch and the channel itself. -/
theorem TareRight.congr {s t : State} (h : TareRight s) (hs : t.csq.state = s.csq.state)
    (hw : t.csq.holds.weigh = s.csq.holds.weigh) (hc : t.csq.hatch = s.csq.hatch)
    (hr : t.rct.homeActive = s.rct.homeActive) (ha : t.wch = s.wch) : TareRight t := by
  have hel : tareEligible t = tareEligible s := by simp only [tareEligible, hs, hw, hc, hr]
  simpa only [TareRight, hel, ha] using h

theorem judgeTare_of_right {s : State} (h : TareRight s) : judgeTare s = s := by
  obtain ⟨hrun, hstop⟩ := h
  cases he : tareEligible s with
  | true =>
    have hi := hrun he
    unfold judgeTare
    rw [he, if_pos rfl, if_pos]
    by_cases ha : s.wch.activity = .tare
    · exact .inl ha
    · exact .inr fun hn => ha (hi.mpr hn)
  | false =>
    obtain ⟨ha, ht⟩ := hstop he
    rw [judgeTare_of_ineligible he, tareStopped, if_neg ha, if_neg ha, ← ht]

/-- R8, R11: a step that leaves the hatch and the weigh channel as a settled state has them only has the set judged. -/
theorem settleStep_judged {s : State} (hc : hatchShut s.csq) (ht : TareRight s) : settleStep s = judgeHeld s := by
  rw [settleStep_of_hatch hc, judgeTare_of_right]
  exact ⟨fun h => by rw [judgeHeld_wch]; exact ht.1 (tareEligible_judgeHeld s ▸ h),
    fun h => by rw [judgeHeld_wch]; exact ht.2 (tareEligible_judgeHeld s ▸ h)⟩

/-- R5, R8, R11: the state as the set gives it, with the lock and the lamps as the state. -/
theorem judgeHeld_stateByHolds {s u : State} (hp : u.phase = .service) (hs : u.csq.state = s.csq.state)
    (hl : u.csq.lock = s.csq.lock) (hm : u.lms = s.lms) : StateByHolds s (judgeHeld u) := by
  rw [StateByHolds, ← hs, ← hl, ← hm]
  unfold judgeHeld
  cases he : u.csq.holds.isEmpty with
  | true =>
    by_cases h1 : u.csq.state = .held
    · simp [h1, he, lockLine, hp]
    · simp +contextual [h1, he]
  | false =>
    by_cases h1 : u.csq.state = .idle
    · simp [h1, he, lockLine, hp]
    · simp +contextual [h1, he]

/-- R8, R11: the judgement of the set keeps the sequencer but for the state and the lock, and all else but the lamps. -/
theorem judgeHeld_csq (s : State) :
    (judgeHeld s).csq = { s.csq with state := (judgeHeld s).csq.state, lock := (judgeHeld s).csq.lock } := by
  conv_lhs => rw [judgeHeld_frame]

/-- R8, R11: beside the sequencer the judgement of the set changes the lamps only. -/
theorem judgeHeld_lamps (s : State) :
    judgeHeld s = { s with csq := (judgeHeld s).csq, lms := (judgeHeld s).lms } := by
  conv_lhs => rw [judgeHeld_frame]
  rw [judgeHeld_csq]

@[simp] theorem judgeHeld_holds (s : State) : (judgeHeld s).csq.holds = s.csq.holds := by rw [judgeHeld_frame]
@[simp] theorem judgeHeld_jnc (s : State) : (judgeHeld s).jnc = s.jnc := by rw [judgeHeld_frame]
@[simp] theorem judgeHeld_lkc (s : State) : (judgeHeld s).lkc = s.lkc := by rw [judgeHeld_frame]
@[simp] theorem judgeHeld_shc (s : State) : (judgeHeld s).shc = s.shc := by rw [judgeHeld_frame]
@[simp] theorem judgeHeld_draws (s : State) : (judgeHeld s).draws = s.draws := by rw [judgeHeld_frame]

theorem JournalOp.judged_frame {u a : State} (op : JournalOp u a) :
    judgeHeld a = { u with
      csq := (judgeHeld a).csq, lkc := (judgeHeld a).lkc, shc := (judgeHeld a).shc, jnc := (judgeHeld a).jnc
      lms := (judgeHeld a).lms, draws := (judgeHeld a).draws } := by
  have hj := judgeHeld_lamps a
  rw [judgeHeld_lkc, judgeHeld_shc, judgeHeld_jnc, judgeHeld_draws]
  generalize judgeHeld a = b at hj ⊢
  calc b = { a with csq := b.csq, lms := b.lms } := hj
    _ = _ := congrArg (fun x : State => { x with csq := b.csq, lms := b.lms }) op.frame

/-! ## What the serving of a read leaves of the sequencer -/

/-- R105: a frame of another kind never takes the place of a CLAIM that is more urgent than it, so the sequencer hears
nothing of its queuing. -/
theorem queueFrame_csq {c : TxFrame} (s : State) (hc : c.isClaim = false) (hk : 0x20 ≤ c.kindCode.toNat) :
    (queueFrame c s).csq = s.csq := by
  have hjoin (u : State) : (joinQueue c u).csq = u.csq := by
    unfold joinQueue startIfFree startFrame
    split
    · split
      · rfl
      · split <;> rfl
    · rfl
  unfold queueFrame refuseQueue
  simp only [hc, Bool.false_and, Bool.false_eq_true, if_false]
  split
  · exact hjoin s
  · split
    · rfl
    · next e _ =>
      split
      · next hlt =>
        have he : e.content.isClaim = false := by
          cases hx : e.content with
          | claim shaft serial =>
            rw [hx] at hlt
            exact absurd hlt (Nat.not_lt.mpr hk)
          | _ => rfl
        unfold replaceEntry
        simp only [he, Bool.false_eq_true, if_false]
        exact hjoin _
      · rfl

theorem foldl_queueFrame_csq {α : Type} (f : α → TxFrame) (hc : ∀ a, (f a).isClaim = false)
    (hk : ∀ a, 0x20 ≤ (f a).kindCode.toNat) (l : List α) (s : State) :
    (l.foldl (fun t r => queueFrame (f r) t) s).csq = s.csq := by
  induction l generalizing s with
  | nil => rfl
  | cons a l ih => exact (ih _).trans (queueFrame_csq s (hc a) (hk a))

/-- R163, R164: the serving of a READ_JOURNAL leaves the sequencer. -/
theorem serveRead_csq (req : ReadReq) (s : State) : (serveRead req s).csq = s.csq := by
  unfold serveRead
  split
  · exact queueFrame_csq s rfl (by simp [TxFrame.kindCode])
  · exact foldl_queueFrame_csq (fun (r : Nat × Record) => TxFrame.journal req.source (slotBytes s.flash r.1))
      (fun _ => rfl) (fun _ => by simp [TxFrame.kindCode]) _ s

theorem giveOperation_retry (s : State) : (giveOperation s).csq.retry = s.csq.retry := by
  unfold giveOperation startProgram
  split
  · rfl
  · split
    · rfl
    · split
      · rfl
      · dsimp only
        split <;> rfl

/-- R154: the giving of the array leaves the claim's retry interval. -/
theorem giveArray_retry (s : State) : (giveArray s).csq.retry = s.csq.retry := by
  unfold giveArray servePending
  split
  · rw [giveOperation_retry]
    split
    · rfl
    · rw [serveRead_csq]
  · rfl

theorem stageNow_retry (req : RecordReq) (s : State) : (stageNow req s).csq.retry = s.csq.retry := by
  unfold stageNow afterStaging
  split
  · rfl
  · rw [giveArray_retry]
    rfl

/-- R149 to R151: so does the asking for a record of a general kind, and of a bag kind. -/
theorem askGeneral_retry (req : RecordReq) (s : State) : (askGeneral req s).csq.retry = s.csq.retry := by
  unfold askGeneral holdForStart
  split
  · split <;> rfl
  · split
    · rfl
    · split
      · exact stageNow_retry req s
      · rfl

theorem askBag_retry (req : RecordReq) (s : State) : (askBag req s).csq.retry = s.csq.retry := by
  unfold askBag
  split
  · exact stageNow_retry req s
  · rfl

theorem JournalOp.csq_kept {s t : State} (h : JournalOp s t) (hr : t.csq.retry = s.csq.retry) :
    t.csq = { s.csq with holds := t.csq.holds } ∧ SameHoldsButJournal s.csq.holds t.csq.holds := by
  have hh : SameHoldsButJournal s.csq.holds t.csq.holds := congrArg (·.holds) h.csq
  refine ⟨?_, hh⟩
  conv_lhs => rw [h.csq, hr]
  rw [← hh]

/-! ## The journal controller's work and the end of the step -/

/-- R8, R11: from u the journal controller's work has led to a, and the end of the step to t. -/
structure Worked (u a t : State) : Prop where
  frame : t = { u with csq := t.csq, lkc := t.lkc, shc := t.shc, jnc := t.jnc, lms := t.lms, draws := t.draws }
  csq : SameSequencerBut u.csq t.csq
  holds : SameHoldsButJournal u.csq.holds t.csq.holds
  state : StateByHolds u t
  jnc : t.jnc = a.jnc
  lkc : t.lkc = a.lkc
  shc : t.shc = a.shc
  draws : t.draws = a.draws

theorem JournalOp.held {u a : State} (op : JournalOp u a) (hr : a.csq.retry = u.csq.retry) (hp : u.phase = .service) :
    Worked u a (judgeHeld a) := by
  obtain ⟨hcsq, hholds⟩ := op.csq_kept hr
  exact
    { frame := op.judged_frame
      csq := by
        unfold SameSequencerBut
        conv_lhs => rw [judgeHeld_csq, hcsq]
        simp
      holds := by rw [judgeHeld_holds]; exact hholds
      state := judgeHeld_stateByHolds (op.phase.trans hp) (congrArg (·.state) hcsq) (congrArg (·.lock) hcsq) op.lms
      jnc := judgeHeld_jnc a, lkc := judgeHeld_lkc a, shc := judgeHeld_shc a, draws := judgeHeld_draws a }

/-- R26: the journal controller's work leaves the hatch shut where it has to be. -/
theorem JournalOp.hatchShut {u a : State} (op : JournalOp u a) (hc : Machine.hatchShut u.csq) :
    Machine.hatchShut a.csq := by
  unfold Machine.hatchShut
  rw [show a.csq.state = u.csq.state from congrArg (·.state) op.csq,
    show a.csq.hatch = u.csq.hatch from congrArg (·.hatch) op.csq]
  exact hc

theorem JournalOp.worked {u a : State} (op : JournalOp u a) (hr : a.csq.retry = u.csq.retry) (hp : u.phase = .service)
    (hc : Machine.hatchShut u.csq) (ht : TareRight u) : Worked u a (settleStep a) := by
  rw [settleStep_judged (op.hatchShut hc) (ht.congr (congrArg (·.state) op.csq) (congrArg (·.holds.weigh) op.csq)
    (congrArg (·.hatch) op.csq) (congrArg (·.homeActive) op.rct) op.wch)]
  exact op.held hr hp

/-- R149 to R151, R8, R11: from u to t a record of a general kind has been asked for in service and the step has ended: the
record stands in the staging queue if it has a place, the sequencer keeps all but the state, which follows the set, and
the journal's two reasons, and the rest stays but for the journal controller's own work. -/
structure RecordTaken (r : Record) (u t : State) : Prop where
  frame : t = { u with csq := t.csq, lkc := t.lkc, jnc := t.jnc, lms := t.lms }
  csq : SameSequencerBut u.csq t.csq
  holds : SameHoldsButJournal u.csq.holds t.csq.holds
  asked : RecordAsked r u t
  journal : JournalKept u.jnc t
  link : LinkKept u.lkc t
  state : StateByHolds u t

theorem Worked.linkKept {u a t : State} (h : Worked u a t) (k : LinkKept u.lkc a) : LinkKept u.lkc t := by
  rw [LinkKept, HeadKept, h.lkc, h.jnc]
  exact k

theorem Worked.frame_quiet {u a t : State} (h : Worked u a t) (hs : a.shc = u.shc) (hd : a.draws = u.draws) :
    t = { u with csq := t.csq, lkc := t.lkc, jnc := t.jnc, lms := t.lms } := by
  have hf := h.frame
  rwa [show t.shc = u.shc from h.shc.trans hs, show t.draws = u.draws from h.draws.trans hd] at hf

/-- R149: a request for one of the general kinds but UNCLAIMED. -/
theorem askGeneral_taken {u : State} {req : RecordReq} (hp : u.phase = .service) (hk : req.kind ≠ .unclaimed)
    (hn : NoReadWaits u) (hc : hatchShut u.csq) (ht : TareRight u) :
    RecordTaken (stamped u req) u (settleStep (askGeneral req u)) := by
  have op := askGeneral_op req u
  have w := op.worked (askGeneral_retry req u) hp hc ht
  obtain ⟨-, hs, hd, -, -⟩ := op.quiet hn
  exact
    { frame := w.frame_quiet hs hd, csq := w.csq, holds := w.holds, state := w.state
      asked := by
        rw [RecordAsked, w.jnc]
        exact askGeneral_staging req hp (coalesces_eq_false hk u)
      journal := by
        rw [JournalKept, w.jnc]
        exact askGeneral_journal req hp hn
      link := w.linkKept (op.linkKept (askGeneral_head req u) hn) }

end Sys2Proof.Machine
end

section
/-! PROOFS. HOLD (HoldTaken), CLOSE (CloseTaken), the supply's warning and recovery (SupplyWarnAndRecovery) and the tare
checks (TareCheck). -/

namespace Sys2Proof.Machine

/-! ## The head of the receive queue -/

theorem takeRx_eq {s : State} {m : RxMsg} {rest : List RxMsg} (h : s.lkc.rx = m :: rest) :
    takeRx s = { s with lkc := { s.lkc with rx := rest, holding := false } } := by
  unfold takeRx
  rw [h]
  rfl

theorem takeRx_rx {s : State} {m : RxMsg} {rest : List RxMsg} (h : s.lkc.rx = m :: rest) : (takeRx s).lkc.rx = rest := by
  rw [takeRx_eq h]

/-- R102: a frame that is only taken leaves a settled part settled. -/
theorem running_takeRx {s : State} (hr : Runs s) {m : RxMsg} {rest : List RxMsg} (h : s.lkc.rx = m :: rest) :
    running s (takeRx s) = .next { s with lkc := { s.lkc with rx := rest, holding := false } } := by
  rw [running_of_settled (t := takeRx s) hr.1 (hr.2.transfer rfl rfl rfl rfl rfl Iff.rfl rfl), takeRx_eq h]

/-- R8, R11: a hold reason but WEIGH that is raised. -/
theorem raiseHold_eq {r : HoldReason} (s : State) (h : r ≠ .weigh) : raiseHold r s = judgeHold r true s := by
  have hb : (r == .weigh) = false := beq_eq_false_iff_ne.mpr h
  unfold raiseHold judgeHold
  rw [hb, Bool.false_and, Bool.or_false]

/-- R149: the stamp of a record of a kind other than DEPOSIT, which has no flags. -/
theorem stamped_general (s : State) {req : RecordReq} (hk : req.kind ≠ .deposit) (hb : req.binCount = 0) :
    stamped s req =
      generalRecord s req.kind.code req.detail req.shaft req.serial req.account req.bagType req.mass req.fall := by
  unfold stamped generalRecord stampFlags
  rw [if_neg hk, hb]
  rfl

/-! ## HOLD (R28) -/

theorem exec_hold {s : State} {arg : Byte} {rest : List RxMsg} (h : s.lkc.rx = .hold arg :: rest) :
    exec .hold s = running s (takeHold arg (takeRx s)) := by
  simp only [exec, execHold, h, List.head?_cons]

/-- Settles O56: AUDIT set or cleared with its record, and the state as the set then gives it (R28, R187). -/
theorem holdTaken : Obligations.HoldTaken := by
  intro arg rest s hr hp ha hrx on
  have hon : (arg != 0) = on := by simp only [on, bne, decide_not]; rfl
  refine ⟨fun h => ?_, fun h => ?_⟩
  · have hx : takeHold arg (takeRx s) = takeRx s := if_pos (by rw [hon]; exact h)
    rw [exec_hold hrx, hx, running_takeRx hr hrx]
  · have hx : takeHold arg (takeRx s) = askGeneral (holdRecord on s.straps.shf) (judgeHold .audit on (takeRx s)) := by
      unfold takeHold
      dsimp only
      rw [hon]
      exact if_neg h
    have k := askGeneral_taken (u := judgeHold .audit on (takeRx s)) (req := holdRecord on s.straps.shf) hp
      (by simp [holdRecord, RecordReq.blank]) ha.noReadWaits hr.2.hatchShut (hr.2.tareRight.congr rfl rfl rfl rfl rfl)
    rw [exec_hold hrx, hx, running_eq hr.1]
    rw [stamped_general _ (by simp [holdRecord, RecordReq.blank]) rfl] at k
    refine ⟨_, rfl, congrArg (·.audit) k.holds, k.asked, ?_, k.csq, k.holds, ?_, k.state, k.journal⟩
    · exact k.frame
    · have hl := k.link
      rwa [show (judgeHold .audit on (takeRx s)).lkc = _ from congrArg (·.lkc) (takeRx_eq hrx)] at hl

/-! ## The supply's warning and recovery (R174, R27) -/

/-- R180: before the part is in service a record of a general kind is held. -/
theorem askGeneral_held {s : State} (h : s.phase ≠ .service) (req : RecordReq) :
    askGeneral req s = holdForStart req s := if_pos h

/-- R154: before the part is in service the array is given to nobody. -/
theorem giveArray_early {s : State} (h : s.phase ≠ .service) : giveArray s = s := if_neg fun hs => h hs.1

theorem holdForStart_phase (req : RecordReq) (s : State) : (holdForStart req s).phase = s.phase := by
  unfold holdForStart
  split <;> rfl

/-- R174, R180: a POWER record asked for while the part starts up is held, and nothing is judged in START. -/
theorem running_powerHeld {s : State} (hr : Runs s) (hs : s.csq.state = .start) (l : SupplyLevel) (v : Bool)
    (req : RecordReq) :
    settleStep (holdForStart req (judgeHold .power v (setLevel l s))) =
      { s with
        supply := { s.supply with level := l, recovery := none }
        csq := { s.csq with holds := { s.csq.holds with power := v } }
        jnc := { s.jnc with startHold :=
          if s.jnc.startHold.length < 6 then s.jnc.startHold ++ [req] else s.jnc.startHold } } := by
  obtain ⟨ha, ht⟩ := hr.2.no_tare (by simp [hs]) (by simp [hs])
  have hu : holdForStart req (judgeHold .power v (setLevel l s)) = { s with
      supply := { s.supply with level := l, recovery := none }
      csq := { s.csq with holds := { s.csq.holds with power := v } }
      jnc := { s.jnc with startHold :=
        if s.jnc.startHold.length < 6 then s.jnc.startHold ++ [req] else s.jnc.startHold } } := by
    unfold holdForStart
    by_cases h : s.jnc.startHold.length < 6
    · rw [if_pos (show (judgeHold .power v (setLevel l s)).jnc.startHold.length < 6 from h), if_pos h]
      rfl
    · rw [if_neg (show ¬ (judgeHold .power v (setLevel l s)).jnc.startHold.length < 6 from h), if_neg h]
      rfl
  rw [hu]
  exact settleStep_of_settled (Settled.of_start hs ha ht)

/-- R174: outside CLAIM the warning only raises POWER and asks for its record. -/
theorem exec_supplyWarn_elsewhere {s : State} (hp : s.phase ≠ .inReset) (hl : s.supply.level = .normal)
    (hc : s.csq.state ≠ .claim) :
    exec .supplyWarn s =
      .next (settleStep (askGeneral (powerRecord 1 s.straps.shf) (judgeHold .power true (setLevel .warn s)))) := by
  have hw : warnEffect (setLevel .warn s) =
      askGeneral (powerRecord 1 s.straps.shf) (judgeHold .power true (setLevel .warn s)) := by
    unfold warnEffect powerInClaim
    rw [raiseHold_eq _ (by decide)]
    refine if_neg fun h => hc ?_
    have hs := congrArg (·.state)
      (askGeneral_op (powerRecord 1 s.straps.shf) (judgeHold .power true (setLevel .warn s))).csq
    exact hs.symm.trans h.1
  have hx : exec .supplyWarn s = running (setLevel .warn s) (warnEffect (setLevel .warn s)) := if_pos hl
  rw [hx, hw, running_eq (s := setLevel .warn s) hp]

theorem exec_supplyRecovery {s : State} (hp : s.phase ≠ .inReset) (hl : s.supply.level = .warn)
    (hr : s.supply.recovery ≠ none) :
    exec .supplyRecoveryExpiry s = .next (settleStep (giveArray
      (askGeneral (powerRecord 2 s.straps.shf) (judgeHold .power false (setLevel .normal s))))) := by
  have hx : exec .supplyRecoveryExpiry s =
      running (setLevel .normal s) (restoredEffect (setLevel .normal s)) := by
    show execSupplyRecoveryExpiry s = _
    unfold execSupplyRecoveryExpiry
    rw [if_neg hr]
    exact if_pos hl
  rw [hx, running_eq (s := setLevel .normal s) hp]
  rfl

/-- R149, R154: a record of a general kind asked for, after which the array is given again. -/
theorem askGeneral_given {u : State} {req : RecordReq} (hp : u.phase = .service) (hk : req.kind ≠ .unclaimed)
    (hc : hatchShut u.csq) (ht : TareRight u) :
    let t := settleStep (giveArray (askGeneral req u))
    Worked u (giveArray (askGeneral req u)) t ∧ RecordAsked (stamped u req) u t ∧
    (NoReadWaits u → t.shc = u.shc ∧ t.draws = u.draws ∧ JournalKept u.jnc t ∧ LinkKept u.lkc t) := by
  have op1 := askGeneral_op req u
  have op := op1.trans (giveArray_op _)
  have w := op.worked ((giveArray_retry _).trans (askGeneral_retry req u)) hp hc ht
  refine ⟨w, ?_, fun hn => ?_⟩
  · rw [RecordAsked, w.jnc, giveArray_staging]
    exact askGeneral_staging req hp (coalesces_eq_false hk u)
  · obtain ⟨-, hs, hd, -, -⟩ := op.quiet hn
    refine ⟨w.shc.trans hs, w.draws.trans hd, ?_,
      w.linkKept (op.linkKept ((askGeneral_head req u).trans (giveArray_head _)) hn)⟩
    rw [JournalKept, w.jnc]
    exact (askGeneral_journal req hp hn).trans (giveArray_journal (op1.quiet hn).1)

/-- Settles O22: POWER raised and cleared with its record, the state as the set then gives it, and the records of the
start-up (R174, R27, R180). -/
theorem supplyWarnAndRecovery : Obligations.SupplyWarnAndRecovery := by
  refine ⟨fun s hr ha hl hc => ⟨fun hp => ?_, fun hp hs => ?_⟩, fun s hr hl hrec => ⟨fun hp => ?_, fun hp hs => ?_⟩⟩
  · have k := askGeneral_taken (u := judgeHold .power true (setLevel .warn s)) (req := powerRecord 1 s.straps.shf) hp
      (by simp [powerRecord, RecordReq.blank]) ha.noReadWaits hr.2.hatchShut (hr.2.tareRight.congr rfl rfl rfl rfl rfl)
    rw [stamped_general _ (by simp [powerRecord, RecordReq.blank]) rfl] at k
    refine ⟨_, exec_supplyWarn_elsewhere hr.1 hl hc, ?_⟩
    generalize settleStep _ = t at k ⊢
    have hpow : t.csq.holds.power = true := congrArg (·.power) k.holds
    have hsup : t.supply = { s.supply with level := .warn, recovery := none } := congrArg (·.supply) k.frame
    have hempty : t.csq.holds.isEmpty = false := by simp [HoldSet.isEmpty, hpow]
    refine ⟨hsup, hpow, k.asked, ?_, k.state, ?_, k.csq, k.holds, k.journal, k.link⟩
    · obtain ⟨hih, hother, -, -⟩ := k.state
      rw [hempty] at hih
      split
      · next h => exact hih (.inl h)
      · next h =>
        by_cases hh : s.csq.state = .held
        · rw [hih (.inr hh), hh]; rfl
        · exact hother h hh
    · rw [hsup]
      exact k.frame
  · rw [exec_supplyWarn_elsewhere hr.1 hl hc,
      askGeneral_held (s := judgeHold .power true (setLevel .warn s)) hp, running_powerHeld hr hs]
    rfl
  · obtain ⟨w, hasked, hquiet⟩ := askGeneral_given (u := judgeHold .power false (setLevel .normal s))
      (req := powerRecord 2 s.straps.shf) hp (by simp [powerRecord, RecordReq.blank]) hr.2.hatchShut
      (hr.2.tareRight.congr rfl rfl rfl rfl rfl)
    have op := (askGeneral_op (powerRecord 2 s.straps.shf) (judgeHold .power false (setLevel .normal s))).trans
      (giveArray_op _)
    rw [stamped_general _ (by simp [powerRecord, RecordReq.blank]) rfl] at hasked
    refine ⟨_, exec_supplyRecovery hr.1 hl hrec, ?_⟩
    generalize settleStep _ = t at w hasked hquiet ⊢
    have hsup : t.supply = { s.supply with level := .normal, recovery := none } := congrArg (·.supply) w.frame
    refine ⟨hsup, congrArg (·.power) w.holds, hasked, w.state, ?_, w.csq, w.holds, ?_, ?_, ?_,
      fun ha => hquiet ha.noReadWaits⟩
    · rw [hsup]
      exact w.frame
    · rw [w.shc]; exact op.views
    · rw [w.shc]; exact op.holdAge
    · rw [w.shc]; exact op.tallies
  · rw [exec_supplyRecovery hr.1 hl hrec,
      askGeneral_held (s := judgeHold .power false (setLevel .normal s)) hp,
      giveArray_early (by rw [holdForStart_phase]; exact hp), running_powerHeld hr hs]
    rfl

/-! ## Tare checks (R39 to R44) -/

/-- R39: where a check runs the channel is eligible. -/
theorem Settled.eligible_of_tare {s : State} (h : Settled s) (ha : s.wch.activity = .tare) : tareEligible s = true := by
  by_contra hn
  exact (h.2.2.2.2 (by simpa using hn)).1 ha

/-- R39: the interval timer starts again once a check has ended in a channel that is still eligible. -/
theorem settleStep_restarts {a : State} (hc : hatchShut a.csq) (he : tareEligible a = true)
    (ha : a.wch.activity ≠ .tare) (ht : a.wch.tareInterval = none) :
    settleStep a = { judgeHeld a with wch := { a.wch with tareInterval := some 2000 } } := by
  rw [settleStep_of_hatch hc, judgeTare_of_stopped (by rwa [judgeHeld_wch]) (by rwa [judgeHeld_wch]),
    tareEligible_judgeHeld, if_pos he, judgeHeld_wch]

/-- R41 to R44: what a tare check that has been judged leaves for the end of the step: the channel's values and the hold
reason ZERO. -/
def tareJudged (w : Weigh) (zero : Bool) (s : State) : State :=
  { s with wch := w, csq := { s.csq with holds := { s.csq.holds with zero := zero } } }

/-- R8, R11, R39, R43: the end of the step in which a tare check is judged, with or without the record of a drift. -/
theorem tareJudged_ends {s a : State} {w : Weigh} {zero : Bool} (hs : Settled s) (hp : s.phase = .service)
    (hn : NoReadWaits s) (he : tareEligible s = true) (hw : w.activity ≠ .tare) (hi : w.tareInterval = none)
    (op : JournalOp (tareJudged w zero s) a) (hr : a.csq.retry = s.csq.retry) (hh : HeadOp (tareJudged w zero s) a) :
    let t := settleStep a
    t = { s with wch := t.wch, csq := t.csq, jnc := t.jnc, lkc := t.lkc, lms := t.lms } ∧
    t.wch = { w with tareInterval := some 2000 } ∧ SameSequencerBut s.csq t.csq ∧ LinkKept s.lkc t ∧
    SameHoldsButJournal { s.csq.holds with zero := zero } t.csq.holds ∧
    t.csq.state = (if t.csq.holds.isEmpty then .idle else .held) ∧ StateByHolds s t ∧
    t.csq.holds = a.csq.holds ∧ t.jnc = a.jnc ∧ t.lkc = a.lkc := by
  have hst : s.csq.state = .idle ∨ s.csq.state = .held := by
    simp only [tareEligible, Bool.and_eq_true, Bool.or_eq_true, beq_iff_eq] at he
    exact he.1.1.1
  have hela : tareEligible a = true := by
    rw [← he]
    simp only [tareEligible, show a.csq.state = _ from congrArg (·.state) op.csq,
      show a.csq.hatch = _ from congrArg (·.hatch) op.csq,
      show a.csq.holds.weigh = _ from congrArg (·.holds.weigh) op.csq, op.rct]
    rfl
  have k := op.held hr hp
  obtain ⟨-, hshc, hd, -, -⟩ := op.quiet hn
  have hf := k.frame_quiet hshc hd
  have hl := k.linkKept (op.linkKept hh hn)
  have hhold := judgeHeld_holds a
  rw [settleStep_restarts (op.hatchShut hs.hatchShut) hela (by rwa [op.wch]) (by rwa [op.wch]), op.wch]
  generalize judgeHeld a = b at k hf hl hhold ⊢
  exact ⟨congrArg (fun x : State => { x with wch := { w with tareInterval := some 2000 } }) hf, rfl, k.csq, hl, k.holds,
    k.state.1 hst, k.state, hhold, k.jnc, k.lkc⟩

theorem gatherSample_tare_full {s : State} (v : W16) (ha : s.wch.activity = .tare) (hw : s.wch.window.length = 15) :
    gatherSample v s = tareWindow (s.wch.window ++ [v]) (sampleJoined v s) := by
  simp [gatherSample, ha, hw, sampleJoined]

/-- R33, R41, R42: a good tare window as the rules put it. -/
theorem tareGood_iff (cfg : Cfg) (w : Weigh) (win : List W16) :
    let d : Int := sumOf win - w.t16
    let limit : Int := if w.snapPending then 4 * cfg.zeroTrack else cfg.zeroTrack
    tareGood cfg w win = true ↔ StableWindow cfg.stability win ∧ -limit ≤ d ∧ d ≤ limit := by
  simp only [tareGood, tareLimit, Bool.and_eq_true, decide_eq_true_eq, windowSpread_le_iff, ← windowSum_eq_sumOf]
  by_cases h : w.snapPending = true <;> simp [h] <;> omega

/-- R41, R42: the tare that a good window gives. -/
theorem goodCheck_t16 (w : Weigh) (win : List W16) :
    ((goodCheck (windowSum win) w).t16 : Int) =
      if w.snapPending then sumOf win else w.t16 + Int.tdiv (sumOf win - w.t16) 8 := by
  unfold goodCheck tareStep
  rw [← windowSum_eq_sumOf]
  split
  · rfl
  · refine Int.toNat_of_nonneg ?_
    rcases le_total 0 ((windowSum win : Int) - w.t16) with h | h
    · have := Int.tdiv_nonneg h (by decide : (0 : Int) ≤ 8)
      omega
    · have := Int.neg_tdiv ((windowSum win : Int) - w.t16) 8
      have := Int.tdiv_le_self 8 (by omega : 0 ≤ -((windowSum win : Int) - w.t16))
      omega

/-- R43: the window's judgement as what it leaves of the channel and of ZERO, with the record of a drift. -/
theorem tareWindow_eq (win : List W16) (s : State) :
    (tareGood s.cfg s.wch win = true → tareWindow win s =
      tareJudged (goodCheck (windowSum win) s.wch) (if s.wch.goodRun = 2 then false else s.csq.holds.zero) s) ∧
    (tareGood s.cfg s.wch win = false →
      (s.wch.badRun = 2 → s.csq.holds.zero = false → tareWindow win s =
        askGeneral (zeroDriftRecord s.straps.shf) (tareJudged (badCheck s.wch) true s)) ∧
      (s.wch.badRun ≠ 2 ∨ s.csq.holds.zero = true → tareWindow win s =
        tareJudged (badCheck s.wch) s.csq.holds.zero s)) := by
  unfold tareWindow
  refine ⟨fun h => ?_, fun h => ⟨fun hb hz => ?_, fun hn => ?_⟩⟩
  · rw [if_pos h]
    dsimp only
    split <;> rfl
  · rw [if_neg (by simp [h])]
    dsimp only
    rw [if_pos ⟨hb, hz⟩, raiseHold_eq _ (by decide)]
    rfl
  · rw [if_neg (by simp [h])]
    dsimp only
    rw [if_neg (by rintro ⟨hb, hz⟩; simp [hb, hz] at hn)]
    rfl

/-- Settles O28: the 16th sample of a tare window (R33, R41 to R44). -/
theorem tareCheck : Obligations.TareCheck := by
  intro b first s hr hp ha hf hact hlen w d limit good
  have he := hr.2.eligible_of_tare hact
  have hint : s.wch.tareInterval = none := (hr.2.2.2.2.1 he).mp hact
  have hweigh : s.csq.holds.weigh = false := by
    by_contra h
    exact (hr.2.no_tare_of_weigh (by simpa using h)).1 hact
  let u : State := { s with wch := { s.wch with heldByte := none, gap := some 20, window := w } }
  have hu : sampleJoined (first ++ b) (sampleTaken s) = u := by
    unfold sampleJoined sampleTaken
    rw [if_neg fun h => by simp [hweigh] at h]
  have hx : exec (.weighByteReceived b false false) s = .next (settleStep (tareWindow w u)) := by
    rw [exec_sample b hf, gatherSample_tare_full (s := sampleTaken s) _ hact hlen, hu, running_eq hr.1]
    rfl
  have hgood : tareGood s.cfg u.wch w = true ↔ good := tareGood_iff s.cfg u.wch w
  have hn : NoReadWaits s := ha.noReadWaits
  obtain ⟨wgood, wbad⟩ : (tareGood s.cfg u.wch w = true → tareWindow w u =
        tareJudged (goodCheck (windowSum w) u.wch) (if s.wch.goodRun = 2 then false else s.csq.holds.zero) s) ∧
      (tareGood s.cfg u.wch w = false →
        (s.wch.badRun = 2 → s.csq.holds.zero = false → tareWindow w u =
          askGeneral (zeroDriftRecord s.straps.shf) (tareJudged (badCheck u.wch) true s)) ∧
        (s.wch.badRun ≠ 2 ∨ s.csq.holds.zero = true → tareWindow w u =
          tareJudged (badCheck u.wch) s.csq.holds.zero s)) := tareWindow_eq w u
  have ends {x : Weigh} {zero : Bool} {a : State} (hx1 : x.activity ≠ .tare) (hx2 : x.tareInterval = none)
      (op : JournalOp (tareJudged x zero s) a) (hret : a.csq.retry = s.csq.retry)
      (hh : HeadOp (tareJudged x zero s) a) := tareJudged_ends hr.2 hp hn he hx1 hx2 op hret hh
  by_cases hg : good
  · rw [hx, wgood (hgood.mpr hg)]
    obtain ⟨h1, h2, h3, h4, h5, h6, h7, h8, h9, h10⟩ := ends (x := goodCheck (windowSum w) u.wch)
      (zero := if s.wch.goodRun = 2 then false else s.csq.holds.zero) (by simp [goodCheck]) hint (.refl _) rfl (.refl _)
    refine ⟨_, rfl, h1, by rw [h2]; rfl, h3, h4, ?_, h6, h7,
      fun _ => ⟨?_, by rw [h2]; rfl, by rw [h2]; rfl, by rw [h2]; rfl, h8, h9, h10⟩, fun h => absurd hg h⟩
    · rw [h8]
      rfl
    · rw [h2]
      exact goodCheck_t16 u.wch w
  · obtain ⟨hdrift, hplain⟩ := wbad (Bool.eq_false_iff.mpr fun h => hg (hgood.mp h))
    by_cases hd : s.wch.badRun = 2 ∧ s.csq.holds.zero = false
    · have op := askGeneral_op (zeroDriftRecord s.straps.shf) (tareJudged (badCheck u.wch) true s)
      rw [hx, hdrift hd.1 hd.2]
      obtain ⟨h1, h2, h3, h4, h5, h6, h7, h8, h9, h10⟩ := ends (x := badCheck u.wch) (zero := true)
        (by simp [badCheck]) hint op (askGeneral_retry _ _) (askGeneral_head _ _)
      have hasked := askGeneral_staging (zeroDriftRecord s.straps.shf) (s := tareJudged (badCheck u.wch) true s) hp
        (coalesces_eq_false (by simp [zeroDriftRecord, RecordReq.blank]) _)
      rw [stamped_general _ (by simp [zeroDriftRecord, RecordReq.blank]) rfl] at hasked
      have hj := askGeneral_journal (zeroDriftRecord s.straps.shf) (s := tareJudged (badCheck u.wch) true s) hp hn
      have hz : (settleStep (askGeneral (zeroDriftRecord s.straps.shf) (tareJudged (badCheck u.wch) true s))).csq.holds.zero
          = true := congrArg (·.zero) h5
      refine ⟨_, rfl, h1, by rw [h2]; rfl, h3, h4, ?_, h6, h7, fun h => absurd h hg,
        fun _ => ⟨by rw [h2]; rfl, by rw [h2]; rfl, by rw [h2]; rfl, by rw [h2]; rfl, ?_, fun _ _ => ⟨?_, ?_⟩,
          fun h => ?_⟩⟩
      · rw [hz]
        exact h5
      · rw [hz, if_pos hd.1]
      · rw [RecordAsked, h9]
        exact hasked
      · rw [JournalKept, h9]
        exact hj
      · simp [hd.1, hd.2] at h
    · have hnd : s.wch.badRun ≠ 2 ∨ s.csq.holds.zero = true := by
        simpa [Decidable.imp_iff_not_or] using hd
      rw [hx, hplain hnd]
      obtain ⟨h1, h2, h3, h4, h5, h6, h7, h8, h9, h10⟩ := ends (x := badCheck u.wch) (zero := s.csq.holds.zero)
        (by simp [badCheck]) hint (.refl _) rfl (.refl _)
      have hh : (settleStep (tareJudged (badCheck u.wch) s.csq.holds.zero s)).csq.holds = s.csq.holds := h8
      refine ⟨_, rfl, h1, by rw [h2]; rfl, h3, h4, ?_, h6, h7, fun h => absurd h hg,
        fun _ => ⟨by rw [h2]; rfl, by rw [h2]; rfl, by rw [h2]; rfl, by rw [h2]; rfl, ?_, fun h1 h2 => ?_,
          fun _ => ⟨hh, h9, h10⟩⟩⟩
      · rw [hh]
      · rw [hh]
        split
        · next hb => exact hnd.resolve_left (absurd hb)
        · rfl
      · exact absurd ⟨h1, h2⟩ hd

end Sys2Proof.Machine
end

section
/-! PROOFS. The judgement of a frame at its check byte (CheckByteJudgement) and CLOSE (CloseTaken). -/

namespace Sys2Proof.Machine

/-! ## Bits on the link (R87, R99) -/

/-- The link controller has no part in what is judged at the end of a step. -/
theorem running_link {s : State} (hr : Runs s) (l : Link) :
    running s { s with lkc := l } = .next { s with lkc := l } :=
  running_of_settled hr.1 (hr.2.transfer rfl rfl rfl rfl rfl Iff.rfl rfl)

theorem exec_checkByte {s : State} (hr : Runs s) {got : List Bool} (more : List Bool) (hp : s.lkc.phase = .receiving)
    (hb : s.lkc.reception = .bits got) (hh : s.lkc.holding = false) :
    exec (.checkByte more) s =
      .next { s with lkc := { s.lkc with reception := receptionOf s (got ++ more) } } := by
  have hx : takeBits more s = { s with lkc := { s.lkc with reception := receptionOf s (got ++ more) } } := by
    simp only [takeBits, hp, receiveBits, hb, hh]
  exact (congrArg (running s) hx).trans (running_link hr _)

/-- R99: fewer bits than a header make up no frame. -/
theorem receptionOf_short {bits : List Bool} (s : State) (h : bits.length < 32) : receptionOf s bits = .bits bits := by
  have hn : ∀ (n : Nat) (b : List Bool), b.length < 8 * (n + 1) → (bitsBytes b).length ≤ n := by
    intro n
    induction n with
    | zero =>
      intro b hb
      unfold bitsBytes
      split
      · simp at hb; omega
      · simp
    | succ n ih =>
      intro b hb
      unfold bitsBytes
      split
      · next rest =>
        have := ih rest (by simp at hb; omega)
        simpa using this
      · simp
  have h3 := hn 3 bits (by omega)
  unfold receptionOf lengthAbove32 frameOf
  match hb : bitsBytes bits with
  | [] => rfl
  | [_] => rfl
  | [_, _] => rfl
  | [_, _, _] => rfl
  | _ :: _ :: _ :: _ :: _ =>
    rw [hb] at h3
    simp at h3
    omega

/-- R99: the bits of a whole frame, read. -/
theorem exec_checkByte_frame {s : State} (hr : Runs s) {got more : List Bool} {f : Frame}
    (hp : s.lkc.phase = .receiving) (hb : s.lkc.reception = .bits got) (hh : s.lkc.holding = false)
    (hl : f.payload.length ≤ 255) (hf : got ++ more = Frame.bits f) :
    exec (.checkByte more) s = .next { s with lkc := { s.lkc with reception :=
      (if 32 < f.payload.length then .followed else .judged (judgeFrame s f)) } } := by
  rw [exec_checkByte hr more hp hb hh, hf, receptionOf_frame hl]

/-! ## The judgement of a CLAIM (R98, R122, R186) -/

theorem judgeFrame_claim {f : Frame} (s : State) (hk : f.kind = 0x20) (hd : f.dest = 0) :
    judgeFrame s f = judgeClaim s f := by
  simp [judgeFrame, isClaimFrame, hk, hd]

theorem judgeFrame_other {f : Frame} (s : State) (h : f.kind ≠ 0x20 ∨ f.dest ≠ 0) :
    judgeFrame s f = judgeOther s f := by
  unfold judgeFrame isClaimFrame
  rw [if_neg]
  rw [Bool.and_eq_true, beq_iff_eq, beq_iff_eq]
  exact fun ⟨hk, hd⟩ => h.elim (fun n => n hk) fun n => n hd

theorem sourceValid_iff {b : Byte} : sourceValid b = true ↔ 1 ≤ b.toNat ∧ b.toNat ≤ 15 := by
  simp [sourceValid]

/-- R97: a CLAIM whose check byte is wrong is objected to and no more is known of it. -/
theorem judgeClaim_bad {f : Frame} (s : State) (hg : Frame.crcGood f = false) :
    judgeClaim s f = { frame := f, crcGood := false, claimShaft := none, take := none, driveA := true, driveB := false } := by
  simp [judgeClaim, hg]

/-- R186: a CLAIM with a source or a length of its own is followed by nobody. -/
theorem judgeClaim_unhanded {f : Frame} (s : State) (hg : Frame.crcGood f = true)
    (hn : ¬ (1 ≤ f.source.toNat ∧ f.source.toNat ≤ 15 ∧ f.payload.length = 5)) :
    judgeClaim s f =
      { frame := f, crcGood := true, claimShaft := none, take := none, driveA := false, driveB := false } := by
  have hh : (sourceValid f.source && f.payload.length == 5) = false := by
    rw [← Bool.not_eq_true, Bool.and_eq_true, sourceValid_iff, beq_iff_eq]
    exact fun ⟨⟨h1, h2⟩, h3⟩ => hn ⟨h1, h2, h3⟩
  simp [judgeClaim, hg, hh]

/-- R98, R122: a CLAIM that is handed over, with this station's objections. -/
theorem judgeClaim_handed {f : Frame} (s : State) {shaft b1 b2 b3 b4 : Byte} (hg : Frame.crcGood f = true)
    (h1 : 1 ≤ f.source.toNat) (h15 : f.source.toNat ≤ 15) (hp : f.payload = [shaft, b1, b2, b3, b4]) :
    judgeClaim s f =
      { frame := f, crcGood := true, claimShaft := some shaft, take := none
        driveA := claimBusy s shaft f.source
        driveB := decide ((b1 ++ b2 ++ b3 ++ b4 : W32) ∈ s.nls.entries) } := by
  have hv : sourceValid f.source = true := sourceValid_iff.mpr ⟨h1, h15⟩
  have hw : wordAt32 [shaft, b1, b2, b3, b4] 1 = b1 ++ b2 ++ b3 ++ b4 := append_bytes b1 b2 b3 b4
  simp only [judgeClaim, hg, hv, hp, hw, inNightList]
  simp [byteAt]

theorem shaftOf_eq_some {b : Byte} {i : Fin 4} (h : b.toNat = i.val) : shaftOf b = some i := by
  unfold shaftOf
  rw [dif_pos (by omega)]
  exact congrArg some (Fin.ext h)

theorem shaftOf_eq_none {b : Byte} (h : 3 < b.toNat) : shaftOf b = none := dif_neg (by omega)

/-- R122: the busy objection, rule by rule. -/
theorem claimBusy_iff {s : State} {shaft source : Byte} :
    (3 < shaft.toNat → claimBusy s shaft source = true) ∧ (source = s.ownByte → claimBusy s shaft source = true) ∧
    (∀ i : Fin 4, shaft.toNat = i.val → source ≠ s.ownByte →
      (claimBusy s shaft source = true ↔ s.shc.views.get i = .jammed ∨
        (∃ h, s.shc.views.get i = .held h ∧ h.setWidth 8 ≠ source) ∨ tallyFull s.cfg (s.shc.tallies.get i) = true)) := by
  refine ⟨fun h => ?_, fun h => ?_, fun i h hs => ?_⟩
  · rw [claimBusy, shaftOf_eq_none h]
  · unfold claimBusy
    split
    · rfl
    · simp [h]
  · have hv : viewObjects (s.shc.views.get i) source = true ↔
        s.shc.views.get i = .jammed ∨ ∃ h, s.shc.views.get i = .held h ∧ h.setWidth 8 ≠ source := by
      cases s.shc.views.get i <;> simp [viewObjects]
    rw [claimBusy, shaftOf_eq_some h]
    simp only [Bool.or_eq_true, beq_iff_eq, hs, false_or, hv, or_assoc]

/-! ## The judgement of every other frame (R97, R99, R186, R187) -/

/-- R97, R99: a frame that is not taken is acknowledged by nobody. -/
theorem judgeOther_untaken {f : Frame} {s : State} (h : frameTaken s f = none) :
    judgeOther s f =
      { frame := f, crcGood := Frame.crcGood f, claimShaft := none, take := none, driveA := false, driveB := false } := by
  simp [judgeOther, h]

/-- R99: the conditions on the header of a frame that is taken. -/
abbrev headerTaken (s : State) (f : Frame) : Prop :=
  (f.dest = 0 ∨ f.dest = s.ownByte) ∧ Frame.crcGood f = true ∧ sourceValid f.source = true ∧
    kindTaken f.kind (f.dest == 0) = true ∧ lengthPermitted f.kind f.payload.length = true

theorem frameTaken_of_header {s : State} {f : Frame} {m : RxMsg} (h : headerTaken s f) (hm : rxMsgOf f = some m) :
    frameTaken s f = if ownerAccepts s m then some m else none := by
  obtain ⟨hd, hg, hs, hk, hl⟩ := h
  have hc : ((f.dest == 0 || f.dest == s.ownByte) && Frame.crcGood f && sourceValid f.source &&
      kindTaken f.kind (f.dest == 0) && lengthPermitted f.kind f.payload.length) = true := by
    rw [hg, hs, hk, hl]
    simpa using hd
  unfold frameTaken
  rw [hc, if_pos rfl, hm]

theorem frameTaken_of_not_header {s : State} {f : Frame} (h : ¬ headerTaken s f) : frameTaken s f = none := by
  unfold frameTaken
  rw [if_neg]
  simpa [headerTaken, and_assoc] using h

/-- R97, R99: a frame that is taken, acknowledged by bit A where it is addressed. -/
theorem judgeOther_taken {f : Frame} {s : State} {m : RxMsg} (h : headerTaken s f) (hm : rxMsgOf f = some m)
    (ho : ownerAccepts s m = true) :
    judgeOther s f =
      { frame := f, crcGood := Frame.crcGood f, claimShaft := none, take := some m, driveA := f.dest != 0
        driveB := false } := by
  have ht : frameTaken s f = some m := by rw [frameTaken_of_header h hm]; exact if_pos ho
  simp [judgeOther, ht]

/-- A 32-bit field, byte by byte. -/
theorem wordAt32_bytes (bs : List Byte) (i : Nat) :
    wordAt32 bs i = byteAt bs i ++ byteAt bs (i + 1) ++ byteAt bs (i + 2) ++ byteAt bs (i + 3) :=
  append_bytes _ _ _ _

/-- R128: the shaft of a RELEASE is the low four bits of its byte. -/
theorem low_bits (b : Byte) : b.extractLsb' 0 4 = b.setWidth 4 := by
  apply BitVec.eq_of_toNat_eq
  simp

/-- R99: what of a frame to all stations is taken, and that nobody answers it. -/
theorem judgeFrame_toAll {f : Frame} {s : State} {m : RxMsg} (hg : Frame.crcGood f = true)
    (hs : sourceValid f.source = true) (hd : f.dest = 0) (hk : kindTaken f.kind true = true)
    (hl : lengthPermitted f.kind f.payload.length = true) (hm : rxMsgOf f = some m) (ho : ownerAccepts s m = true) :
    judgeFrame s f =
      { frame := f, crcGood := Frame.crcGood f, claimShaft := none, take := some m, driveA := false, driveB := false } := by
  have hn : f.kind ≠ 0x20 := by rintro h; rw [h] at hk; cases hk
  rw [judgeFrame_other s (.inl hn), judgeOther_taken ⟨.inl hd, hg, hs, by rw [hd]; exact hk, hl⟩ hm ho, hd]
  rfl

/-- R99: what of a frame to this station is taken, acknowledged by bit A. -/
theorem judgeFrame_addressed {f : Frame} {s : State} {m : RxMsg} (hg : Frame.crcGood f = true)
    (hs : sourceValid f.source = true) (hz : f.dest ≠ 0) (hd : f.dest = s.ownByte) (hk : kindTaken f.kind false = true)
    (hl : lengthPermitted f.kind f.payload.length = true) (hm : rxMsgOf f = some m) (ho : ownerAccepts s m = true) :
    judgeFrame s f =
      { frame := f, crcGood := Frame.crcGood f, claimShaft := none, take := some m, driveA := true, driveB := false } := by
  have hb : (f.dest == 0) = false := beq_eq_false_iff_ne.mpr hz
  rw [judgeFrame_other s (.inr hz), judgeOther_taken ⟨.inr hd, hg, hs, by rw [hb]; exact hk, hl⟩ hm ho, bne, hb]
  rfl

/-- R97, R99, R186: what is neither for this station nor whole, or of no kind or length of its own, is not taken. -/
theorem judgeFrame_untaken {f : Frame} {s : State} (hc : f.kind ≠ 0x20 ∨ f.dest ≠ 0)
    (h : (f.dest ≠ 0 ∧ f.dest ≠ s.ownByte) ∨ Frame.crcGood f = false ∨ f.source.toNat = 0 ∨ 15 < f.source.toNat ∨
      kindTaken f.kind (f.dest == 0) = false ∨ lengthPermitted f.kind f.payload.length = false) :
    judgeFrame s f =
      { frame := f, crcGood := Frame.crcGood f, claimShaft := none, take := none, driveA := false, driveB := false } := by
  refine (judgeFrame_other s hc).trans (judgeOther_untaken (frameTaken_of_not_header ?_))
  rintro ⟨hd, hg, hs, hk, hl⟩
  obtain ⟨h1, h15⟩ := sourceValid_iff.mp hs
  rcases h with ⟨h0, ho⟩ | h | h | h | h | h
  · exact hd.elim h0 ho
  · simp [hg] at h
  · omega
  · omega
  · exact Bool.false_ne_true (h.symm.trans hk)
  · exact Bool.false_ne_true (h.symm.trans hl)

/-- R97, R170: a CONFIG_WRITE that its owner does not accept is not taken. -/
theorem judgeFrame_refused {f : Frame} {s : State} {m : RxMsg} (hc : f.kind ≠ 0x20) (hm : rxMsgOf f = some m)
    (ho : ownerAccepts s m = false) :
    judgeFrame s f =
      { frame := f, crcGood := Frame.crcGood f, claimShaft := none, take := none, driveA := false, driveB := false } := by
  refine (judgeFrame_other s (.inl hc)).trans (judgeOther_untaken ?_)
  by_cases h : headerTaken s f
  · rw [frameTaken_of_header h hm, ho]
    rfl
  · exact frameTaken_of_not_header h

/-- R170: what a CONFIG_WRITE's owner asks of it. -/
theorem ownerAccepts_configWrite (s : State) (offset : Byte) (data : List Byte) :
    ownerAccepts s (.configWrite offset data) = true ↔
      s.straps.srv = true ∧ (s.csq.state = .idle ∨ s.csq.state = .held) ∧ offset.toNat ≤ 73 := by
  simp [ownerAccepts, and_assoc]

/-- Settles O45: the judgement of a frame at its check byte (R97 to R99, R122, R170, R186, R187). -/
theorem checkByteJudgement : Obligations.CheckByteJudgement := by
  intro f got more s hr hp hb hh
  refine ⟨fun h => by rw [exec_checkByte hr more hp hb hh, receptionOf_short s h], fun hl hf => ?_⟩
  have hx := exec_checkByte_frame hr hp hb hh hl hf
  intro judged good nobody taken answered
  have hj {j : Judged} (h32 : f.payload.length ≤ 32) (e : judgeFrame s f = j) : judged j := by
    show exec (.checkByte more) s = _
    rw [hx, if_neg (by omega), e]
  refine ⟨fun h32 => by rw [hx, if_pos h32], fun h32 => ⟨fun hk hd => ⟨fun hg => ?_, fun hg hn => ?_, ?_⟩, fun hc =>
    ⟨fun h => hj h32 (judgeFrame_untaken hc ?_), fun hg h1 h15 => ⟨fun hd => ?_, fun hz hd => ?_⟩⟩⟩⟩
  · refine hj h32 ?_
    rw [judgeFrame_claim s hk hd, judgeClaim_bad s hg]
    simp [nobody, hg]
  · refine hj h32 ?_
    rw [judgeFrame_claim s hk hd, judgeClaim_unhanded s hg hn]
    simp [nobody, hg]
  · intro shaft b1 b2 b3 b4 hg h1 h15 hpay
    refine ⟨claimBusy s shaft f.source, hj h32 ?_, claimBusy_iff⟩
    rw [judgeFrame_claim s hk hd, judgeClaim_handed s hg h1 h15 hpay]
    simp [nobody, hg]
  · simpa [or_assoc, and_assoc] using h
  · have hs := sourceValid_iff.mpr ⟨h1, h15⟩
    have row {m : RxMsg} (hk : kindTaken f.kind true = true) (hlen : lengthPermitted f.kind f.payload.length = true)
        (hm : rxMsgOf f = some m) (ho : ownerAccepts s m = true) : taken m :=
      hj h32 (judgeFrame_toAll hg hs hd hk hlen hm ho)
    refine ⟨fun shaft hk hp => ?_, fun shaft b1 b2 b3 b4 b5 b6 b7 b8 b9 b10 b11 b12 hk hp => ?_, fun b0 hk hp => ?_,
      fun b0 b1 b2 b3 b4 b5 b6 hk hp => ?_, fun b0 b1 hk hp => ?_, fun target index hk hp => ?_⟩ <;>
      refine row (by rw [hk]; rfl) (by rw [hk, hp]; rfl) ?_ rfl
    · simp [rxMsgOf, hk, hp, byteAt]
    · simp [rxMsgOf, hk, hp, byteAt, wordAt32_bytes, wordAt16]
    · simp [rxMsgOf, hk, hp, byteAt, low_bits]
    · simp [rxMsgOf, hk, hp, byteAt, wordAt32_bytes, wordAt16]
    · simp [rxMsgOf, hk, hp, byteAt, wordAt16]
    · simp [rxMsgOf, hk, hp, byteAt]
  · have hs := sourceValid_iff.mpr ⟨h1, h15⟩
    have row {m : RxMsg} (hk : kindTaken f.kind false = true) (hlen : lengthPermitted f.kind f.payload.length = true)
        (hm : rxMsgOf f = some m) (ho : ownerAccepts s m = true) : answered m :=
      hj h32 (judgeFrame_addressed hg hs hz hd hk hlen hm ho)
    refine ⟨fun arg hk hp => ?_, fun b0 b1 b2 b3 hk hp => ?_, fun b0 b1 b2 b3 count hk hp => ?_, fun hk hp => ?_,
      fun offset d data hk hp hl => ?_⟩
    · exact row (by rw [hk]; rfl) (by rw [hk, hp]; rfl) (by simp [rxMsgOf, hk, hp, byteAt]) rfl
    · exact row (by rw [hk]; rfl) (by rw [hk, hp]; rfl)
        (by simp [rxMsgOf, hk, hp, byteAt, wordAt32_bytes]) rfl
    · exact row (by rw [hk]; rfl) (by rw [hk, hp]; rfl)
        (by simp [rxMsgOf, hk, hp, byteAt, wordAt32_bytes]) rfl
    · exact row (by rw [hk]; rfl) (by rw [hk, hp]; rfl) (by simp [rxMsgOf, hk]) rfl
    · have hm : rxMsgOf f = some (.configWrite offset (d :: data)) := by simp [rxMsgOf, hk, hp, byteAt]
      have hacc := ownerAccepts_configWrite s offset (d :: data)
      refine ⟨fun hsrv hst ho => row (by rw [hk]; rfl) ?_ hm (hacc.mpr ⟨hsrv, hst, ho⟩), fun hn =>
        hj h32 (judgeFrame_refused (by rw [hk]; decide) hm (Bool.eq_false_iff.mpr fun h => ?_))⟩
      · have h2 : 2 ≤ f.payload.length := by rw [hp]; simp
        simp [lengthPermitted, hk, h2, hl]
      · obtain ⟨h1, h2, h3⟩ := hacc.mp h
        rcases hn with hn | ⟨hi, hh⟩ | hn
        · simp [h1] at hn
        · exact h2.elim hi hh
        · omega

/-! ## CLOSE (R59, R60, R62, R143) -/

/-- R60: no frame of this part is a CLOSE. -/
theorem kindCode_ne_close (c : TxFrame) : c.kindCode ≠ 0x38 := by
  cases c <;> simp [TxFrame.kindCode]

theorem exec_closeTaken {s : State} {night : W16} {rest : List RxMsg} (h : s.lkc.rx = .close night :: rest) :
    exec .closeTaken s = running s (takeClose night (takeRx s)) := by
  simp only [exec, execCloseTaken, h, List.head?_cons]

theorem closePlace_iff (s : State) :
    closePlace s = true ↔ s.jnc.staging.length < 7 ∧ s.jnc.seqCounter ≠ 0xFFFFFFFF := by
  simp [closePlace, seqMax]

/-- R59: the close actions and the end of the step. -/
theorem closeActions_taken {s : State} (night : W16) (detail : Byte) (nck : NightClock) (hp : s.phase = .service)
    (hs : Settled s) (hn : NoReadWaits s) :
    let u : State := { s with nls := { entries := [], night := night, closeSinceStart := true }, nck := nck }
    RecordTaken (plainRecord u 7 detail) u (settleStep (closeActions night detail nck s)) := by
  intro u
  have k := askGeneral_taken (u := u) (req := closeRecord detail s.straps.shf) hp
    (by simp [closeRecord, RecordReq.blank]) hn hs.hatchShut (hs.tareRight.congr rfl rfl rfl rfl rfl)
  rwa [stamped_general _ (by simp [closeRecord, RecordReq.blank]) rfl] at k

/-- Settles O54: CLOSE at its check byte, and taken (R59, R60, R62, R143). -/
theorem closeTaken : Obligations.CloseTaken := by
  refine ⟨fun b0 b1 f got more s hr hp hb hh hf hk hd hpay hg h1 h15 => ?_, kindCode_ne_close,
    fun night rest s hr hp ha hrx => ⟨fun h => ?_, fun hlt h7 hm => ?_⟩⟩
  · rw [exec_checkByte_frame hr hp hb hh (by simp [hpay]) hf, if_neg (by simp [hpay]),
      judgeFrame_toAll (m := .close (b0 ++ b1)) hg (sourceValid_iff.mpr ⟨h1, h15⟩) hd (by rw [hk]; rfl)
        (by rw [hk, hpay]; rfl) (by simp [rxMsgOf, hk, hpay, byteAt, wordAt16]) rfl, hg]
  · have hx : takeClose night (takeRx s) = takeRx s := by
      refine if_neg fun ⟨hlt, hc⟩ => ?_
      obtain ⟨h7, hm⟩ := (closePlace_iff _).mp hc
      rcases h with h | h | h
      · exact absurd hlt (by simpa using h)
      · exact absurd h7 (by simpa using h)
      · exact hm h
    rw [exec_closeTaken hrx, hx, running_takeRx hr hrx]
  · have hx : takeClose night (takeRx s) = closeActions night 1 { s.nck with clock := 0 } (takeRx s) :=
      if_pos ⟨hlt, (closePlace_iff _).mpr ⟨h7, hm⟩⟩
    have k := closeActions_taken (s := takeRx s) night 1 { s.nck with clock := 0 } hp
      (hr.2.transfer rfl rfl rfl rfl rfl Iff.rfl rfl) ha.noReadWaits
    rw [exec_closeTaken hrx, hx, running_eq hr.1]
    refine ⟨_, rfl, ?_⟩
    generalize settleStep _ = t at k ⊢
    have hnls : t.nls = { entries := [], night := night, closeSinceStart := true } := congrArg (·.nls) k.frame
    have hnck : t.nck = { s.nck with clock := 0 } := congrArg (·.nck) k.frame
    refine ⟨hnls, hnck, k.asked.trans (if_pos ⟨h7, hm⟩), ?_, ?_, k.csq, k.holds, k.state, k.journal⟩
    · rw [hnls, hnck]
      exact k.frame
    · have hl := k.link
      rwa [takeRx_eq hrx] at hl

end Sys2Proof.Machine
end

section
/-! PROOFS. Views that lapse (ViewLapses), the clock's timers (ClockTimers), STATE frames (ReadStateTaken) and the phases of
the link (LinkPhases). -/

namespace Sys2Proof.Machine

/-! ## The own claim after a change of the views or the tallies (R116, R117) -/

theorem deferClaim_frame (s : State) :
    deferClaim s = { s with
      shc := (deferClaim s).shc, lkc := { s.lkc with queue := (deferClaim s).lkc.queue } } := by
  unfold deferClaim withdrawClaim
  split <;> rfl

/-- R116, R117: the own claim that follows a change changes no more than the coordinator and the transmit queue. -/
theorem watchClaim_frame (before s : State) :
    watchClaim before s = { s with
      shc := (watchClaim before s).shc, lkc := { s.lkc with queue := (watchClaim before s).lkc.queue } } := by
  unfold watchClaim
  split
  · split
    · exact deferClaim_frame s
    · rfl
  · split <;> rfl
  · split <;> rfl
  · rfl
  · rfl

/-- R116, R117: what is judged at the end of a step has nothing to do with the own claim. -/
theorem Settled.watchClaim {before s : State} (h : Settled s) : Settled (watchClaim before s) := by
  rw [watchClaim_frame]
  exact h.transfer rfl rfl rfl rfl rfl Iff.rfl rfl

/-- R113: the views, the hold ages and the tallies are as the change left them. -/
theorem watchClaim_shafts (before s : State) :
    (watchClaim before s).shc.views = s.shc.views ∧ (watchClaim before s).shc.holdAge = s.shc.holdAge ∧
    (watchClaim before s).shc.tallies = s.shc.tallies :=
  ⟨(watchClaim_op before s).views, (watchClaim_op before s).holdAge, (watchClaim_op before s).tallies⟩

/-! ## A view that lapses (R113) -/

theorem exec_lapse {s : State} {i : Fin 4} {h : BitVec 4} (hv : s.shc.views.get i = .held h) (hh : h ≠ s.straps.adr)
    (ha : s.shc.holdAge.get i ≠ none) : exec (.lapse i) s = running s (lapseView i s) := by
  refine congrArg (running s) (if_pos ⟨?_, ha⟩)
  rw [hv]
  simpa [heldByOther] using hh

/-- Settles O42: a view that lapses, and the own claim after it (R113, R116, R117). -/
theorem viewLapses : Obligations.ViewLapses := by
  intro i h s hr hv hh ha
  have hset : Settled (setView i .free none s) := hr.2.transfer rfl rfl rfl rfl rfl Iff.rfl rfl
  obtain ⟨hviews, hage, htallies⟩ := watchClaim_shafts s (setView i .free none s)
  refine ⟨lapseView i s, (exec_lapse hv hh ha).trans (running_of_settled hr.1 hset.watchClaim),
    watchClaim_frame s (setView i .free none s), ?_, ?_, fun k hk => ?_, htallies, watchClaim_follows rfl rfl rfl rfl⟩
  · rw [lapseView, hviews]
    exact Four.get_set_same ..
  · rw [lapseView, hage]
    exact Four.get_set_same ..
  · rw [lapseView, hviews, hage]
    exact ⟨Four.get_set_ne _ _ hk, Four.get_set_ne _ _ hk⟩

/-! ## Frames that are queued while nothing else happens (R104, R105) -/

/-- R104, R105: the queuing of a frame that is no CLAIM and less urgent than one changes only the link, the claim and the
free values. -/
theorem queueFrame_quiet {c : TxFrame} (s : State) (hc : c.isClaim = false) (hk : 0x20 ≤ c.kindCode.toNat) :
    queueFrame c s = { s with
      lkc := (queueFrame c s).lkc, shc := (queueFrame c s).shc, draws := (queueFrame c s).draws } := by
  conv_lhs => rw [(queueFrame_op c s).frame]
  rw [queueFrame_csq s hc hk]

/-- R104: the work of the transmit queue changes nothing of what is judged at the end of a step. -/
theorem QueueOp.settled {s t : State} (op : QueueOp s t) (h : Settled s) : Settled t :=
  h.transfer (congrArg (·.state) op.csq) (congrArg (·.holds.isEmpty) op.csq) (congrArg (·.holds.weigh) op.csq)
    (congrArg (·.hatch) op.csq) (by rw [op.rct]) (by rw [op.wch]) (by rw [op.wch])

theorem Settled.queueFrame {c : TxFrame} {s : State} (h : Settled s) : Settled (queueFrame c s) :=
  (queueFrame_op c s).settled h

/-- R90: a frame that joins the queue is started in FREE, which reads one free value. -/
theorem queueFrame_draws {c : TxFrame} {s : State} (hl : LinkRight s) (hc : c.isClaim = false) :
    (queueFrame c s).draws = if s.lkc.phase = .free then s.draws + 1 else s.draws := by
  have hstart (u : State) (hq : u.lkc.queue ≠ []) : (startIfFree u).draws =
      if u.lkc.phase = .free then u.draws + 1 else u.draws := by
    obtain ⟨e, he, -⟩ := txHead_spec _ hq
    unfold startIfFree
    split
    · exact (startFrame_started he).2.2
    · rfl
  unfold Machine.queueFrame refuseQueue
  simp only [hc, Bool.false_and, Bool.false_eq_true, if_false]
  split
  · exact hstart _ (by simp [Link.push])
  · next h8 =>
    have hp : s.lkc.phase ≠ .free := fun hp => by simp [hl.2.2.2 hp] at h8
    rw [if_neg hp]
    split
    · rfl
    · split
      · next e _ _ =>
        have hr (u : State) (hu : u.lkc.phase ≠ .free) :
            (startIfFree { u with lkc := u.lkc.push c }).draws = u.draws :=
          (hstart _ (by simp [Link.push])).trans (if_neg hu)
        unfold replaceEntry joinQueue
        dsimp only
        split
        · rw [hr _ (by rw [claimRefusedAtQueue_lkc]; exact hp), claimRefusedAtQueue]
          dsimp only
          split <;> rfl
        · exact hr _ hp
      · rfl

/-- R105, R118: a frame less urgent than a CLAIM leaves the own claim as it is. -/
theorem queueFrame_shc {c : TxFrame} {s : State} (hl : LinkRight s) (ha : AgesRight s) (hc : c.isClaim = false)
    (hk : 0x20 ≤ c.kindCode.toNat) : (queueFrame c s).shc = s.shc := by
  have op := queueFrame_op c s
  have as : ClaimAs s.shc (queueFrame c s) := by
    obtain ⟨hroom, hfull⟩ := queueFrame_claim hl ha hc
    rcases Nat.lt_or_ge s.lkc.queue.length 8 with h8 | h8
    · exact hroom h8
    · have h8 : s.lkc.queue.length = 8 := le_antisymm hl.2.1 h8
      obtain ⟨e, -, he⟩ := txCandidate_leastUrgent ha h8
      refine (hfull e h8 he).2 ?_
      cases hx : e.content with
      | claim shaft serial => exact .inr hk
      | _ => exact .inl rfl
  rw [ClaimAs, op.views, op.holdAge, op.tallies] at as
  exact as

/-- R104, R105: the end of a step in which such a frame has been queued. -/
theorem running_queueFrame {s u : State} {c : TxFrame} (hp : s.phase ≠ .inReset) (hu : Settled u) (hl : LinkRight u)
    (ha : AgesRight u) (hc : c.isClaim = false) (hk : 0x20 ≤ c.kindCode.toNat) :
    running s (queueFrame c u) = .next (queueFrame c u) ∧ queueFrame c u = { u with
      lkc := (queueFrame c u).lkc, draws := if u.lkc.phase = .free then u.draws + 1 else u.draws } := by
  refine ⟨running_of_settled hp hu.queueFrame, ?_⟩
  have hq := queueFrame_quiet u hc hk
  rwa [queueFrame_shc hl ha hc hk, queueFrame_draws hl hc] at hq

/-! ## The clock's timers (R136 to R139) -/

/-- Settles O43: a millisecond of the clock, and the sync timer (R136 to R138). -/
theorem clockTimers : Obligations.ClockTimers := by
  have hset {s : State} (hr : Runs s) (n : NightClock) : Settled { s with nck := n } :=
    hr.2.transfer rfl rfl rfl rfl rfl Iff.rfl rfl
  refine ⟨fun s hr => ⟨_, running_of_settled hr.1 (hset hr _), rfl, by simp⟩, fun s hr hl ha ht =>
    ⟨fun hq => ?_, fun hq => ?_⟩⟩
  all_goals
    have hx : exec .syncTimerExpiry s = running s (queueSync (restartSync s)) := congrArg (running s) (if_neg ht)
    rw [hx]
  · have hq : queueSync (restartSync s) = restartSync s := if_pos hq
    rw [hq]
    exact running_of_settled hr.1 (hset hr _)
  · have hq : queueSync (restartSync s) = queueFrame (.sync s.nck.clock s.nls.night s.nck.synced) (restartSync s) :=
      if_neg (by rw [show (restartSync s).lkc = s.lkc from rfl, hq]; exact Bool.false_ne_true)
    obtain ⟨hrun, hframe⟩ := running_queueFrame (c := .sync s.nck.clock s.nls.night s.nck.synced) hr.1
      (hset hr (restartSync s).nck) hl ha rfl (by simp [TxFrame.kindCode])
    rw [hq]
    exact ⟨_, hrun, hframe, queueFrame_queued (s := restartSync s) hl ha (fun h => nomatch h) rfl⟩

/-! ## READ_STATE (R172, Table 11-5) -/

theorem exec_readState {s : State} {source : Byte} {rest : List RxMsg} (h : s.lkc.rx = .readState source :: rest) :
    exec .readState s = running s (queueFrame (.stateReport source (statePayload (takeRx s))) (takeRx s)) := by
  simp only [exec, execReadState, h, List.head?_cons]

theorem linkRight_takeRx {s : State} (h : LinkRight s) : LinkRight (takeRx s) := by
  obtain ⟨hr, h8, h1, hf⟩ := h
  exact ⟨by simp [takeRx]; omega, h8, h1, hf⟩

theorem agesRight_takeRx {s : State} (h : AgesRight s) : AgesRight (takeRx s) := h

/-- A bit field from its bits, bit by bit. -/
theorem getLsbD_bitsOf {w k : Nat} (h : k < w) (bs : List Bool) : (bitsOf w bs).getLsbD k = bs.getD k false := by
  induction bs generalizing k with
  | nil => simp [bitsOf]
  | cons b bs ih =>
    cases k with
    | zero => cases b <;> simp [bitsOf, h]
    | succ k =>
      have hk := ih (by omega : k < w)
      rw [BitVec.getLsbD_eq_getElem (by omega), List.getD_eq_getElem?_getD] at hk
      cases b <;> simp [bitsOf, h, hk]

/-- A field of two bytes, read as it was sent. -/
theorem be16_word (w : W16) : (w.extractLsb' 8 8 ++ w.extractLsb' 0 8 : W16) = w :=
  (BitVec.extractLsb'_append_extractLsb'_eq_extractLsb' rfl).trans BitVec.extractLsb'_eq_self

/-- A field of four bytes, read as it was sent. -/
theorem be32_word (w : W32) :
    ((w.extractLsb' 24 8 ++ w.extractLsb' 16 8) ++ (w.extractLsb' 8 8 ++ w.extractLsb' 0 8) : W32) = w := by
  have high : (w.extractLsb' 24 8 ++ w.extractLsb' 16 8 : W16) = w.extractLsb' 16 16 :=
    BitVec.extractLsb'_append_extractLsb'_eq_extractLsb' rfl
  have low : (w.extractLsb' 8 8 ++ w.extractLsb' 0 8 : W16) = w.extractLsb' 0 16 :=
    BitVec.extractLsb'_append_extractLsb'_eq_extractLsb' rfl
  refine (congrArg₂ (fun a b : W16 => (a ++ b : W32)) high low).trans ?_
  exact (BitVec.extractLsb'_append_extractLsb'_eq_extractLsb' rfl).trans BitVec.extractLsb'_eq_self

/-- The two bytes of a 16-bit field and the four of a 32-bit one, most significant first, put before others. -/
def bytes16 (w : W16) (rest : List Byte) : List Byte := w.extractLsb' 8 8 :: w.extractLsb' 0 8 :: rest

def bytes32 (w : W32) (rest : List Byte) : List Byte :=
  w.extractLsb' 24 8 :: w.extractLsb' 16 8 :: w.extractLsb' 8 8 :: w.extractLsb' 0 8 :: rest

/-- Table 11-5: the payload one field after another. -/
theorem statePayload_fields (s : State) : statePayload s =
    stateByte s :: bytes16 s.csq.holds.toBits (bytes16 s.nls.night (bytes32 s.nck.clock (bytes32 s.jnc.newest
      (bytes32 s.jnc.auditMark (BitVec.ofNat 8 (freeSlots s.flash s.jnc.writePtr) ::
        BitVec.ofNat 8 s.jnc.staging.length :: bytes16 (BitVec.ofNat 16 s.nls.entries.length)
          (bytes16 (BitVec.ofNat 16 (ownTally s).count) (bytes32 (BitVec.ofNat 32 (ownTally s).mass)
            [s.shc.views.x0.code, s.shc.views.x1.code, s.shc.views.x2.code, s.shc.views.x3.code,
              BitVec.ofNat 8 s.lkc.dropCount]))))))) := rfl

/-- Settles O58: a STATE frame with the contents of the moment (R172, Table 11-5). -/
theorem readStateTaken : Obligations.ReadStateTaken := by
  intro source rest s hr hl ha hrx
  have hset : Settled (takeRx s) := hr.2.transfer rfl rfl rfl rfl rfl Iff.rfl rfl
  obtain ⟨hrun, hframe⟩ := running_queueFrame (c := .stateReport source (statePayload (takeRx s))) hr.1 hset
    (linkRight_takeRx hl) (agesRight_takeRx ha) rfl (by simp [TxFrame.kindCode])
  have hq := queueFrame_queued (c := .stateReport source (statePayload (takeRx s))) (linkRight_takeRx hl)
    (agesRight_takeRx ha) (fun h => nomatch h) rfl
  have hl : (takeRx s).lkc = { s.lkc with rx := rest, holding := false } := congrArg (·.lkc) (takeRx_eq hrx)
  rw [hl] at hq
  rw [exec_readState hrx, hrun]
  refine ⟨_, statePayload (takeRx s), rfl, hframe, hq, ?_⟩
  rw [statePayload_fields]
  refine ⟨rfl, rfl, fun k => ?_, be16_word s.nls.night, be32_word s.nck.clock, be32_word s.jnc.newest,
    be32_word s.jnc.auditMark, rfl, rfl, be16_word (BitVec.ofNat 16 s.nls.entries.length),
    be16_word (BitVec.ofNat 16 (ownTally s).count), be32_word (BitVec.ofNat 32 (ownTally s).mass), fun i => ?_, rfl⟩
  · exact (congrArg (·.getLsbD k.val) (be16_word s.csq.holds.toBits)).trans (getLsbD_bitsOf k.isLt _)
  · fin_cases i <;> dsimp [bytes16, bytes32] <;> congr 1

/-! ## The phases of the link (R89, R90, R100, R103, R109) -/

/-- R89: link free, where no loss waits to be judged. -/
theorem linkBecomesFree_of_not_lost {s : State} (h : s.shc.lost = false) :
    linkBecomesFree s = startFrame { s with lkc := { s.lkc with phase := .free, settleTime := 10 } } := by
  unfold linkBecomesFree startIfFree
  rw [judgeLost_of_not_lost h]
  exact if_pos rfl

/-- R90, R118: the start of a frame touches the link, the claim's phase and one free value. -/
theorem startFrame_frame (s : State) : startFrame s = { s with
    lkc := (startFrame s).lkc, shc := { s.shc with phase := (startFrame s).shc.phase }
    draws := (startFrame s).draws } := by
  unfold startFrame sendStart State.draw
  split
  · rfl
  · split
    · rfl
    · dsimp only
      split <;> rfl

/-- R89, R90, R118: in FREE the first frame in transmit order is started, if one is queued. -/
theorem startFrame_freed (s : State) :
    LinkFreed s.lkc.queue s.shc.phase s (startFrame { s with lkc := { s.lkc with phase := .free, settleTime := 10 } }) := by
  generalize hu : ({ s with lkc := { s.lkc with phase := .free, settleTime := 10 } } : State) = u
  have hqu : u.lkc.queue = s.lkc.queue := by rw [← hu]
  refine ⟨fun hq => ?_, fun hq => ?_⟩
  · have hs : startFrame u = u := by rw [startFrame, hqu, hq]; rfl
    rw [hs, ← hu]
    exact ⟨by rw [← hq], rfl, rfl⟩
  · obtain ⟨e, he, hfirst⟩ := txHead_spec s.lkc.queue hq
    obtain ⟨hstart, hshc, hdraws⟩ := startFrame_started (hqu ▸ he : txHead u.lkc.queue = some e)
    subst hu
    exact ⟨e, hfirst, hstart, congrArg Shafts.phase hshc, hdraws⟩

theorem exec_linkFree {s : State} (hp : s.lkc.phase = .settling) (hh : s.lkc.holding = false) :
    exec .linkFree s = running s (linkBecomesFree s) := congrArg (running s) (if_pos ⟨hp, hh⟩)

/-- R89: a start mark in SETTLING, FREE or RECEIVING. -/
theorem exec_startMark_received {s : State} (hr : Runs s)
    (hp : s.lkc.phase = .settling ∨ s.lkc.phase = .free ∨ s.lkc.phase = .receiving) (hh : s.lkc.holding = false)
    (hl : s.shc.lost = false) :
    exec .startMark s =
      .next { s with lkc := { s.lkc with phase := .receiving, settleTime := 0, reception := .bits [] } } := by
  have hx : foreignStartMark s = toReceiving (.bits []) s := by
    unfold foreignStartMark
    rcases hp with h | h | h <;> rw [h, judgeLost_of_not_lost hl]
  have he : exec .startMark s = running s (foreignStartMark s) :=
    congrArg (running s) (if_neg (by rw [hh]; exact Bool.false_ne_true))
  rw [he, hx]
  exact running_link hr _

/-! ### The holding of the clock (R103) -/

/-- R103: the bytes of a frame that is to be taken as far as they go. -/
theorem holdPoint_of {s : State} {kind source dest : Byte} {tail : List Byte} (h1 : 1 ≤ source.toNat)
    (h15 : source.toNat ≤ 15)
    (hk : dest = 0 ∧ (kind = 0x10 ∨ kind = 0x14 ∨ kind = 0x18 ∨ kind = 0x30 ∨ kind = 0x38 ∨ kind = 0x3C) ∨
      dest ≠ 0 ∧ dest = s.ownByte ∧ (kind = 0x48 ∨ kind = 0x4C ∨ kind = 0x50 ∨ kind = 0x54 ∨ kind = 0x58))
    (ht : tail = [] ∨ ∃ n payload, tail = n :: payload ∧ n.toNat ≤ 32 ∧ payload.length ≤ n.toNat) :
    holdPoint s kind source dest tail = true := by
  have hs : sourceValid source = true := sourceValid_iff.mpr ⟨h1, h15⟩
  have hd : (dest == 0 || dest == s.ownByte) = true := by
    rcases hk with ⟨h, -⟩ | ⟨-, h, -⟩ <;> simp [h]
  have hkind : kindTaken kind (dest == 0) = true := by
    rcases hk with ⟨h, hk⟩ | ⟨h, -, hk⟩
    · rw [h]
      rcases hk with h | h | h | h | h | h <;> rw [h] <;> rfl
    · rw [beq_eq_false_iff_ne.mpr h]
      rcases hk with h | h | h | h | h <;> rw [h] <;> rfl
  have hn (n : Option Byte) (h : ∀ m, n = some m → m.toNat ≤ 32) : toBeTaken s kind source dest n = true := by
    unfold toBeTaken
    rw [hd, hs, hkind]
    cases n with
    | none => rfl
    | some m => exact decide_eq_true (h m rfl)
  rcases ht with rfl | ⟨n, payload, rfl, hm, hl⟩
  · exact hn none (fun _ h => nomatch h)
  · exact Bool.and_eq_true_iff.mpr ⟨hn (some n) (fun _ h => Option.some.inj h ▸ hm), decide_eq_true hl⟩

/-- R103: a CLAIM, and a frame of another station, is not to be taken. -/
theorem holdPoint_of_not {s : State} {kind source dest : Byte} {tail : List Byte}
    (h : kind = 0x20 ∨ (dest ≠ 0 ∧ dest ≠ s.ownByte)) : holdPoint s kind source dest tail = false := by
  have hn (n : Option Byte) : toBeTaken s kind source dest n = false := by
    unfold toBeTaken
    rcases h with rfl | ⟨h0, ho⟩
    · have hk : kindTaken 0x20 (dest == 0) = false := by cases (dest == 0) <;> rfl
      rw [hk, Bool.and_false, Bool.false_and]
    · rw [beq_eq_false_iff_ne.mpr h0, beq_eq_false_iff_ne.mpr ho]
      rfl
  cases tail with
  | nil => exact hn none
  | cons n payload => exact Bool.and_eq_false_imp.mpr fun h => absurd (h.symm.trans (hn _)) Bool.noConfusion

theorem exec_holdTheClock {s : State} (kind source dest : Byte) (tail : List Byte) :
    exec (.holdTheClock kind source dest tail) s = running s (holdIfFull kind source dest tail s) := rfl

/-- Settles O44: the phases of the link, and the holding of the clock (R89, R90, R92, R100, R103, R109, R118, R139). -/
theorem linkPhases : Obligations.LinkPhases := by
  refine ⟨fun s hr => ⟨fun hp => ?_, fun hp hh hq hl => ?_, fun hp hh hl => exec_startMark_received hr hp hh hl,
    fun hp => ?_, fun hp hh => ?_, fun j hp hj => ?_, fun kind source dest tail hp => ?_⟩, fun s hr hp hh hq hl => ?_⟩
  · exact (congrArg (running s) (if_pos hp)).trans (running_link hr _)
  · rw [exec_linkFree hp hh, linkBecomesFree_of_not_lost hl, startFrame]
    simp only [hq, txHead]
    rw [← hq]
    exact running_link hr _
  · have hx : exec .startMark s = running s s := by
      show running s (if s.lkc.holding then s else foreignStartMark s) = _
      rw [foreignStartMark, hp]
      simp
    rw [hx, running_self hr]
  · exact (congrArg (running s) (if_pos ⟨hp, hh⟩)).trans (running_link hr _)
  · have hx : exec .overlongFrame s = running s { s with lkc := { s.lkc with reception := .followed } } := by
      simp only [exec, execOverlongFrame, hp, hj]
    rw [hx]
    exact running_link hr _
  · intro read
    refine ⟨fun got hb hpre h4 hh h1 h15 hk ht => ?_, fun j hj ht h4 hh hw => ?_, fun got hb hn => ?_⟩
    · have hx : holdIfFull kind source dest tail s = holdClock (.bits read) s := by
        unfold holdIfFull
        rw [if_pos ⟨hp, h4, hh⟩]
        simp only [hb]
        exact if_pos ⟨List.isPrefixOf_iff_prefix.mpr hpre, holdPoint_of h1 h15 hk ht⟩
      rw [exec_holdTheClock, hx]
      exact running_link hr _
    · have hx : holdIfFull kind source dest tail s = holdClock (.judged j) s := by
        unfold holdIfFull
        rw [if_pos ⟨hp, h4, hh⟩]
        simp only [hj]
        refine if_pos ⟨Option.isSome_iff_ne_none.mpr ht, ?_⟩
        rw [← bitsBytes_bytesBits (Frame.wire j.frame), ← bitsBytes_bytesBits (kind :: source :: dest :: tail)]
        exact congrArg bitsBytes hw
      rw [exec_holdTheClock, hx, holdClock, ← hj]
      exact running_link hr _
    · have hx : holdIfFull kind source dest tail s = s := by
        unfold holdIfFull
        split
        · next hc =>
          simp only [hb]
          refine if_neg fun ⟨hpre, hpt⟩ => ?_
          rcases hn with h | h | h | h
          · omega
          · simp [holdPoint_of_not (.inl h)] at hpt
          · simp [holdPoint_of_not (.inr h)] at hpt
          · exact h (List.isPrefixOf_iff_prefix.mp hpre)
        · rfl
      rw [exec_holdTheClock, hx, running_self hr]
  · have hfr := startFrame_frame { s with lkc := { s.lkc with phase := .free, settleTime := 10 } }
    refine ⟨_, ?_, hfr, startFrame_freed s⟩
    rw [exec_linkFree hp hh, linkBecomesFree_of_not_lost hl]
    exact running_of_settled hr.1 ((startFrame_op _).settled (hr.2.transfer rfl rfl rfl rfl rfl Iff.rfl rfl))

end Sys2Proof.Machine
end

section
/-! PROOFS. Marks on the link: the end mark (O46, O47), the own frame in transmission (O48), and the claim that is
queued again (O39). -/

namespace Sys2Proof.Machine

/-! ## The end mark of a judged frame (R96, R100, R101, R108) -/

theorem exec_endMark {s : State} (slot : Option SlotLevels) (hp : s.lkc.phase = .receiving) (hh : s.lkc.holding = false)
    (hb : endMarkBarred s = false) : exec (.endMark slot) s = running s (endMarkSeen slot s) :=
  congrArg (running s) (if_pos ⟨hp, hh, hb⟩)

/-- R89: an end mark in a reception that no slot ends. -/
theorem endMarkSeen_discards {s : State} {slot : Option SlotLevels}
    (h : (∀ j, s.lkc.reception ≠ .judged j) ∨ slot = none) : endMarkSeen slot s = toSettling s := by
  unfold endMarkSeen
  split
  · next j others hj =>
      rcases h with h | h
      · exact absurd hj (h j)
      · exact nomatch h
  · rfl

theorem endMarkSeen_judged {s : State} {j : Judged} (levels : SlotLevels) (hj : s.lkc.reception = .judged j) :
    endMarkSeen (some levels) s = completeReception j levels s := by
  simp only [endMarkSeen, hj]

/-- R98, R122: what of a judged frame does not set a view: all but a CLAIM, and a CLAIM to which bit A objects. -/
theorem completeReception_of_objected {j : Judged} {levels : SlotLevels} {s : State}
    (h : j.claimShaft = none ∨ j.driveA = true) :
    completeReception j levels s = pushRx j.take (judgeClash j (toSettling s)) := by
  unfold completeReception
  split
  · rfl
  · next b hb =>
    have ha : j.driveA = true := h.resolve_left (by rw [hb]; exact Option.some_ne_none b)
    unfold takeCleanSlot readSlot
    simp only [ha, Bool.not_true, Bool.and_false, Bool.false_and, Bool.false_eq_true, if_false]
    split <;> rfl

/-- R101: the taken frame joins the receive queue. -/
theorem pushRx_eq (m : Option RxMsg) (s : State) : pushRx m s = { s with lkc := { s.lkc with rx :=
    match m with
    | none => s.lkc.rx
    | some x => s.lkc.rx ++ [x] } } := by
  cases m <;> rfl

/-- R8: a hold reason raised in IDLE leads to HELD with the lock engaged, and in every other state changes the set only. -/
theorem judgeHeld_not_empty {s : State} (he : s.csq.holds.isEmpty = false) (hp : s.csq.state = .idle → s.phase = .service) :
    (judgeHeld s).csq = { s.csq with
      state := if s.csq.state = .idle then .held else s.csq.state
      lock := if s.csq.state = .idle then .low else s.csq.lock } ∧
    (s.csq.state ≠ .idle → (judgeHeld s).lms = s.lms) := by
  unfold judgeHeld
  by_cases hi : s.csq.state = .idle
  · rw [if_pos ⟨hi, he⟩, if_pos hi, if_pos hi]
    refine ⟨?_, fun h => absurd hi h⟩
    unfold enterState refreshLamps
    rw [hp hi]
    rfl
  · rw [if_neg (fun h => hi h.1), if_neg (by rw [he]; exact fun h => nomatch h.2), if_neg hi, if_neg hi]
    exact ⟨rfl, fun _ => rfl⟩

/-- Settles O46: the end mark of a frame that sets no view (R96, R100, R101, R108). -/
theorem endMarkTakesFrame : Obligations.EndMarkTakesFrame := by
  intro slot s hr hstart hp hh
  refine ⟨fun hrec => ?_, fun j hj hobj htake => ⟨fun hnone => ?_, fun levels hlev => ?_⟩⟩
  · have hj (j : Judged) : s.lkc.reception ≠ .judged j := by
      rcases hrec with h | ⟨got, h⟩ | h <;> rw [h] <;> exact fun h => nomatch h
    have hb : endMarkBarred s = false := by
      unfold endMarkBarred
      split
      · next j h => exact absurd h (hj j)
      · rfl
    rw [exec_endMark slot hp hh hb, endMarkSeen_discards (.inl hj)]
    exact running_link hr _
  all_goals
    have hb : endMarkBarred s = false := by
      unfold endMarkBarred
      rw [hj]
      rcases htake with h | h
      · simp [h]
      · simp [Nat.not_le.mpr h]
  · rw [exec_endMark slot hp hh hb, endMarkSeen_discards (.inr hnone)]
    exact running_link hr _
  · have hx : exec (.endMark slot) s = running s (pushRx j.take (judgeClash j (toSettling s))) := by
      rw [exec_endMark slot hp hh hb, hlev, endMarkSeen_judged levels hj,
        completeReception_of_objected (hobj.imp_right And.right)]
    rw [pushRx_eq] at hx
    by_cases hc : j.crcGood = true ∧ j.frame.source = s.ownByte
    · have hclash : judgeClash j (toSettling s) = judgeHold .addressClash true (toSettling s) := by
        unfold judgeClash
        rw [if_pos (by simpa [State.ownByte, toSettling] using hc), raiseHold_eq _ (by decide)]
      rw [hclash] at hx
      generalize hu : ({ judgeHold .addressClash true (toSettling s) with lkc := _ } : State) = u at hx
      have hidle : u.csq.state = .idle → u.phase = .service := by
        rw [← hu]
        exact fun h => by_contra fun hn => absurd (h.symm.trans (hstart.1.mpr hn)) (by decide)
      obtain ⟨hcsq, hlms⟩ := judgeHeld_not_empty (s := u) (by rw [← hu]; simp [judgeHold, HoldSet.put, HoldSet.isEmpty]) hidle
      have hset : settleStep u = judgeHeld u := settleStep_judged (by rw [← hu]; exact hr.2.hatchShut)
        (by rw [← hu]; exact hr.2.tareRight.congr rfl rfl rfl rfl rfl)
      refine ⟨judgeHeld u, by rw [hx, running_eq hr.1, hset], ?_, ?_, fun _ _ => ⟨?_, ?_⟩, fun h => ?_⟩
      · rw [judgeHeld_lamps u, ← hu]
        rfl
      · rw [judgeHeld_lkc, ← hu]
        rfl
      · rw [hcsq, ← hu]
        rfl
      · rw [← hu] at hlms ⊢
        exact hlms
      · exact absurd hc (by rintro ⟨h1, h2⟩; exact h.elim (fun h => by rw [h] at h1; exact nomatch h1) (· h2))
    · have hclash : judgeClash j (toSettling s) = toSettling s := by
        unfold judgeClash
        exact if_neg fun h => hc (by simpa [State.ownByte, toSettling] using h)
      rw [hclash] at hx
      refine ⟨_, hx.trans (running_link hr _), rfl, rfl, fun h1 h2 => absurd ⟨h1, h2⟩ hc, fun _ => ⟨rfl, rfl⟩⟩

/-! ## The end mark of another station's CLAIM (R98, R123) -/

/-- R96: the slot reads both bits high where nobody drives one low. -/
theorem readSlot_clean {j : Judged} {levels : SlotLevels} :
    ((readSlot j levels).a && (readSlot j levels).b) = true ↔
      levels.a = true ∧ levels.b = true ∧ j.driveA = false ∧ j.driveB = false := by
  simp only [readSlot, Bool.and_eq_true, Bool.not_eq_true']
  tauto

theorem viewYields_iff {v : View} {c : BitVec 4} : viewYields v c = true ↔ v = .free ∨ v = .held c := by
  simp [viewYields]

theorem shaftOf_ofNat (i : Fin 4) : shaftOf (BitVec.ofNat 8 i.val) = some i := by
  fin_cases i <;> rfl

/-- Settles O47: the end mark of another station's CLAIM (R98, R123), and the own claim after it (R116, R117). -/
theorem cleanSlotSetsView : Obligations.CleanSlotSetsView := by
  intro j i levels s hr hp hh hj htake hshaft hother claimer clean yields
  have hb : endMarkBarred s = false := by
    unfold endMarkBarred
    simp [hj, htake]
  have hclash : judgeClash j (toSettling s) = toSettling s := by
    unfold judgeClash
    rw [beq_eq_false_iff_ne.mpr (show j.frame.source ≠ (toSettling s).ownByte from hother), Bool.and_false]
    rfl
  let set : State := setView i (.held claimer) (some s.cfg.holdLimit) (toSettling s)
  have hc : completeReception j levels s =
      if ((readSlot j levels).a && (readSlot j levels).b) = true ∧ viewYields (s.shc.views.get i) claimer = true then
        watchClaim s set else toSettling s := by
    unfold completeReception takeCleanSlot
    rw [htake, hclash]
    simp only [hshaft, shaftOf_ofNat, pushRx, Bool.and_eq_true]
    rfl
  have hx : exec (.endMark (some levels)) s = running s (completeReception j levels s) := by
    rw [exec_endMark (some levels) hp hh hb, endMarkSeen_judged levels hj]
  rw [hx, hc]
  split
  · next h =>
    have hset : Settled set := hr.2.transfer rfl rfl rfl rfl rfl Iff.rfl rfl
    obtain ⟨hviews, hage, htallies⟩ := watchClaim_shafts s set
    refine ⟨_, running_of_settled hr.1 hset.watchClaim, watchClaim_frame s set, htallies, fun _ _ => ⟨?_, ?_, fun k hk => ?_,
      watchClaim_follows rfl rfl rfl rfl⟩, fun hn => ?_⟩
    · rw [hviews]
      exact Four.get_set_same ..
    · rw [hage]
      exact Four.get_set_same ..
    · rw [hviews, hage]
      exact ⟨Four.get_set_ne _ _ hk, Four.get_set_ne _ _ hk⟩
    · exact (hn.elim (· (readSlot_clean.mp h.1)) (· (viewYields_iff.mp h.2))).elim
  · next h =>
    refine ⟨_, running_link hr _, rfl, rfl, fun hc hy => ?_, fun _ => ⟨rfl, rfl⟩⟩
    exact absurd ⟨readSlot_clean.mpr hc, viewYields_iff.mpr hy⟩ h

/-! ## The own frame in transmission (R92 to R95, R107, R139) -/

theorem asTransmitter_current {f : TxEntry → State → State} {e : TxEntry} {s : State}
    (hp : s.lkc.phase = .transmitting) (he : s.lkc.current = some e) : asTransmitter f s = f e s := by
  simp only [asTransmitter, hp, he, if_true]

/-- R93, R94: what makes the transmitter of a frame abandon it. -/
theorem exec_abandonFrame {s : State} {e : TxEntry} {c : Instr} (hp : s.lkc.phase = .transmitting)
    (he : s.lkc.current = some e) (hc : c = .stall ∨ c = .abandonment ∨ c = .startMark ∧ s.lkc.holding = false) :
    exec c s = running s (abandonFrame e s) := by
  have ht : asTransmitter abandonFrame s = abandonFrame e s := asTransmitter_current hp he
  rcases hc with rfl | rfl | ⟨rfl, hh⟩
  · exact congrArg (running s) ht
  · exact congrArg (running s) ht
  · rw [← ht]
    show running s (if s.lkc.holding = true then s else foreignStartMark s) = _
    simp [hh, foreignStartMark, hp]

theorem exec_lossOfContention {s : State} {e : TxEntry} (hp : s.lkc.phase = .transmitting) (he : s.lkc.current = some e) :
    exec .lossOfContention s = running s (readZero e s) := congrArg (running s) (asTransmitter_current hp he)

/-- R92: contention lost at a bit sent as 1. -/
theorem readZero_lost {s : State} {e : TxEntry} {k : Nat} (hk : (sentBits s e)[k]? = some true)
    (hr : s.lkc.reception = .bits ((sentBits s e).take k)) :
    readZero e s = loseContention ((sentBits s e).take k ++ [false]) e s := by
  rw [readZero_op e hr, List.length_take, Nat.min_eq_left (List.getElem?_eq_some_iff.mp hk).1.le]
  exact if_pos ⟨List.take_prefix _ _, hk⟩

/-- R92: a bit that is not the loss of contention. -/
theorem readZero_kept {s : State} {e : TxEntry}
    (h : ∀ k, (sentBits s e)[k]? = some true → s.lkc.reception ≠ .bits ((sentBits s e).take k)) : readZero e s = s := by
  cases hr : s.lkc.reception with
  | bits got =>
    rw [readZero_op e hr]
    refine if_neg fun ⟨hpre, hk⟩ => h _ hk ?_
    rw [hr, ← List.prefix_iff_eq_take.mp hpre]
  | absent => simp only [readZero, hr]
  | judged j => simp only [readZero, hr]
  | followed => simp only [readZero, hr]

/-- Settles O48: the own frame that is no CLAIM, on its way out (R92 to R95, R107, R139). -/
theorem frameLeavesTheLink : Obligations.FrameLeavesTheLink := by
  refine ⟨fun e s hr hp he => ⟨fun got more hg => ?_, fun k hc hk hg => ?_, fun hn => ?_, fun c hc hn => ⟨fun ha => ?_, fun ha => ?_⟩⟩,
    fun e slot s hr hp he hn => ⟨fun hs => ?_, fun hs => ?_⟩⟩
  · have hx : exec (.checkByte more) s = running s (readAsSent more e s) := by
      show running s (takeBits more s) = _
      simp only [takeBits, hp]
      exact congrArg (running s) (asTransmitter_current hp he)
    rw [hx, readAsSent_op more e hg]
    refine ⟨fun h => ?_, fun h => ?_⟩
    · rw [if_pos (show got ++ more <+: sentBits s e from h)]
      exact running_link hr _
    · rw [if_neg (show ¬ got ++ more <+: sentBits s e from h), running_self hr]
  · rw [exec_lossOfContention hp he, readZero_lost hk hg, loseContention, if_neg (by rw [hc]; exact Bool.false_ne_true)]
    exact running_link hr _
  · rw [exec_lossOfContention hp he, readZero_kept hn, running_self hr]
  · rw [exec_abandonFrame hp he hc, abandonFrame, if_pos (by omega), requeueStalled,
      if_neg (by rw [hn]; exact Bool.false_ne_true)]
    exact running_link hr _
  · rw [exec_abandonFrame hp he hc, abandonFrame, if_neg (by omega), dropStalled,
      if_neg (by rw [hn]; exact Bool.false_ne_true)]
    exact running_link hr _
  · have hx : exec (.completed slot) s = running s (completeFrame slot e s) :=
      congrArg (running s) (asTransmitter_current hp he)
    have hc : completeFrame slot e s = { s with lkc := { s.lkc with
        phase := .settling, settleTime := 0, reception := .absent, inTx := none
        queue := s.lkc.queue.filter (fun f => f.age != e.age) } } := by
      unfold completeFrame reportCompleted
      split
      · next h => rw [h] at hn; exact nomatch hn
      · next h => rw [h] at hs; exact nomatch hs
      all_goals rfl
    rw [hx, hc]
    exact running_link hr _
  · have hx : exec (.completed slot) s = running s (completeFrame slot e s) :=
      congrArg (running s) (asTransmitter_current hp he)
    obtain ⟨clk, night, flag, hsync⟩ : ∃ clk night flag, e.content = .sync clk night flag := by
      cases h : e.content <;> simp [h, TxFrame.isSync] at hs ⊢
    rw [hx, completeFrame, hsync]
    exact running_of_settled hr.1 (hr.2.transfer rfl rfl rfl rfl rfl Iff.rfl rfl)

/-! ## The own claim that is queued again (R17, R117) -/

theorem QueueOp.running {s u t : State} (op : QueueOp u t) (hp : s.phase ≠ .inReset) (hu : Settled u) :
    Machine.running s t = .next t := running_of_settled hp (op.settled hu)

/-- R117: the spacing timer's end queues the CLAIM as a request does, or defers the claim again. -/
theorem spacingOver_asked {s : State} {serial : W32} (hl : LinkRight s) (ha : AgesRight s) (hc : s.lkc.hasClaim = false)
    (hs : s.shc.claimSerial = some serial) :
    ClaimAsked serial s.csq.retry s (spacingOver s) := by
  unfold spacingOver
  rw [hs]
  dsimp only
  split
  · next h =>
    simp only [claimClear, Bool.and_eq_true, beq_iff_eq, Bool.not_eq_true'] at h
    exact queueClaim_asked hl ha hc h.1 h.2
  · next h =>
    simp only [claimClear, Bool.and_eq_true, beq_iff_eq, Bool.not_eq_true'] at h
    refine ⟨fun _ => ⟨⟨rfl, ?_⟩, rfl⟩, fun hv hf => absurd ⟨hv, hf⟩ h⟩
    simp [setClaimPhase, hs]

/-- Settles O39: the claim asked for again (R17, R115, R117). -/
theorem claimIsQueuedAgain : Obligations.ClaimIsQueuedAgain := by
  intro c serial s hr hl ha hc h
  rcases h with ⟨rfl, ht, hst, hp, rfl⟩ | ⟨rfl, ht, hp, hs⟩
  · let u : State := { s with csq := { s.csq with retry := none } }
    have op : QueueOp u (requestClaim s.csq.bag.serial u) := requestClaim_op _ _
    have hx : exec .retryIntervalExpiry s = running s (requestClaim s.csq.bag.serial u) :=
      congrArg (running s) (if_pos ⟨ht, hst⟩)
    refine ⟨_, hx.trans (op.running hr.1 (hr.2.transfer rfl rfl rfl rfl rfl Iff.rfl rfl)), ?_, ?_⟩
    · conv_lhs => rw [op.frame]
    · rw [if_pos rfl]
      exact requestClaim_asked (s := u) hl ha hc hp
  · have op := spacingOver_op s
    have hx : exec .spacingTimerExpiry s = running s (spacingOver s) := congrArg (running s) (if_pos ⟨ht, hp⟩)
    refine ⟨_, hx.trans (op.running hr.1 hr.2), ?_, ?_⟩
    · conv_lhs => rw [op.frame]
    · rw [if_neg (fun h => nomatch h)]
      exact spacingOver_asked hl ha hc hs

end Sys2Proof.Machine
end

section
/-! PROOFS. The home switch and the dead time (O35), and landing events (O36). -/

namespace Sys2Proof.Machine

/-! ## The home switch (R70, R76) and the dead time (R72) -/

theorem exec_homeSwitchActive {s : State} (h : s.rct.homeActive = false) :
    exec .homeSwitchActive s = running s (homeSwitchOn s) :=
  congrArg (running s) (if_neg (by rw [h]; exact Bool.false_ne_true))

/-- R7, R8: where HOME is left the state is what the hold set gives. -/
theorem homeReached_csq (s : State) : (homeReached s).csq = { s.csq with
    homeLimit := none, state := if s.csq.holds.isEmpty then .idle else .held
    lock := lockLine s.phase (if s.csq.holds.isEmpty then .idle else .held) } := rfl

theorem judgeHeld_homeReached (s : State) : judgeHeld (homeReached s) = homeReached s := by
  unfold judgeHeld
  cases he : s.csq.holds.isEmpty <;> simp [homeReached, enterState, refreshLamps, he]

/-- R7, R39: the end of the step in which HOME is left: the tare interval starts, unless WEIGH is raised. -/
theorem settleStep_homeReached {s : State} (hc : s.csq.hatch = .closed) (hh : s.rct.homeActive = true)
    (ha : s.wch.activity ≠ .tare) (ht : s.wch.tareInterval = none) :
    settleStep (homeReached s) = { homeReached s with wch := { s.wch with
      tareInterval := if s.csq.holds.weigh then none else some 2000 } } := by
  have hel : tareEligible (homeReached s) = !s.csq.holds.weigh := by
    have hst : (homeReached s).csq.state = .idle ∨ (homeReached s).csq.state = .held := by
      rw [homeReached_csq]
      cases s.csq.holds.isEmpty <;> simp
    unfold tareEligible
    rw [show ((homeReached s).csq.state == .idle || (homeReached s).csq.state == .held) = true by simpa using hst,
      show ((homeReached s).csq.hatch == .closed) = true from beq_iff_eq.mpr hc,
      show (homeReached s).rct.homeActive = true from hh]
    rfl
  rw [settleStep_of_hatch (s := homeReached s) (fun _ => hc), judgeHeld_homeReached,
    judgeTare_of_stopped (s := homeReached s) ha ht, hel]
  cases s.csq.holds.weigh <;> rfl

/-- R8, R11, R26: a step that leaves the sequencer as a settled state has it ends with the tare check alone. -/
theorem settleStep_of_csq {s : State} (h : Settled s) (t : State) (hc : t.csq = s.csq) : settleStep t = judgeTare t := by
  have hh : judgeHeld t = t := by
    unfold judgeHeld
    rw [hc, if_neg fun k => absurd ((h.1 k.1).symm.trans k.2) (by decide),
      if_neg fun k => absurd ((h.2.1 k.1).symm.trans k.2) (by decide)]
  rw [settleStep_of_hatch (by rw [hc]; exact h.hatchShut), hh]

/-- Settles O35: the home switch and the dead time (R7, R39, R70 to R72, R76). -/
theorem homeSwitchAndDeadTime : Obligations.HomeSwitchAndDeadTime := by
  intro s hr
  refine ⟨fun hp hh hm hst => ?_, fun hh hm => ?_, ?_, fun hd => ?_⟩
  · let u : State := { s with rct := s.rct.preset.stop }
    have hon : homeSwitchOn s = homeReached u := by
      unfold homeSwitchOn
      rw [if_pos hm]
      exact if_pos hst
    have hclosed : s.csq.hatch = .closed := hr.2.hatchShut (.inr (by rw [hst]; rfl))
    obtain ⟨ha, ht⟩ := hr.2.no_tare (by rw [hst]; decide) (by rw [hst]; decide)
    have hmot := Rotor.stop_motorStopped s.rct.preset
    have hpos : s.rct.preset.stop.homeActive = true := congrArg (·.homeActive) hmot.1
    refine ⟨_, by rw [exec_homeSwitchActive hh, hon, running_eq hr.1,
      settleStep_homeReached (s := u) hclosed hpos ha ht], rfl, ?_, hmot, ?_⟩
    · exact (Rotor.cutRun_position s.rct.preset).trans rfl
    · show (homeReached u).csq = _
      rw [homeReached_csq]
      show { s.csq with
        homeLimit := none, state := if s.csq.holds.isEmpty then .idle else .held
        lock := lockLine s.phase (if s.csq.holds.isEmpty then .idle else .held) } = _
      rw [hp]
      cases s.csq.holds.isEmpty <;> rfl
  · have hon : homeSwitchOn s = { s with rct := s.rct.preset } := if_neg hm
    obtain ⟨ha, ht⟩ := hr.2.2.2.2.2 (show tareEligible s = false by simp [tareEligible, hh])
    rw [exec_homeSwitchActive hh, hon, running_eq hr.1, settleStep_of_csq hr.2 _ (by rfl),
      judgeTare_of_stopped (s := { s with rct := s.rct.preset }) ha ht]
    simp only [tareEligible, Bool.and_eq_true, Bool.or_eq_true, Bool.not_eq_true', beq_iff_eq, Rotor.preset, and_true,
      and_assoc]
  · show running s { s with rct := { s.rct with homeActive := false } } = _
    rw [running_eq hr.1, settleStep_of_csq hr.2 _ (by rfl), judgeTare_of_ineligible (by simp [tareEligible])]
    rfl
  · have hx : exec .deadTimeExpiry s = running s { s with rct := s.rct.deadTimeOver } :=
      congrArg (running s) (if_neg hd)
    have hover : s.rct.deadTimeOver = { s.rct with
        deadTime := none
        mrun := if s.rct.mrun = .low ∧ (s.rct.mode = .forward ∨ s.rct.mode = .reverse) then .high
          else s.rct.mrun } := by
      unfold Rotor.deadTimeOver
      dsimp only
      split <;> rfl
    rw [hx, hover]
    exact running_rotor hr rfl

/-! ## Landing events (R79 to R83) -/

theorem exec_landingEvent {s : State} (h : s.ldi.beamActive = false) : exec .landingEvent s = running s (beamBreaks s) :=
  congrArg (running s) (if_neg (by rw [h]; exact Bool.false_ne_true))

/-- R80: the landing input after an event that it takes. -/
def landingCaptured (s : State) : Landing :=
  { s.ldi with beamActive := true, capture := some s.nck.clock, buffer := s.ldi.capture }

theorem beamBreaks_taking {s : State} (h : s.ldi.taking = true) :
    beamBreaks s = attributeLanding { s with ldi := landingCaptured s } := if_pos h

theorem running_landing {s : State} (hr : Runs s) (l : Landing) :
    running s { s with ldi := l } = .next { s with ldi := l } :=
  running_of_settled hr.1 (hr.2.transfer rfl rfl rfl rfl rfl Iff.rfl rfl)

theorem attributeLanding_own {s : State} (h : selfHeld s = true) : attributeLanding s = ownLanding s := by
  unfold attributeLanding
  rw [beq_iff_eq.mp h]
  exact if_pos rfl

/-- R20, R21, R82: an own landing is counted; the first gives the fall time, a second MULTI_LANDING while the settle time
runs. -/
theorem ownLanding_first {s : State} (hs : s.csq.state = .turn ∨ s.csq.state = .fall) (hc : s.ldi.count = 0) :
    ownLanding s = firstLanding { s with ldi := { s.ldi with count := min 255 (s.ldi.count + 1) } } := by
  unfold ownLanding
  rw [if_pos hs, if_pos hc]
  rfl

theorem ownLanding_further {s : State} (hs : s.csq.state = .turn ∨ s.csq.state = .fall) (hc : s.ldi.count ≠ 0) :
    ownLanding s = furtherLanding { s with ldi := { s.ldi with count := min 255 (s.ldi.count + 1) } } := by
  unfold ownLanding
  rw [if_pos hs, if_neg hc]
  rfl

theorem attributeLanding_unclaimed {s : State} (h : ownView s = .free ∨ ownView s = .jammed) :
    attributeLanding s = askGeneral (unclaimedRecord s.nck.clock s.ldi.buffer s.straps.shf) s := by
  unfold attributeLanding
  rcases h with h | h <;> rw [h]

/-- R151: the newest staged record. -/
theorem newestStaged_append {j : Journal} {init : List Record} {r : Record} (h : j.staging = init ++ [r])
    (hn : ¬ (j.array = .program ∧ init = [])) : newestStaged j = some r := by
  unfold newestStaged
  rw [if_neg, h, List.getLast?_append]
  · rfl
  · rintro ⟨ha, hl⟩
    rw [h, List.length_append, List.length_singleton, Nat.add_eq_right, List.length_eq_zero_iff] at hl
    exact hn ⟨ha, hl⟩

theorem bumpLast_append (init : List Record) (r : Record) : bumpLast (init ++ [r]) = init ++ [bumpRepeat r] := by
  induction init with
  | nil => rfl
  | cons a init ih => cases init with
    | nil => rfl
    | cons b init => exact congrArg (a :: ·) ih

/-- R151: whether an UNCLAIMED record coalesces rests on the newest staged record. -/
theorem coalesces_unclaimed {s : State} {req : RecordReq} (hk : req.kind = .unclaimed) :
    coalesces s req = true ↔ ∃ r, newestStaged s.jnc = some r ∧ r.kind = 4 ∧ r.shaft = req.shaft := by
  unfold coalesces
  rw [hk]
  cases newestStaged s.jnc with
  | none => simp
  | some r => simp [RecordKind.code]

theorem askGeneral_coalesced {s : State} {req : RecordReq} (hp : s.phase = .service) (hc : coalesces s req = true) :
    askGeneral req s = { s with jnc := { s.jnc with staging := bumpLast s.jnc.staging } } := by
  unfold askGeneral
  rw [if_neg (fun h => h hp), if_pos hc]

/-- R151: where no UNCLAIMED record of the shaft is the newest staged one, none coalesces. -/
theorem not_coalesces {s : State} {req : RecordReq} (hk : req.kind = .unclaimed)
    (h : s.jnc.staging = [] ∨ (s.jnc.array = .program ∧ s.jnc.staging.length = 1) ∨
      ∃ init r, s.jnc.staging = init ++ [r] ∧ (r.kind ≠ 4 ∨ r.shaft ≠ req.shaft)) : coalesces s req = false := by
  refine Bool.eq_false_iff.mpr fun hc => ?_
  obtain ⟨r, hr, hkind, hshaft⟩ := (coalesces_unclaimed hk).mp hc
  unfold newestStaged at hr
  split at hr
  · exact nomatch hr
  · next hn =>
    rcases h with h | h | ⟨init, q, h, hne⟩
    · rw [h] at hr; exact nomatch hr
    · exact hn h
    · rw [h, List.getLast?_append] at hr
      cases hr
      exact hne.elim (· hkind) (· hshaft)

/-- R79 to R81, R83, R149 to R151: a landing event that nobody claims. -/
theorem landingUnclaimed {s : State} (hr : Runs s) (hp : s.phase = .service) (hb : s.ldi.beamActive = false)
    (ht : s.ldi.taking = true) (hv : ownView s = .free ∨ ownView s = .jammed) :
    let u : State := { s with ldi := landingCaptured s }
    let a := askGeneral (unclaimedRecord s.nck.clock s.ldi.capture s.straps.shf) u
    exec .landingEvent s = .next (settleStep a) ∧ Worked u a (settleStep a) := by
  intro u a
  refine ⟨?_, (askGeneral_op _ u).worked (askGeneral_retry _ u) hp hr.2.hatchShut (hr.2.tareRight.congr rfl rfl rfl rfl rfl)⟩
  rw [exec_landingEvent hb, beamBreaks_taking ht, attributeLanding_unclaimed (s := u) hv, running_eq hr.1]
  rfl

/-- Settles O36: landing events (R79 to R83). -/
theorem landingEvents : Obligations.LandingEvents := by
  refine ⟨fun s hr => ⟨running_landing hr _, fun hb ht => ?_, fun hb ht => ⟨fun h hv hh => ?_, fun hself hst => ⟨fun hc => ?_,
    fun hc hs => ?_, fun hc hs => ?_⟩⟩⟩, fun s hr hp hb ht hv => ?_⟩
  · rw [exec_landingEvent hb, beamBreaks, if_neg (by rw [ht]; exact Bool.false_ne_true)]
    exact running_landing hr _
  · have ha : attributeLanding { s with ldi := landingCaptured s } = { s with ldi := landingCaptured s } := by
      unfold attributeLanding
      rw [show ownView { s with ldi := landingCaptured s } = .held h from hv]
      exact if_neg hh
    rw [exec_landingEvent hb, beamBreaks_taking ht, ha]
    exact running_landing hr _
  · rw [exec_landingEvent hb, beamBreaks_taking ht, attributeLanding_own (s := { s with ldi := landingCaptured s }) hself,
      ownLanding_first (s := { s with ldi := landingCaptured s }) hst hc]
    exact running_of_settled hr.1 (hr.2.transfer rfl rfl rfl rfl rfl Iff.rfl rfl)
  · rw [exec_landingEvent hb, beamBreaks_taking ht, attributeLanding_own (s := { s with ldi := landingCaptured s }) hself,
      ownLanding_further (s := { s with ldi := landingCaptured s }) hst hc, furtherLanding, if_neg (by exact hs)]
    exact running_of_settled hr.1 (hr.2.transfer rfl rfl rfl rfl rfl Iff.rfl rfl)
  · rw [exec_landingEvent hb, beamBreaks_taking ht, attributeLanding_own (s := { s with ldi := landingCaptured s }) hself,
      ownLanding_further (s := { s with ldi := landingCaptured s }) hst hc, furtherLanding, if_pos (by exact hs)]
    exact running_landing hr _
  · obtain ⟨hx, w⟩ := landingUnclaimed hr hp hb ht hv
    have op := askGeneral_op (unclaimedRecord s.nck.clock s.ldi.capture s.straps.shf) { s with ldi := landingCaptured s }
    have hhead := askGeneral_head (unclaimedRecord s.nck.clock s.ldi.capture s.straps.shf)
      { s with ldi := landingCaptured s }
    intro interval
    refine ⟨_, hx, ?_⟩
    generalize settleStep _ = t at w ⊢
    refine ⟨congrArg (·.ldi) w.frame, ?_, ?_, ?_, congrArg (·.bag) w.csq, w.holds, fun hq => ?_, fun init r hst hk hs hn => ?_,
      fun h => ?_⟩
    · have hwch : t.wch = s.wch := congrArg (·.wch) w.frame
      rw [show t.ldi = landingCaptured s from congrArg (·.ldi) w.frame, hwch]
      exact w.frame
    · rw [w.shc]; exact op.views
    · rw [w.shc]; exact op.tallies
    · obtain ⟨-, hs, hd, -, -⟩ := op.quiet hq.noReadWaits
      exact ⟨w.shc.trans hs, w.draws.trans hd, w.linkKept (op.linkKept hhead hq.noReadWaits)⟩
    · have hc : coalesces { s with ldi := landingCaptured s } (unclaimedRecord s.nck.clock s.ldi.capture s.straps.shf) = true :=
        (coalesces_unclaimed rfl).mpr ⟨r, newestStaged_append hst hn, hk, hs⟩
      rw [w.jnc, askGeneral_coalesced (by exact hp) hc]
      show { s.jnc with staging := bumpLast s.jnc.staging } = _
      rw [hst, bumpLast_append]
      rfl
    · rw [RecordAsked, w.jnc, askGeneral_staging _ (by exact hp) (not_coalesces rfl h), stamped_general _ (by simp [unclaimedRecord, RecordReq.blank]) rfl]
      have hfall : (unclaimedRecord s.nck.clock s.ldi.capture s.straps.shf).fall = interval := by
        show _ = match s.ldi.capture with
          | none => (0xFFFF : W16)
          | some p => BitVec.ofNat 16 (min 65534 (s.nck.clock - p).toNat)
        unfold unclaimedRecord
        cases s.ldi.capture <;> rfl
      rw [hfall]
      rfl

end Sys2Proof.Machine
end

section
/-! PROOFS. Frames of the shaft coordinator taken from the receive queue: JAM and RELEASE (O51), LANDED (O52). -/

namespace Sys2Proof.Machine

/-! ## The own claim at the end of a step -/

/-- R8, R11: what the hold set makes of the state does not rest on the coordinator, the link or the clock. -/
theorem judgeHeld_apart (s : State) (l : Link) (c : Shafts) (n : NightClock) :
    judgeHeld { s with lkc := l, shc := c, nck := n } = { judgeHeld s with lkc := l, shc := c, nck := n } := by
  unfold judgeHeld
  dsimp only
  split
  · rfl
  · split <;> rfl

/-- R116, R117: the own claim follows, whatever is judged at the end of the step. -/
theorem settleStep_watched {s : State} (before : State) (hc : hatchShut s.csq) (ht : TareRight s) :
    settleStep (watchClaim before s) = { settleStep s with
      shc := (watchClaim before s).shc, lkc := { s.lkc with queue := (watchClaim before s).lkc.queue } } := by
  have hw := watchClaim_frame before s
  generalize watchClaim before s = w at hw ⊢
  have hcw : hatchShut w.csq := by rw [hw]; exact hc
  have htw : TareRight w := by rw [hw]; exact ht.congr rfl rfl rfl rfl rfl
  rw [settleStep_judged hc ht, settleStep_judged hcw htw]
  conv_lhs => rw [hw]
  rw [judgeHeld_apart s _ _ s.nck]
  conv_rhs => rw [judgeHeld_lamps s]
  conv_lhs => rw [judgeHeld_lamps s]

/-- R116, R117: the own claim rests on the coordinator, the transmit queue, the straps and the configuration. -/
theorem ClaimFollows.congr {s w t : State} (h : ClaimFollows s w) (hs : t.shc = w.shc) (hq : t.lkc.queue = w.lkc.queue)
    (hr : t.straps = w.straps) (hc : t.cfg = w.cfg) : ClaimFollows s t := by
  simp only [ClaimFollows, ClaimAs, ClaimWithdrawn, ownView, ownFull, ownTally, hs, hq, hr, hc] at h ⊢
  exact h

/-! ## Views that a frame sets or frees (R128 to R130) -/

/-- From s to t the view of a shaft, with its age, may have changed, and no other. -/
def OtherViewsKept (i : Fin 4) (s t : State) : Prop :=
  ∀ k, k ≠ i → t.shc.views.get k = s.shc.views.get k ∧ t.shc.holdAge.get k = s.shc.holdAge.get k

theorem setView_get (i : Fin 4) (v : View) (age : Timer) (s : State) :
    (setView i v age s).shc.views.get i = v ∧ (setView i v age s).shc.holdAge.get i = age ∧
    OtherViewsKept i s (setView i v age s) :=
  ⟨Four.get_set_same .., Four.get_set_same .., fun _ hk => ⟨Four.get_set_ne _ _ hk, Four.get_set_ne _ _ hk⟩⟩

theorem heldByOther_held {s : State} {h : BitVec 4} : heldByOther s (.held h) = true ↔ h ≠ s.straps.adr := by
  simp [heldByOther]

theorem heldByOther_eq_false {s : State} {v : View} (hv : ∀ h, v = .held h → h = s.straps.adr) : heldByOther s v = false := by
  unfold heldByOther
  split
  · next h => simp [hv h rfl]
  · rfl

/-- R128, R130: a view HELD by another station is freed. -/
theorem freeView_of_other {i : Fin 4} {s : State} {h : BitVec 4} (hv : s.shc.views.get i = .held h) (hh : h ≠ s.straps.adr) :
    freeView i s = setView i .free none s := if_pos (by rw [hv]; exact heldByOther_held.mpr hh)

theorem freeView_of_own {i : Fin 4} {s : State} (hv : ∀ h, s.shc.views.get i = .held h → h = s.straps.adr) :
    freeView i s = s := if_neg (by rw [heldByOther_eq_false hv]; exact Bool.false_ne_true)

/-- R128, R130: what the freeing of a view may change. -/
theorem freeView_cases (i : Fin 4) (s : State) : freeView i s = setView i .free none s ∨ freeView i s = s := by
  unfold freeView
  split
  · exact .inl rfl
  · exact .inr rfl

theorem freeView_frame (i : Fin 4) (s : State) : freeView i s = { s with shc := { s.shc with
    views := (freeView i s).shc.views, holdAge := (freeView i s).shc.holdAge } } := by
  rcases freeView_cases i s with h | h
  · rw [h]; rfl
  · rw [h]

theorem freeView_others (i : Fin 4) (s : State) : OtherViewsKept i s (freeView i s) := by
  rcases freeView_cases i s with h | h <;> rw [h]
  · exact (setView_get ..).2.2
  · exact fun _ _ => ⟨rfl, rfl⟩

/-! ## LANDED (R56, R130 to R132) -/

theorem exec_landedTaken {s : State} {shaft : Byte} {serial : W32} {mass count : W16} {binMass : W32} {rest : List RxMsg}
    (h : s.lkc.rx = .landed shaft serial mass count binMass :: rest) :
    exec .landedTaken s = running s (takeLanded shaft serial mass count binMass (takeRx s)) := by
  simp only [exec, execLandedTaken, h, List.head?_cons]

/-- R56: the night list with a serial given to it. -/
theorem addSerial_eq (l : List W32) (x : W32) :
    addSerial l x = if x = 0 ∨ x = 0xFFFFFFFF ∨ x ∈ l ∨ 256 ≤ l.length then l else l ++ [x] := by
  unfold addSerial
  by_cases h0 : x = 0 ∨ x = 0xFFFFFFFF
  · rw [if_pos h0, if_pos (by tauto)]
  · rw [if_neg h0]
    by_cases hm : x ∈ l
    · rw [if_pos (List.contains_iff_mem.mpr hm), if_pos (by tauto)]
    · rw [if_neg (by simpa using hm)]
      by_cases h256 : 256 ≤ l.length
      · rw [if_pos h256, if_pos (by tauto)]
      · rw [if_neg h256, if_neg (by tauto)]

/-- R131: the bin tally after a LANDED. -/
theorem maxMerge_eq (t : Tally) (mass count binMass : Nat) : maxMerge t mass count binMass =
    { count := max (min 65535 (t.count + 1)) count, mass := max (min 4294967295 (t.mass + min 9999 mass)) binMass } := rfl

/-- R5, R8, R11: as `judgeHeld_stateByHolds`, for a part that is in START while out of service. -/
theorem judgeHeld_stateByHolds_of_start {s u : State} (hs : u.csq.state = s.csq.state) (hl : u.csq.lock = s.csq.lock)
    (hm : u.lms = s.lms) (hp : u.phase = s.phase) (hr : StartRight s) : StateByHolds s (judgeHeld u) := by
  by_cases h : s.phase = .service
  · exact judgeHeld_stateByHolds (hp.trans h) hs hl hm
  · have hst : s.csq.state = .start := hr.1.mpr h
    have hj : judgeHeld u = u := by
      unfold judgeHeld
      rw [hs, hst, if_neg (fun h => nomatch h.1), if_neg (fun h => nomatch h.1)]
    rw [hj]
    refine ⟨fun h => ?_, fun _ _ => hs, fun _ => ⟨hl, hm⟩, fun h => absurd hs h⟩
    rw [hst] at h
    exact h.elim (fun h => nomatch h) (fun h => nomatch h)

/-- R130, R132: the state in which a LANDED has set the view and the tally of its bin and judged BIN_FULL. -/
def landingMerged (i : Fin 4) (tally : Tally) (s : State) : State :=
  { setTally i tally (freeView i s) with csq := { s.csq with holds := { s.csq.holds with
      binFull := s.csq.holds.binFull || (decide (i = s.straps.shf) && tallyFull s.cfg tally) } } }

theorem freeView_tallies (i : Fin 4) (s : State) : (freeView i s).shc.tallies = s.shc.tallies := by rw [freeView_frame]

theorem mergeLanding_eq (i : Fin 4) (mass count : W16) (binMass : W32) (s : State) :
    mergeLanding i mass count binMass s =
      watchClaim s (landingMerged i (maxMerge (s.shc.tallies.get i) mass.toNat count.toNat binMass.toNat) s) := by
  unfold mergeLanding landingMerged
  dsimp only
  rw [freeView_tallies]
  generalize maxMerge _ _ _ _ = tally
  have hcsq : (setTally i tally (freeView i s)).csq = s.csq := congrArg (·.csq) (freeView_frame i s)
  congr 1
  by_cases h : i = s.straps.shf
  · have hf : ownFull (setTally i tally (freeView i s)) = tallyFull s.cfg tally := by
      unfold ownFull ownTally
      rw [freeView_frame, h]
      exact congrArg (tallyFull s.cfg) (Four.get_set_same ..)
    rw [if_pos h, raiseIfFull_frame, hf, hcsq, decide_eq_true h, Bool.true_and]
  · rw [if_neg h, decide_eq_false h, Bool.false_and, Bool.or_false, ← hcsq]

theorem landingMerged_frame (i : Fin 4) (tally : Tally) (s : State) : landingMerged i tally s = { s with
    csq := { s.csq with holds := { s.csq.holds with
      binFull := s.csq.holds.binFull || (decide (i = s.straps.shf) && tallyFull s.cfg tally) } }
    shc := { s.shc with
      views := (freeView i s).shc.views, holdAge := (freeView i s).shc.holdAge
      tallies := s.shc.tallies.set i tally } } := by
  unfold landingMerged
  rw [freeView_frame]
  rfl

/-- Settles O52: LANDED taken (R56, R130 to R132), and the own claim after it (R116, R117). -/
theorem landedTaken : Obligations.LandedTaken := by
  intro shaft serial mass count binMass rest s hr hrx given
  have hgive : giveSerial serial (takeRx s) = { s with lkc := { s.lkc with rx := rest, holding := false }, nls := given } := by
    rw [takeRx_eq hrx, giveSerial, addSerial_eq]
  refine ⟨fun h3 => ?_, fun i hi => ?_⟩
  · have hx : takeLanded shaft serial mass count binMass (takeRx s) = giveSerial serial (takeRx s) := by
      simp only [takeLanded, shaftOf_eq_none h3]
    rw [exec_landedTaken hrx, hx, hgive]
    exact running_of_settled hr.1 (hr.2.transfer rfl rfl rfl rfl rfl Iff.rfl rfl)
  · intro before after
    let u : State := { s with lkc := { s.lkc with rx := rest, holding := false }, nls := given }
    have hx : exec .landedTaken s = running s (watchClaim s (landingMerged i after u)) := by
      rw [exec_landedTaken hrx]
      simp only [takeLanded, shaftOf_eq_some hi]
      rw [hgive, mergeLanding_eq]
      rfl
    have hxf := landingMerged_frame i after u
    generalize landingMerged i after u = x at hx hxf
    have hhatch : hatchShut x.csq := by rw [hxf]; exact hr.2.hatchShut
    have htare : TareRight x := by rw [hxf]; exact hr.2.tareRight.congr rfl rfl rfl rfl rfl
    have hstep := settleStep_watched s hhatch htare
    rw [settleStep_judged hhatch htare] at hstep
    have hfollows : ClaimFollows s (watchClaim s x) :=
      watchClaim_follows (by rw [hxf]) (by rw [hxf]) (by rw [hxf]) (by rw [hxf])
    obtain ⟨hviews, hage, htallies⟩ := watchClaim_shafts s x
    refine ⟨_, hx.trans (running_eq hr.1), ?_⟩
    rw [hstep]
    have hstraps : (judgeHeld x).straps = (watchClaim s x).straps :=
      (congrArg (·.straps) (judgeHeld_lamps x)).trans (watchClaim_op s x).straps.symm
    have hcfg : (judgeHeld x).cfg = (watchClaim s x).cfg :=
      (congrArg (·.cfg) (judgeHeld_lamps x)).trans (watchClaim_op s x).cfg.symm
    generalize watchClaim s x = w at hfollows hviews hage htallies hstraps hcfg
    have hxviews : x.shc.views = (freeView i u).shc.views := by rw [hxf]
    have hxage : x.shc.holdAge = (freeView i u).shc.holdAge := by rw [hxf]
    have hxtallies : x.shc.tallies = s.shc.tallies.set i after := by rw [hxf]
    rw [hxviews] at hviews
    rw [hxage] at hage
    rw [hxtallies] at htallies
    refine ⟨?_, ?_, fun k hk => ?_, fun h hv hh => ?_, fun hv => ?_, ?_, fun hi hf => ?_, fun hn => ?_, ?_⟩
    · have hj := judgeHeld_lamps x
      rw [hxf] at hj ⊢
      generalize judgeHeld _ = y at hj ⊢
      rw [hj]
    · show w.shc.tallies.get i = after
      rw [htallies]
      exact Four.get_set_same ..
    · obtain ⟨hv, ha⟩ := freeView_others i u k hk
      show w.shc.tallies.get k = _ ∧ w.shc.views.get k = _ ∧ w.shc.holdAge.get k = _
      rw [htallies, hviews, hage]
      exact ⟨Four.get_set_ne _ _ hk, hv, ha⟩
    · show w.shc.views.get i = _ ∧ w.shc.holdAge.get i = _
      rw [hviews, hage, freeView_of_other (s := u) hv hh]
      exact ⟨(setView_get ..).1, (setView_get ..).2.1⟩
    · show w.shc.views.get i = _ ∧ w.shc.holdAge.get i = _
      rw [hviews, hage, freeView_of_own (s := u) hv]
      exact ⟨rfl, rfl⟩
    · show (judgeHeld x).nls = given
      rw [judgeHeld_lamps x, hxf]
    · refine ⟨?_, ?_, fun hs => ?_⟩
      · show (judgeHeld x).csq.holds = _
        rw [judgeHeld_holds, hxf]
        show { s.csq.holds with binFull := s.csq.holds.binFull || (decide (i = s.straps.shf) && tallyFull s.cfg after) } = _
        rw [decide_eq_true hi, hf, Bool.true_and, Bool.or_true]
      · show SameSequencerBut s.csq (judgeHeld x).csq
        unfold SameSequencerBut
        conv_lhs => rw [judgeHeld_csq x, hxf]
        rw [judgeHeld_holds, hxf]
      · exact judgeHeld_stateByHolds_of_start (u := x) (by rw [hxf]) (by rw [hxf]) (by rw [hxf]) (by rw [hxf]) hs
    · have hb : (decide (i = s.straps.shf) && tallyFull s.cfg after) = false := by
        rcases hn with h | h
        · rw [decide_eq_false h, Bool.false_and]
        · rw [h, Bool.and_false]
      have hset : Settled x := by
        rw [hxf]
        refine hr.2.transfer rfl ?_ rfl rfl rfl Iff.rfl rfl
        show HoldSet.isEmpty { s.csq.holds with
          binFull := s.csq.holds.binFull || (decide (i = s.straps.shf) && tallyFull s.cfg after) } = _
        rw [hb, Bool.or_false]
      show (judgeHeld x).csq = s.csq ∧ (judgeHeld x).lms = s.lms
      rw [judgeHeld_of_settled hset, hxf]
      refine ⟨?_, rfl⟩
      show { s.csq with holds := { s.csq.holds with
        binFull := s.csq.holds.binFull || (decide (i = s.straps.shf) && tallyFull s.cfg after) } } = s.csq
      rw [hb, Bool.or_false]
    · exact hfollows.congr rfl rfl hstraps hcfg

/-! ## A record asked for and the own claim that follows (R149, R116, R117) -/

/-- From u to t a record of a general kind has been asked for in service, the own claim has followed, and the step has
ended: as `RecordTaken`, but for the coordinator and the transmit queue. -/
structure RecordFollowed (before : State) (r : Record) (u t : State) : Prop where
  frame : t = { u with csq := t.csq, lkc := t.lkc, shc := t.shc, jnc := t.jnc, lms := t.lms }
  csq : SameSequencerBut u.csq t.csq
  holds : SameHoldsButJournal u.csq.holds t.csq.holds
  asked : RecordAsked r u t
  journal : JournalKept u.jnc t
  link : LinkKeptButQueue u.lkc t
  state : StateByHolds u t
  views : t.shc.views = u.shc.views
  holdAge : t.shc.holdAge = u.shc.holdAge
  tallies : t.shc.tallies = u.shc.tallies
  follows : ClaimFollows before t

theorem askGeneral_followed {before u : State} {req : RecordReq} (hp : u.phase = .service) (hk : req.kind ≠ .unclaimed)
    (hn : NoReadWaits u) (hh : hatchShut u.csq) (ht : TareRight u) (hc : u.cfg = before.cfg)
    (hs : ClaimAs before.shc u) (hq : u.lkc.queue = before.lkc.queue) (hi : u.lkc.inTx = before.lkc.inTx) :
    RecordFollowed before (stamped u req) u (settleStep (watchClaim before (askGeneral req u))) := by
  have op := askGeneral_op req u
  have k := askGeneral_taken hp hk hn hh ht
  obtain ⟨-, hsa, -, -, hla⟩ := op.quiet hn
  have hqa : (askGeneral req u).lkc.queue = u.lkc.queue := congrArg (·.queue) hla
  have hia : (askGeneral req u).lkc.inTx = u.lkc.inTx := congrArg (·.inTx) hla
  have hfollows : ClaimFollows before (watchClaim before (askGeneral req u)) :=
    watchClaim_follows (op.cfg.trans hc) (by rw [ClaimAs, hsa]; exact hs) (hqa.trans hq) (hia.trans hi)
  have hstep := settleStep_watched (s := askGeneral req u) before (op.hatchShut hh)
    (ht.congr (congrArg (·.state) op.csq) (congrArg (·.holds.weigh) op.csq) (congrArg (·.hatch) op.csq)
      (congrArg (·.homeActive) op.rct) op.wch)
  obtain ⟨hviews, hage, htallies⟩ := watchClaim_shafts before (askGeneral req u)
  have hlk := (op.worked (askGeneral_retry req u) hp hh ht).lkc
  have hws := (watchClaim_op before (askGeneral req u)).straps.trans op.straps
  have hwc := (watchClaim_op before (askGeneral req u)).cfg.trans op.cfg
  rw [hsa] at hviews hage htallies
  rw [← hlk] at hstep
  generalize watchClaim before (askGeneral req u) = w at *
  generalize settleStep (askGeneral req u) = v at *
  rw [hstep]
  exact
    { frame := congrArg (fun x : State => { x with shc := w.shc, lkc := { v.lkc with queue := w.lkc.queue } }) k.frame
      csq := k.csq, holds := k.holds, asked := k.asked, journal := k.journal, state := k.state
      link := ⟨congrArg (fun x : Link => { x with queue := w.lkc.queue }) k.link.1, k.link.2⟩
      views := hviews, holdAge := hage, tallies := htallies
      follows := hfollows.congr rfl rfl ((congrArg (·.straps) k.frame).trans hws.symm)
        ((congrArg (·.cfg) k.frame).trans hwc.symm) }

/-! ## JAM and RELEASE (R128, R129) -/

theorem exec_jamTaken {s : State} {shaft : Byte} {rest : List RxMsg} (h : s.lkc.rx = .jam shaft :: rest) :
    exec .jamTaken s = running s (takeJam shaft (takeRx s)) := by
  simp only [exec, execJamTaken, h, List.head?_cons]

theorem exec_releaseTaken {s : State} {shaft : BitVec 4} {rest : List RxMsg} (h : s.lkc.rx = .release shaft :: rest) :
    exec .releaseTaken s = running s (takeRelease shaft (takeRx s)) := by
  simp only [exec, execReleaseTaken, h, List.head?_cons]

theorem jamView_cases (i : Fin 4) (s : State) : jamView s i = setView i .jammed none s ∨ jamView s i = s := by
  unfold jamView
  split
  · exact .inl rfl
  · exact .inr rfl

theorem jamView_frame (i : Fin 4) (s : State) : jamView s i = { s with shc := { s.shc with
    views := (jamView s i).shc.views, holdAge := (jamView s i).shc.holdAge } } := by
  rcases jamView_cases i s with h | h
  · rw [h]; rfl
  · rw [h]

theorem jamView_others (i : Fin 4) (s : State) : OtherViewsKept i s (jamView s i) := by
  rcases jamView_cases i s with h | h <;> rw [h]
  · exact (setView_get ..).2.2
  · exact fun _ _ => ⟨rfl, rfl⟩

/-- R129: a FREE view, or one HELD by another station, becomes JAMMED. -/
theorem jamView_free {i : Fin 4} {s : State} (h : s.shc.views.get i = .free) : jamView s i = setView i .jammed none s :=
  if_pos (.inl h)

theorem jamView_held {i : Fin 4} {s : State} {h : BitVec 4} (hv : s.shc.views.get i = .held h) :
    (jamView s i).shc.views.get i = (if h = s.straps.adr then .held h else .jammed) ∧
    (jamView s i).shc.holdAge.get i = (if h = s.straps.adr then s.shc.holdAge.get i else none) := by
  unfold jamView
  rw [hv]
  by_cases hh : h = s.straps.adr
  · rw [if_neg (by simp [heldByOther, hh]), if_pos hh, if_pos hh]
    exact ⟨hv, rfl⟩
  · rw [if_pos (.inr (heldByOther_held.mpr hh)), if_neg hh, if_neg hh]
    exact ⟨(setView_get ..).1, (setView_get ..).2.1⟩

theorem jamView_jammed {i : Fin 4} {s : State} (h : s.shc.views.get i = .jammed) : jamView s i = s :=
  if_neg (by rw [h]; exact fun k => k.elim (fun k => nomatch k) (fun k => nomatch k))

/-- R129: what of JAM does not rest on the own shaft: the views of t are those that the JAM gives. -/
theorem jamView_spec {i : Fin 4} {s t : State} (hv : t.shc.views = (jamView s i).shc.views)
    (ha : t.shc.holdAge = (jamView s i).shc.holdAge) :
    (s.shc.views.get i = .free → t.shc.views.get i = .jammed ∧ t.shc.holdAge.get i = none) ∧
    (∀ h, s.shc.views.get i = .held h → t.shc.views.get i = (if h = s.straps.adr then .held h else .jammed) ∧
      t.shc.holdAge.get i = (if h = s.straps.adr then s.shc.holdAge.get i else none)) ∧
    (s.shc.views.get i = .jammed → t.shc.views.get i = .jammed ∧ t.shc.holdAge.get i = s.shc.holdAge.get i) ∧
    OtherViewsKept i s t := by
  unfold OtherViewsKept
  rw [hv, ha]
  refine ⟨fun h => ?_, fun h hh => jamView_held hh, fun h => ?_, jamView_others i s⟩
  · rw [jamView_free h]
    exact ⟨(setView_get ..).1, (setView_get ..).2.1⟩
  · rw [jamView_jammed h]
    exact ⟨h, rfl⟩

/-- R125, R129: where JAM is clear it is raised with its record. -/
theorem raiseJam_of_clear {s : State} (h : s.csq.holds.jam = false) :
    raiseJam s = askGeneral (RecordReq.blank .jam s.straps.shf) (judgeHold .jam true s) := by
  unfold raiseJam
  rw [if_neg (by rw [h]; exact Bool.false_ne_true), raiseHold_eq _ (by decide)]

/-- Settles O51: JAM and RELEASE taken (R128, R129), and the own claim after them (R116, R117). -/
theorem jamAndReleaseTaken : Obligations.JamAndReleaseTaken := by
  intro rest s hr hp ha left
  refine ⟨fun shaft hrx => ⟨fun h3 => ?_, fun i hi => ?_⟩, fun shaft hrx => ⟨fun h3 => ?_, fun i hi => ?_⟩⟩
  · have hx : takeJam shaft (takeRx s) = takeRx s := by simp only [takeJam, shaftOf_eq_none h3]
    rw [exec_jamTaken hrx, hx, running_takeRx hr hrx]
  · let u : State := { s with lkc := left }
    have hx : exec .jamTaken s =
        running s (watchClaim s (if i = s.straps.shf then raiseJam (jamView u i) else jamView u i)) := by
      rw [exec_jamTaken hrx]
      simp only [takeJam, shaftOf_eq_some hi]
      rw [takeRx_eq hrx]
      rfl
    have hjf := jamView_frame i u
    have hspec (t : State) := jamView_spec (i := i) (s := u) (t := t)
    generalize jamView u i = x at hx hjf hspec
    have hcs : ClaimAs s.shc x := by rw [hjf]
    by_cases hraise : i = s.straps.shf ∧ s.csq.holds.jam = false
    · obtain ⟨hown, hjam⟩ := hraise
      rw [if_pos hown, raiseJam_of_clear (by rw [hjf]; exact hjam)] at hx
      have k := askGeneral_followed (before := s) (u := judgeHold .jam true x) (req := RecordReq.blank .jam x.straps.shf)
        (by rw [hjf]; exact hp) (by simp [RecordReq.blank]) (by rw [hjf]; exact ha.noReadWaits)
        (by rw [hjf]; exact hr.2.hatchShut) (by rw [hjf]; exact hr.2.tareRight.congr rfl rfl rfl rfl rfl) (by rw [hjf]; rfl)
        hcs (by rw [hjf]; rfl) (by rw [hjf]; rfl)
      rw [stamped_general _ (by simp [RecordReq.blank]) rfl] at k
      refine ⟨_, hx.trans (running_eq hr.1), ?_⟩
      generalize settleStep _ = t at k ⊢
      obtain ⟨hfree, hheld, hjammed, hothers⟩ := hspec t k.views k.holdAge
      rw [hjf] at k
      exact ⟨k.frame, k.link, k.follows, hfree, hheld, hjammed, hothers, k.tallies,
        fun _ => ⟨k.holds, k.csq, k.state, k.journal, fun _ => k.asked⟩,
        fun h => h.elim (fun h => absurd hown h) (fun h => absurd (hjam.symm.trans h) Bool.noConfusion)⟩
    · have hkeep : (if i = s.straps.shf then raiseJam x else x) = x := by
        split
        · next hown =>
          refine if_pos ?_
          rw [hjf]
          exact Bool.not_eq_false _ ▸ fun h => hraise ⟨hown, h⟩
        · rfl
      have hset : Settled x := by
        rw [hjf]
        exact hr.2.transfer rfl rfl rfl rfl rfl Iff.rfl rfl
      have hjw : judgeHeld (watchClaim s x) = watchClaim s x := judgeHeld_of_settled hset.watchClaim
      rw [hkeep] at hx
      obtain ⟨hviews, hage, htallies⟩ := watchClaim_shafts s x
      obtain ⟨hfree, hheld, hjammed, hothers⟩ := hspec (watchClaim s x) hviews hage
      have hfollows : ClaimFollows s (watchClaim s x) :=
        watchClaim_follows (by rw [hjf]) hcs (by rw [hjf]) (by rw [hjf])
      have hw := watchClaim_frame s x
      refine ⟨_, hx.trans (running_of_settled hr.1 hset.watchClaim), ?_⟩
      generalize watchClaim s x = w at *
      rw [hjf] at hw htallies
      have hcsq : w.csq = s.csq := congrArg (·.csq) hw
      have hjnc : w.jnc = s.jnc := congrArg (·.jnc) hw
      have hlms : w.lms = s.lms := congrArg (·.lms) hw
      have hlkc : w.lkc = { left with queue := w.lkc.queue } := congrArg (·.lkc) hw
      have hrx : w.lkc.rx = rest := congrArg (·.rx) hlkc
      refine ⟨?_, ⟨?_, .inl ⟨hrx, congrArg (·.holding) hlkc⟩⟩, hfollows, hfree, hheld, hjammed, hothers, htallies,
        fun hown => ?_, fun _ => ⟨hcsq, hjnc, hlms, hrx⟩⟩
      · rw [hcsq, hjnc, hlms, hlkc]
        exact hw
      · rw [hrx, show w.lkc.holding = false from congrArg (·.holding) hlkc]
        exact hlkc
      · have hjam : s.csq.holds.jam = true := by
          by_contra h
          exact hraise ⟨hown, Bool.not_eq_true _ ▸ h⟩
        have hby : StateByHolds s w := by
          rw [← hjw]
          exact judgeHeld_stateByHolds ((congrArg (·.phase) hw).trans hp) (by rw [hcsq]) (by rw [hcsq]) hlms
        rw [SameHoldsButJournal, SameSequencerBut, JournalKept, hcsq, hjnc]
        refine ⟨?_, rfl, hby, ⟨rfl, rfl, fun _ => ⟨rfl, rfl⟩⟩, fun h => absurd (hjam.symm.trans h) Bool.noConfusion⟩
        rw [← hjam]
  · have hx : takeRelease shaft (takeRx s) = takeRx s := by
      have h : 3 < (shaft.setWidth 8 : Byte).toNat := by
        rw [BitVec.toNat_setWidth]
        omega
      simp only [takeRelease, shaftOf_eq_none h]
    rw [exec_releaseTaken hrx, hx, running_takeRx hr hrx]
  · let u : State := { s with lkc := left }
    have hx : exec .releaseTaken s = running s (watchClaim s (freeView i u)) := by
      have h : (shaft.setWidth 8 : Byte).toNat = i.val := by
        rw [BitVec.toNat_setWidth]
        omega
      rw [exec_releaseTaken hrx]
      simp only [takeRelease, shaftOf_eq_some h]
      rw [takeRx_eq hrx]
      rfl
    have hff := freeView_frame i u
    have hset : Settled (freeView i u) := by
      rw [hff]
      exact hr.2.transfer rfl rfl rfl rfl rfl Iff.rfl rfl
    have hfollows : ClaimFollows s (watchClaim s (freeView i u)) :=
      watchClaim_follows (by rw [hff]) (by rw [hff]) (by rw [hff]) (by rw [hff])
    obtain ⟨hviews, hage, htallies⟩ := watchClaim_shafts s (freeView i u)
    have hw := watchClaim_frame s (freeView i u)
    refine ⟨_, hx.trans (running_of_settled hr.1 hset.watchClaim), ?_, ?_, hfollows, fun h hv hh => ?_, fun hv => ?_,
      fun k hk => ?_⟩
    · rw [hff] at hw
      rw [hff]
      exact hw
    · rw [htallies, freeView_tallies]
    · rw [hviews, hage, freeView_of_other (s := u) hv hh]
      exact ⟨(setView_get ..).1, (setView_get ..).2.1⟩
    · rw [hviews, hage, freeView_of_own (s := u) hv]
      exact ⟨rfl, rfl⟩
    · rw [hviews, hage]
      exact freeView_others i u k hk

end Sys2Proof.Machine
end

section
/-! PROOFS. SYNC taken (O53), and the journal controller's frames (O57). -/

namespace Sys2Proof.Machine

/-! ## SYNC (R59, R140 to R143) -/

theorem exec_syncTaken {s : State} {elapsed clock : W32} {night : W16} {flag : Byte} {rest : List RxMsg}
    (h : s.lkc.rx = .sync clock night flag :: rest) :
    exec (.syncTaken elapsed) s = running s (takeSync elapsed clock night flag (takeRx s)) := by
  simp only [exec, execSyncTaken, h, List.head?_cons]

/-- R8, R11, R39: the clock plays no part in what is judged at the end of a step. -/
theorem settleStep_nck {s : State} (n : NightClock) (hc : hatchShut s.csq) (ht : TareRight s) :
    settleStep { s with nck := n } = { settleStep s with nck := n } := by
  rw [settleStep_judged hc ht,
    settleStep_judged (s := { s with nck := n }) hc (ht.congr rfl rfl rfl rfl rfl), judgeHeld_apart s s.lkc s.shc n]
  conv_rhs => rw [judgeHeld_lamps s]
  conv_lhs => rw [judgeHeld_lamps s]

/-- R137: the sync timer's length rests on the clock flag, the configuration and the own address. -/
theorem restartSync_eq {a u : State} (hn : a.nck = u.nck) (hc : a.cfg = u.cfg) (hs : a.straps = u.straps) :
    restartSync a = { a with nck := { u.nck with syncTimer := some (syncLength u) } } := by
  have h : ({ a.nck with syncTimer := some (syncLength a) } : NightClock) =
      { u.nck with syncTimer := some (syncLength u) } := by
    unfold syncLength
    rw [hn, hc, hs]
  exact congrArg (fun n => { a with nck := n }) h

/-- R140: a SYNC with one of the two flag bytes is valid. -/
theorem takeSync_valid {elapsed clock : W32} {night : W16} {flag : Byte} {s : State} (h : flag = 0 ∨ flag = 1) :
    takeSync elapsed clock night flag s = restartSync (judgeSync (clock + elapsed) night (flag == 1) s) := if_pos h

/-! R141, R142, Table 7-3: what a valid SYNC leads to. -/

theorem judgeSync_closes {s : State} {night : W16} {offered : W32} {synced : Bool}
    (h : s.nls.night.toNat < night.toNat) (h7 : s.jnc.staging.length < 7) (hm : s.jnc.seqCounter ≠ 0xFFFFFFFF) :
    judgeSync offered night synced s = closeActions night 2 (adopted offered s.nck) s := by
  unfold judgeSync
  rw [if_pos h, if_pos ((closePlace_iff _).mpr ⟨h7, hm⟩)]

theorem judgeSync_barred {s : State} {night : W16} {offered : W32} {synced : Bool}
    (h : s.nls.night.toNat < night.toNat) (hb : 7 ≤ s.jnc.staging.length ∨ s.jnc.seqCounter = 0xFFFFFFFF) :
    judgeSync offered night synced s = s := by
  unfold judgeSync
  rw [if_pos h, if_neg]
  rw [closePlace_iff]
  rintro ⟨h7, hm⟩
  exact hb.elim (fun h => absurd h7 (Nat.not_lt.mpr h)) hm

theorem judgeSync_adopts {s : State} {night : W16} {offered : W32} {synced : Bool} (h : night = s.nls.night)
    (hs : synced = true ∨ s.nck.synced = false) :
    judgeSync offered night synced s = { s with nck := adopted offered s.nck } := by
  unfold judgeSync
  rw [if_neg (by rw [h]; exact lt_irrefl _), if_pos ⟨h, hs⟩]

theorem judgeSync_answers {s : State} {night : W16} {offered : W32} {synced : Bool}
    (h : night.toNat < s.nls.night.toNat ∨ (night = s.nls.night ∧ synced = false ∧ s.nck.synced = true)) :
    judgeSync offered night synced s = queueSync s := by
  unfold judgeSync
  rcases h with h | ⟨h, h0, hs⟩
  · rw [if_neg (Nat.lt_asymm h), if_neg fun hn => absurd h (by rw [hn.1]; exact lt_irrefl _)]
  · rw [if_neg (by rw [h]; exact lt_irrefl _), if_neg]
    rw [h0, hs]
    exact fun h => h.2.elim Bool.noConfusion Bool.noConfusion

theorem queueSync_queues {s : State} (h : s.lkc.hasSync = false) :
    queueSync s = queueFrame (.sync s.nck.clock s.nls.night s.nck.synced) s :=
  if_neg (by rw [h]; exact Bool.false_ne_true)

/-- R59, R141: a SYNC that closes the night, and the end of its step. -/
theorem syncCloses {s : State} (night : W16) (offered : W32) (hp : s.phase = .service) (hs : Settled s)
    (hn : NoReadWaits s) :
    let nck := adopted offered s.nck
    let u : State := { s with nls := { entries := [], night := night, closeSinceStart := true }, nck := nck }
    let t := settleStep (restartSync (closeActions night 2 nck s))
    t.nck = { nck with syncTimer := some (syncLength u) } ∧
    RecordTaken (plainRecord u 7 2) u { t with nck := nck } := by
  intro nck u t
  have k := closeActions_taken night 2 nck hp hs hn
  have op := askGeneral_op (closeRecord 2 s.straps.shf) u
  have ht : t = { settleStep (closeActions night 2 nck s) with
      nck := { nck with syncTimer := some (syncLength u) } } := by
    have hr : restartSync (closeActions night 2 nck s) = { closeActions night 2 nck s with
        nck := { nck with syncTimer := some (syncLength u) } } := restartSync_eq op.nck op.cfg op.straps
    show settleStep (restartSync (closeActions night 2 nck s)) = _
    rw [hr]
    exact settleStep_nck _ (op.hatchShut hs.hatchShut) (hs.tareRight.congr (congrArg (·.state) op.csq)
      (congrArg (·.holds.weigh) op.csq) (congrArg (·.hatch) op.csq) (congrArg (·.homeActive) op.rct) op.wch)
  rw [ht]
  refine ⟨rfl, ?_⟩
  generalize settleStep (closeActions night 2 nck s) = v at k
  have hv : v.nck = nck := congrArg (·.nck) k.frame
  rw [← hv]
  exact k

/-- Settles O53: SYNC taken (R59 to R63, R139 to R143). -/
theorem syncTaken : Obligations.SyncTaken := by
  intro elapsed clock night flag rest s hr hp ha hl hages hrx left length adopted' kept
  have hset (n : NightClock) : Settled { s with lkc := left, nck := n } :=
    hr.2.transfer rfl rfl rfl rfl rfl Iff.rfl rfl
  have hx := exec_syncTaken (elapsed := elapsed) hrx
  rw [takeRx_eq hrx] at hx
  let u : State := { s with lkc := left }
  refine ⟨fun h0 h1 => ?_, fun hf => ⟨fun hlt h7 hm => ?_, fun hlt h => ?_, fun hn hfl => ?_, fun h => ⟨fun hq => ?_, fun hq => ?_⟩⟩⟩
  · rw [hx, show takeSync elapsed clock night flag u = u from if_neg fun h => h.elim h0 h1]
    exact running_of_settled hr.1 (hset s.nck)
  all_goals rw [takeSync_valid hf] at hx
  · obtain ⟨hnck, k⟩ := syncCloses (s := u) night (clock + elapsed) hp (hset s.nck) ha.noReadWaits
    rw [judgeSync_closes (by exact hlt) (by exact h7) (by exact hm), running_eq hr.1] at hx
    refine ⟨_, hx, ?_⟩
    generalize settleStep _ = t at hnck k ⊢
    have hfr := k.frame
    refine ⟨hnck, congrArg (·.nls) hfr, ?_, ?_, k.link, k.csq, k.holds, k.state, k.journal⟩
    · exact k.asked.trans (if_pos ⟨h7, hm⟩)
    · rw [show t.nls = _ from congrArg (·.nls) hfr]
      exact congrArg (fun x : State => { x with nck := t.nck }) hfr
  · rw [hx, judgeSync_barred (by exact hlt) (by exact h)]
    exact running_of_settled hr.1 (hset _)
  · rw [hx, judgeSync_adopts (by exact hn) (by exact hfl.imp_left beq_iff_eq.mpr)]
    exact running_of_settled hr.1 (hset _)
  all_goals
    have hb : night.toNat < u.nls.night.toNat ∨ (night = u.nls.night ∧ (flag == 1) = false ∧ u.nck.synced = true) :=
      h.imp_right fun ⟨hn, h0, hs⟩ => ⟨hn, by rw [h0]; rfl, hs⟩
    rw [judgeSync_answers hb] at hx
  · rw [hx, show queueSync u = u from if_pos hq]
    exact running_of_settled hr.1 (hset _)
  · have hlu : LinkRight u := by
      have h := linkRight_takeRx hl
      rwa [takeRx_eq hrx] at h
    rw [queueSync_queues (s := u) hq] at hx
    obtain ⟨-, hframe⟩ := running_queueFrame (c := .sync s.nck.clock s.nls.night s.nck.synced) (u := u) hr.1 (hset s.nck)
      hlu hages rfl (by simp [TxFrame.kindCode])
    have hqueued := queueFrame_queued (c := .sync s.nck.clock s.nls.night s.nck.synced) (s := u)
      hlu hages (fun h => nomatch h) rfl
    have op := queueFrame_op (.sync s.nck.clock s.nls.night s.nck.synced) u
    rw [restartSync_eq op.nck op.cfg op.straps] at hx
    have hrun := running_of_settled (s := s) hr.1 ((op.settled (hset s.nck)).transfer
      (t := { queueFrame (.sync s.nck.clock s.nls.night s.nck.synced) u with nck := kept }) rfl rfl rfl rfl rfl Iff.rfl rfl)
    refine ⟨_, hx.trans hrun, ?_, hqueued⟩
    exact congrArg (fun x : State => { x with nck := kept }) hframe

/-! ## The records that serve a READ_JOURNAL (R145, R164) -/

theorem insertBySeq_perm (r : Nat × Record) (l : List (Nat × Record)) : (insertBySeq r l).Perm (r :: l) := by
  induction l with
  | nil => exact .refl _
  | cons q l ih =>
    unfold insertBySeq
    split
    · exact .refl _
    · exact (ih.cons q).trans (.swap r q l)

theorem sortBySeq_perm (l : List (Nat × Record)) : (sortBySeq l).Perm l := by
  induction l with
  | nil => exact .refl _
  | cons r l ih => exact (insertBySeq_perm r _).trans (ih.cons r)

/-- The order of sequence numbers in which records are read out. -/
def SeqOrdered (l : List (Nat × Record)) : Prop := l.Pairwise (fun a b => a.2.seq.toNat ≤ b.2.seq.toNat)

theorem insertBySeq_ordered {r : Nat × Record} {l : List (Nat × Record)} (h : SeqOrdered l) :
    SeqOrdered (insertBySeq r l) := by
  induction l with
  | nil => exact List.pairwise_singleton _ _
  | cons q l ih =>
    obtain ⟨hq, hl⟩ := List.pairwise_cons.mp h
    unfold insertBySeq
    split
    · next hle =>
      exact List.pairwise_cons.mpr
        ⟨fun a ha => (List.mem_cons.mp ha).elim (fun h => h ▸ hle) fun h => hle.trans (hq a h), h⟩
    · next hlt =>
      refine List.pairwise_cons.mpr ⟨fun a ha => ?_, ih hl⟩
      rcases List.mem_cons.mp ((insertBySeq_perm r l).mem_iff.mp ha) with rfl | ha
      · omega
      · exact hq a ha

theorem sortBySeq_ordered (l : List (Nat × Record)) : SeqOrdered (sortBySeq l) := by
  induction l with
  | nil => exact List.Pairwise.nil
  | cons r l ih => exact insertBySeq_ordered ih

/-- R145: a slot holds one record. -/
theorem journalRecords_nodup (m : List Host.Cell) : (journalRecords m).Nodup := by
  refine List.Nodup.filterMap (fun n k r hn hk => ?_) List.nodup_range
  obtain ⟨a, -, rfl⟩ := Option.mem_map.mp hn
  obtain ⟨b, -, hb⟩ := Option.mem_map.mp hk
  exact (congrArg Prod.fst hb).symm

/-- R145: with no page in erase every valid record is retained. -/
theorem retainedRecords_of_idle {s : State} (h : s.jnc.array = .idle) : retainedRecords s = journalRecords s.flash := by
  unfold retainedRecords erasingPage
  rw [h]
  exact List.filter_eq_self.mpr fun _ _ => rfl

/-- R164: the records that serve a request are the first of the late ones in the order of their sequence numbers. -/
theorem take_ordered {l : List (Nat × Record)} (h : SeqOrdered l) (hn : l.Nodup) (k : Nat) :
    (l.take k).Nodup ∧ SeqOrdered (l.take k) ∧ (∀ r ∈ l.take k, r ∈ l) ∧ (l.take k).length = min k l.length ∧
    (∀ q ∈ l, q ∉ l.take k → ∀ r ∈ l.take k, r.2.seq.toNat ≤ q.2.seq.toNat) := by
  refine ⟨hn.sublist (List.take_sublist k l), h.sublist (List.take_sublist k l), fun r hr => List.mem_of_mem_take hr,
    List.length_take, fun q hq hnq r hr => ?_⟩
  rw [← List.take_append_drop k l] at h hq
  exact (List.pairwise_append.mp h).2.2 r hr q ((List.mem_append.mp hq).resolve_left hnq)

/-- R164: the late records of an idle array, in order. -/
def lateRecords (req : ReadReq) (m : List Host.Cell) : List (Nat × Record) :=
  (sortBySeq (journalRecords m)).filter (fun r => decide (req.from_.toNat ≤ r.2.seq.toNat))

theorem lateRecords_perm (req : ReadReq) (m : List Host.Cell) :
    (lateRecords req m).Perm ((journalRecords m).filter (fun r => decide (req.from_.toNat ≤ r.2.seq.toNat))) :=
  (sortBySeq_perm _).filter _

/-- R163, R164: a READ_JOURNAL served by an idle array. -/
theorem serveRead_served {req : ReadReq} {s : State} (hi : s.jnc.array = .idle) (hl : LinkRight s) (ha : AgesRight s) :
    ReadServed req s.flash s.lkc (serveRead req s).lkc := by
  have hsel : selectRecords s req = (lateRecords req s.flash).take (readCount req.count) := by
    unfold selectRecords lateRecords
    rw [retainedRecords_of_idle hi]
  have hperm := lateRecords_perm req s.flash
  have hnodup : (lateRecords req s.flash).Nodup := hperm.nodup_iff.mpr ((journalRecords_nodup _).filter _)
  have hord : SeqOrdered (lateRecords req s.flash) := (sortBySeq_ordered _).filter _
  obtain ⟨hn, ho, hm, hlen, hmin⟩ := take_ordered hord hnodup (readCount req.count)
  generalize hlate : (journalRecords s.flash).filter (fun r => decide (req.from_.toNat ≤ r.2.seq.toNat)) = late at hperm
  unfold ReadServed
  dsimp only
  rw [hlate]
  refine ⟨fun he => ?_, fun he => ⟨selectRecords s req, ?_⟩⟩
  · have hs : selectRecords s req = [] := by
      rw [he] at hperm
      rw [hsel, hperm.eq_nil, List.take_nil]
    simp only [serveRead, hs]
    exact queueFrame_queued hl ha (fun h => nomatch h) rfl
  · have hf : serveRead req s = (selectRecords s req).foldl
        (fun t r => queueFrame (.journal req.source (slotBytes s.flash r.1)) t) s := by
      have hne : selectRecords s req ≠ [] := by
        rw [hsel, ← List.length_pos_iff, List.length_take, hperm.length_eq]
        have hpos := List.length_pos_iff.mpr he
        unfold readCount
        omega
      unfold serveRead
      split
      · next h => exact absurd h hne
      · rfl
    rw [hf, hsel]
    exact ⟨hn, ho, fun r hr => hperm.mem_iff.mp (hm r hr), by rw [hlen, hperm.length_eq]; rfl,
      fun q hq => hmin q (hperm.mem_iff.mpr hq), foldl_framesQueued _ (fun _ => rfl) (fun _ _ => rfl) _ hl ha⟩

/-- R90, R104: once a frame has been queued the link is not FREE. -/
theorem FrameQueued.not_free {c : TxFrame} {l m : Link} (h : FrameQueued c l m) (h8 : l.queue.length ≤ 8)
    (hf : l.phase = .free → l.queue = []) : m.phase ≠ .free := by
  obtain ⟨hjoin, hstart, hfull⟩ := h
  by_cases hp : l.phase = .free
  · rcases hstart (by rw [hf hp]; decide) hp with h | h <;> rw [h] <;> exact fun h => nomatch h
  · rcases Nat.lt_or_ge l.queue.length 8 with hlt | hge
    · rw [hjoin hlt hp]
      exact hp
    · obtain ⟨e, -, hless, hmore⟩ := hfull (by omega)
      rcases Nat.lt_or_ge c.kindCode.toNat e.content.kindCode.toNat with h | h
      · rw [hless h]
        exact hp
      · rw [hmore h]
        exact hp

/-- R104, R105: frames of a less urgent kind than CLAIM, queued one after another, leave the coordinator, and the first
of them alone may be started. -/
theorem foldl_queueFrame_quiet {α : Type} (f : α → TxFrame) (hf : ∀ a, (f a).isClaim = false)
    (hk : ∀ a, 0x20 ≤ (f a).kindCode.toNat) (hs : ∀ a u, loadedContent u (f a) = f a) (l : List α) {s : State}
    (hl : LinkRight s) (ha : AgesRight s) :
    (l.foldl (fun t r => queueFrame (f r) t) s).shc = s.shc ∧
    (l.foldl (fun t r => queueFrame (f r) t) s).draws =
      if l ≠ [] ∧ s.lkc.phase = .free then s.draws + 1 else s.draws := by
  induction l generalizing s with
  | nil => exact ⟨rfl, (if_neg fun h => h.1 rfl).symm⟩
  | cons a l ih =>
    have hq := queueFrame_queued hl ha (fun h => absurd ((hf a).symm.trans h) Bool.noConfusion) (hs a s)
    obtain ⟨h1, h2⟩ := hq.keeps hl ha (fun h => absurd ((hf a).symm.trans h) Bool.noConfusion) (queueFrame_op _ _).rx
    obtain ⟨hshc, hdraws⟩ := ih h1 h2
    have hbusy : (queueFrame (f a) s).lkc.phase ≠ .free := hq.not_free hl.2.1 hl.2.2.2
    rw [List.foldl_cons, hshc, hdraws, if_neg fun h => hbusy h.2, queueFrame_draws hl (hf a),
      queueFrame_shc hl ha (hf a) (hk a)]
    simp

/-- R163, R164: what the serving of a READ_JOURNAL changes: the link, and one free value in FREE. -/
theorem serveRead_frame {req : ReadReq} {s : State} (hl : LinkRight s) (ha : AgesRight s) : serveRead req s = { s with
    lkc := (serveRead req s).lkc, draws := if s.lkc.phase = .free then s.draws + 1 else s.draws } := by
  have hquiet : (serveRead req s).shc = s.shc ∧
      (serveRead req s).draws = if s.lkc.phase = .free then s.draws + 1 else s.draws := by
    unfold serveRead
    split
    · exact ⟨queueFrame_shc hl ha rfl (by simp [TxFrame.kindCode]), queueFrame_draws hl rfl⟩
    · next hne =>
      obtain ⟨hs, hd⟩ := foldl_queueFrame_quiet (fun r : Nat × Record => TxFrame.journal req.source (slotBytes s.flash r.1))
        (fun _ => rfl) (fun _ => by simp [TxFrame.kindCode]) (fun _ _ => rfl) (selectRecords s req) hl ha
      refine ⟨hs, hd.trans ?_⟩
      exact if_congr (and_iff_right hne) rfl rfl
  conv_lhs => rw [(serveRead_op req s).frame, hquiet.1, hquiet.2, serveRead_csq]

/-! ## AUDIT_MARK, READ_JOURNAL and CONFIG_WRITE (R154, R161, R163, R171) -/

theorem exec_auditMark {s : State} {m : W32} {rest : List RxMsg} (h : s.lkc.rx = .auditMark m :: rest) :
    exec .auditMark s = running s (takeAuditMark m (takeRx s)) := by
  simp only [exec, execAuditMark, h, List.head?_cons]

theorem exec_readJournal {s : State} {source count : Byte} {first : W32} {rest : List RxMsg}
    (h : s.lkc.rx = .readJournal source first count :: rest) : exec .readJournal s =
      running s (takeReadJournal { source := source, from_ := first, count := count } (takeRx s)) := by
  simp only [exec, execReadJournal, h, List.head?_cons]

theorem exec_configWrite {s : State} {offset : Byte} {data : List Byte} {rest : List RxMsg}
    (h : s.lkc.rx = .configWrite offset data :: rest) : exec .configWrite s = running s (giveArray s) := by
  simp only [exec, execConfigWrite, h, List.head?_cons]

/-- R161: the mark that an AUDIT_MARK sets. -/
theorem clampMark_toNat (s : State) (m : W32) : (clampMark s m).toNat = min m.toNat s.jnc.newest.toNat := by
  unfold clampMark
  split <;> omega

/-- R154: an idle array at which no READ_JOURNAL waits. -/
theorem giveArray_of_idle {s : State} (hp : s.phase = .service) (hi : s.jnc.array = .idle) (hn : s.jnc.pendingRead = none) :
    giveArray s = giveOperation s := by
  unfold giveArray servePending
  rw [if_pos ⟨hp, hi⟩, hn]

theorem giveArray_of_busy {s : State} (hi : s.jnc.array ≠ .idle) : giveArray s = s := if_neg fun h => hi h.2

/-- Settles O57: AUDIT_MARK, READ_JOURNAL and CONFIG_WRITE at the head of the receive queue (R154, R161, R163, R164,
R171). -/
theorem journalFramesTaken : Obligations.JournalFramesTaken := by
  refine ⟨fun m rest s hr hp ha hrx => ?_, fun source count first rest s hr hl hages hrx => ⟨fun hi => ?_, fun hi => ?_⟩,
    fun offset data rest s hr hp hrx => ?_⟩
  · intro mark
    have hm : (clampMark s m).toNat = mark := clampMark_toNat s m
    have hset : Settled (takeRx s) := hr.2.transfer rfl rfl rfl rfl rfl Iff.rfl rfl
    refine ⟨fun h => ?_, fun h => ?_⟩
    · have hx : takeAuditMark m (takeRx s) = takeRx s := if_pos (by exact hm.le.trans h)
      rw [exec_auditMark hrx, hx, running_takeRx hr hrx]
    · let u : State := { takeRx s with jnc := { s.jnc with auditMark := clampMark s m } }
      have hx : takeAuditMark m (takeRx s) = giveArray (askGeneral (auditRecord (clampMark s m) s.straps.shf) u) :=
        if_neg (by exact fun hle => absurd (hm ▸ hle) (Nat.not_le.mpr h))
      obtain ⟨w, hasked, hquiet⟩ := askGeneral_given (u := u) (req := auditRecord (clampMark s m) s.straps.shf) hp
        (by simp [auditRecord, RecordReq.blank]) hr.2.hatchShut (hr.2.tareRight.congr rfl rfl rfl rfl rfl)
      rw [stamped_general _ (by simp [auditRecord, RecordReq.blank]) rfl] at hasked
      obtain ⟨hshc, hdraws, hjnc, hlink⟩ := hquiet ha.noReadWaits
      refine ⟨_, by rw [exec_auditMark hrx, hx, running_eq hr.1], ?_⟩
      generalize settleStep _ = t at *
      have hmark : t.jnc.auditMark = clampMark s m := congrArg (·.auditMark) hjnc.1
      refine ⟨by rw [hmark, hm], congrArg (·.newest) hjnc.1, ?_, ?_, ?_, w.csq, w.holds, w.state, ?_⟩
      · rwa [show BitVec.ofNat 32 mark = clampMark s m by rw [← hm, BitVec.ofNat_toNat, BitVec.setWidth_eq]]
      · have hf := w.frame
        rw [hshc, hdraws] at hf
        exact hf
      · rwa [show u.lkc = _ from congrArg (·.lkc) (takeRx_eq hrx)] at hlink
      · rw [hmark]
        exact hjnc
  · have hx : takeReadJournal { source := source, from_ := first, count := count } (takeRx s) =
        { takeRx s with jnc := { s.jnc with
            pendingRead := some { source := source, from_ := first, count := count } } } := if_neg hi
    rw [exec_readJournal hrx, hx, takeRx_eq hrx]
    exact running_of_settled hr.1 (hr.2.transfer rfl rfl rfl rfl rfl Iff.rfl rfl)
  · let u : State := { s with lkc := { s.lkc with rx := rest, holding := false } }
    have hlu : LinkRight u := by
      have h := linkRight_takeRx hl
      rwa [takeRx_eq hrx] at h
    have hx : exec .readJournal s = running s (serveRead { source := source, from_ := first, count := count } u) := by
      rw [exec_readJournal hrx, takeRx_eq hrx]
      exact congrArg (running s) (if_pos hi)
    have hset : Settled u := hr.2.transfer rfl rfl rfl rfl rfl Iff.rfl rfl
    have hframe := serveRead_frame (req := { source := source, from_ := first, count := count }) hlu hages
    have hserved := serveRead_served (req := { source := source, from_ := first, count := count }) (s := u) hi hlu hages
    refine ⟨_, hx.trans (running_of_settled hr.1 ((serveRead_op _ u).settled hset)), ?_, hserved⟩
    generalize serveRead _ u = t at hframe ⊢
    rw [hframe]
  · rw [exec_configWrite hrx]
    refine ⟨fun hi => ?_, fun hi hn he => ?_, fun hi hn he => ?_⟩
    · rw [giveArray_of_busy hi, running_self hr]
    · rw [giveArray_of_idle hp hi hn, giveOperation, if_pos he]
      exact running_of_settled hr.1 (hr.2.transfer rfl rfl rfl rfl rfl Iff.rfl rfl)
    · have hg : giveOperation s = { takeRx s with jnc := { s.jnc with array := .info offset data } } := by
        unfold giveOperation
        rw [if_neg (by rw [he]; exact Bool.false_ne_true), hrx]
        rfl
      rw [giveArray_of_idle hp hi hn, hg, takeRx_eq hrx]
      exact running_of_settled hr.1 (hr.2.transfer rfl rfl rfl rfl rfl Iff.rfl rfl)

end Sys2Proof.Machine
end

section
/-! PROOFS. The entry to FAULT (O24). -/

namespace Sys2Proof.Machine

/-! ## Frames queued outside CLAIM (R104, R105) -/

theorem txCandidate_mem {l : Link} {e : TxEntry} (h : txCandidate l = some e) : e ∈ l.queue :=
  (List.mem_filter.mp (txLast_mem h)).1

/-- R105, R118: a CLAIM that loses its place starts the retry interval in CLAIM only; otherwise, and where none stands in
the queue, the sequencer stays as it is. -/
theorem queueFrame_csq_unsought {c : TxFrame} {s : State} (hc : c.isClaim = false)
    (hs : s.csq.state ≠ .claim ∨ s.lkc.hasClaim = false) : (queueFrame c s).csq = s.csq := by
  have hjoin (u : State) : (joinQueue c u).csq = u.csq := by
    have hst (v : State) : (startIfFree v).csq = v.csq := by
      unfold startIfFree
      split
      · rw [startFrame_frame]
      · rfl
    exact hst _
  unfold queueFrame refuseQueue
  simp only [hc, Bool.false_and, Bool.false_eq_true, if_false]
  split
  · exact hjoin s
  · split
    · rfl
    · next e he =>
      split
      · unfold replaceEntry
        refine (hjoin _).trans ?_
        split
        · next hce =>
          have hst : s.csq.state ≠ .claim := hs.resolve_right fun h =>
            List.any_eq_false.mp h e (txCandidate_mem he) hce
          unfold claimRefusedAtQueue
          rw [if_neg fun h => hst h.1]
          rfl
        · rfl
      · rfl

theorem giveUpClaim_csq (s : State) : (giveUpClaim s).csq = s.csq := by
  unfold giveUpClaim withdrawClaim
  split
  · rfl
  · rfl
  · rfl
  · split <;> rfl
  · rfl

theorem giveUpClaim_draws (s : State) : (giveUpClaim s).draws = s.draws := by
  unfold giveUpClaim withdrawClaim
  split
  · rfl
  · rfl
  · rfl
  · split <;> rfl
  · rfl

/-! ## A record asked for, before the end of the step (R149 to R151, R154) -/

/-- From u to a a record has been asked for: the rest stays, but for the journal controller's own work. -/
structure RecordWorked (u a : State) : Prop where
  frame : a = { u with csq := a.csq, lkc := a.lkc, jnc := a.jnc }
  csq : a.csq = { u.csq with holds := a.csq.holds }
  holds : SameHoldsButJournal u.csq.holds a.csq.holds
  link : LinkKept u.lkc a

theorem JournalOp.recordWorked {u a : State} (op : JournalOp u a) (hr : a.csq.retry = u.csq.retry) (k : HeadOp u a)
    (hn : NoReadWaits u) : RecordWorked u a :=
  ⟨op.frame_quiet hn, (op.csq_kept hr).1, (op.csq_kept hr).2, op.linkKept k hn⟩

theorem askGeneral_worked (req : RecordReq) {u : State} (hn : NoReadWaits u) : RecordWorked u (askGeneral req u) :=
  (askGeneral_op req u).recordWorked (askGeneral_retry req u) (askGeneral_head req u) hn

theorem askBag_worked (req : RecordReq) {u : State} (hn : NoReadWaits u) : RecordWorked u (askBag req u) :=
  (askBag_op req u).recordWorked (askBag_retry req u) (askBag_head req u) hn

/-! ## The end of the coordinator's hold at a fault (R24, R126) -/

/-- R24: the entry to FAULT up to the coordinator's part. -/
def faultBegun (s : State) : State :=
  enterState .fault (abandonCheck s.csq.state (stopSequencer { s with rct := s.rct.stop }))

theorem enterFault_eq (r : FaultReason) (s : State) : enterFault r s =
    askGeneral (faultRecord r s.csq.state s.csq.bag s.straps.shf) (endHoldForFault s.csq.state (faultBegun s)) := rfl

/-- R24, R121, R126: from s to v the coordinator's hold has ended for a fault entered from `origin`. -/
structure HoldEnded (origin : SeqState) (s v : State) : Prop where
  frame : v = { s with lkc := v.lkc, shc := v.shc, draws := v.draws }
  rx : v.lkc.rx = s.lkc.rx
  holding : v.lkc.holding = s.lkc.holding
  tallies : v.shc.tallies = s.shc.tallies
  released : selfHeld s = true → ownView v = .free ∧ v.shc.holdAge.get s.straps.shf = none ∧
    OtherViewsKept s.straps.shf s v ∧ FrameQueued (.release s.straps.shf .fault) s.lkc v.lkc ∧
    ClaimAfterQueuing (.release s.straps.shf .fault) s v ∧
    v.draws = (if s.lkc.phase = .free then s.draws + 1 else s.draws)
  kept : selfHeld s = false → v.shc.views = s.shc.views ∧ v.shc.holdAge = s.shc.holdAge ∧
    v.lkc = { s.lkc with queue := v.lkc.queue } ∧ v.draws = s.draws ∧
    (origin = .claim → ClaimGivenUp s v) ∧ (origin ≠ .claim → ClaimAs s.shc v ∧ v.lkc.queue = s.lkc.queue)

/-- R126: a RELEASE of the own shaft. -/
theorem releaseShaft_ended {r : ReleaseReason} {s : State} (hl : LinkRight s) (ha : AgesRight s)
    (hs : s.csq.state ≠ .claim ∨ s.lkc.hasClaim = false) :
    let v := releaseShaft r s
    v = { s with lkc := v.lkc, shc := v.shc, draws := if s.lkc.phase = .free then s.draws + 1 else s.draws } ∧
    v.lkc.rx = s.lkc.rx ∧ v.lkc.holding = s.lkc.holding ∧ v.shc.tallies = s.shc.tallies ∧
    ownView v = .free ∧ v.shc.holdAge.get s.straps.shf = none ∧ OtherViewsKept s.straps.shf s v ∧
    FrameQueued (.release s.straps.shf r) s.lkc v.lkc ∧ ClaimAfterQueuing (.release s.straps.shf r) s v := by
  intro v
  let u : State := setView s.straps.shf .free none s
  have op : QueueOp u v := queueFrame_op _ u
  have hcsq : v.csq = s.csq := queueFrame_csq_unsought (s := u) rfl hs
  obtain ⟨hv, hage, hothers⟩ := setView_get s.straps.shf .free none s
  refine ⟨?_, op.rx, op.holding, op.tallies, ?_, ?_, ?_, queueFrame_queued (s := u) hl ha (fun h => nomatch h) rfl,
    queueFrame_claim (s := u) hl ha rfl⟩
  · have hd : v.draws = if s.lkc.phase = .free then s.draws + 1 else s.draws := queueFrame_draws (s := u) hl rfl
    have hf := op.frame
    rw [show ({ u.csq with retry := v.csq.retry } : Sequencer) = s.csq by rw [hcsq]; rfl, hd] at hf
    exact hf
  · unfold ownView
    rw [op.views, op.straps]
    exact hv
  · rw [op.holdAge]
    exact hage
  · unfold OtherViewsKept
    rw [op.views, op.holdAge]
    exact hothers

theorem endHoldForFault_ended {o : SeqState} {s : State} (hl : LinkRight s) (ha : AgesRight s)
    (hs : s.csq.state ≠ .claim) : HoldEnded o s (endHoldForFault o s) := by
  unfold endHoldForFault
  cases hself : selfHeld s with
  | true =>
    obtain ⟨hframe, hrx, hh, ht, hv, hage, hothers, hq, hc⟩ := releaseShaft_ended (r := .fault) hl ha (.inl hs)
    have hd := congrArg (·.draws) hframe
    generalize releaseShaft .fault s = v at *
    rw [if_pos rfl]
    exact
      { frame := by rw [hd]; exact hframe
        rx := hrx, holding := hh, tallies := ht
        released := fun _ => ⟨hv, hage, hothers, hq, hc, hd⟩
        kept := fun h => absurd (hself.symm.trans h) Bool.noConfusion }
  | false =>
    rw [if_neg Bool.false_ne_true]
    split
    · next ho =>
      have op := giveUpClaim_op s
      have hf := op.frame
      rw [giveUpClaim_csq] at hf
      exact
        { frame := hf, rx := op.rx, holding := op.holding, tallies := op.tallies
          released := fun h => absurd (hself.symm.trans h) Bool.noConfusion
          kept := fun _ => ⟨op.views, op.holdAge, giveUpClaim_lkc s, giveUpClaim_draws s, fun _ => giveUpClaim_givenUp s,
            fun h => absurd ho h⟩ }
    · next ho =>
      exact
        { frame := rfl, rx := rfl, holding := rfl, tallies := rfl
          released := fun h => absurd (hself.symm.trans h) Bool.noConfusion
          kept := fun _ => ⟨rfl, rfl, rfl, rfl, fun h => absurd h ho, fun _ => ⟨rfl, rfl⟩⟩ }

/-- In v the receive queue is that of l: with a record staged since, the link but for the receive queue is that of v. -/
theorem LinkKept.queued {l m : Link} {t : State} (h : LinkKept m t) (hr : m.rx = l.rx) (hh : m.holding = l.holding) :
    { t.lkc with rx := l.rx, holding := l.holding } = m ∧ HeadKept l t := by
  obtain ⟨hm, hk⟩ := h
  refine ⟨?_, ?_⟩
  · rw [hm, ← hr, ← hh]
  · rw [HeadKept, ← hr, ← hh]
    exact hk

/-- R36, R40: an abandoned weighing, whose tare interval timer does not run. -/
theorem tareStopped_abandoned {w : Weigh} (h : w.tareInterval = none) :
    tareStopped { w with activity := .idle, window := [], settle := none } =
      { w with activity := .idle, window := [], settle := none } := by
  cases w
  cases h
  rfl

theorem ClaimGivenUp.congr {s v t : State} (h : ClaimGivenUp s v) (hs : t.shc = v.shc) (hq : t.lkc.queue = v.lkc.queue) :
    ClaimGivenUp s t := by
  simp only [ClaimGivenUp, ClaimAs, ClaimWithdrawn, hs, hq] at h ⊢
  exact h

theorem ClaimAfterQueuing.congr {c : TxFrame} {s v t : State} (h : ClaimAfterQueuing c s v) (hs : t.shc = v.shc) :
    ClaimAfterQueuing c s t := by
  simp only [ClaimAfterQueuing, ClaimAs, hs] at h ⊢
  exact h

/-! ## FAULT (R24, R26, R40) -/

theorem faultBegun_frame (s : State) : faultBegun s = { s with
    csq := (faultBegun s).csq, wch := (faultBegun s).wch, tgi := (faultBegun s).tgi, rct := s.rct.stop
    lms := (faultBegun s).lms } := by
  unfold faultBegun abandonCheck
  split <;> rfl

theorem faultBegun_csq (s : State) : (faultBegun s).csq = { s.csq with
    state := .fault, lock := lockLine s.phase .fault, claimWait := none, accepted := none, retry := none
    homeLimit := none, turnLimit := none, fallWindow := none, landingSettle := none, weighed := none
    tagEnded := false, returnWait := false, awaiting := none } := by
  unfold faultBegun abandonCheck
  split <;> rfl

/-- R12, R53: a fault in CHECK abandons both windows, and any other none. -/
theorem faultBegun_windows (s : State) :
    (s.csq.state = .check →
      (faultBegun s).tgi = { s.tgi with windowOpen := false, windowTimer := none, readSet := [], firstRead := none } ∧
      (faultBegun s).wch = { s.wch with activity := .idle, window := [], settle := none }) ∧
    (s.csq.state ≠ .check → (faultBegun s).tgi = s.tgi ∧ (faultBegun s).wch = s.wch) := by
  unfold faultBegun abandonCheck
  refine ⟨fun h => ?_, fun h => ?_⟩
  · rw [if_pos h]
    exact ⟨rfl, rfl⟩
  · rw [if_neg h]
    exact ⟨rfl, rfl⟩

/-- R24: the bag that a FAULT record carries. -/
def faultBag (s : State) : PendingBag :=
  if s.csq.state = .claim ∨ s.csq.state = .turn ∨ s.csq.state = .fall then s.csq.bag else PendingBag.absent

theorem stamped_fault (s v : State) (r : FaultReason) :
    stamped v (faultRecord r s.csq.state s.csq.bag s.straps.shf) = generalRecord v 8 r.code (shaftByte s.straps.shf)
      (faultBag s).serial (faultBag s).account (faultBag s).bagType (faultBag s).mass 0xFFFF := by
  unfold faultRecord faultBag
  split <;> exact stamped_general v (by simp [RecordReq.blank]) rfl

/-- R24: the entry to FAULT up to the end of the step: the hold ended at the coordinator, and the FAULT record asked
for. -/
structure FaultTaken (r : FaultReason) (s v a : State) : Prop where
  ended : HoldEnded s.csq.state (faultBegun s) v
  worked : RecordWorked v a
  asked : RecordAsked (generalRecord s 8 r.code (shaftByte s.straps.shf) (faultBag s).serial (faultBag s).account
    (faultBag s).bagType (faultBag s).mass 0xFFFF) s a
  journal : JournalKept s.jnc a

theorem enterFault_taken {r : FaultReason} {s : State} (hp : s.phase = .service) (hl : LinkRight s) (ha : AgesRight s)
    (hn : NoReadWaits s) : ∃ v, FaultTaken r s v (enterFault r s) := by
  have hb := faultBegun_frame s
  have hcsq := faultBegun_csq s
  have ended : HoldEnded s.csq.state (faultBegun s) (endHoldForFault s.csq.state (faultBegun s)) :=
    endHoldForFault_ended (by rw [hb]; exact hl) (by rw [hb]; exact ha) (by rw [hcsq]; exact fun h => nomatch h)
  rw [enterFault_eq]
  generalize endHoldForFault s.csq.state (faultBegun s) = v at ended
  have hv := ended.frame
  rw [hb] at hv
  have hjnc : v.jnc = s.jnc := congrArg (·.jnc) hv
  have hnv : NoReadWaits v := by rw [NoReadWaits, hjnc]; exact hn
  have hpv : v.phase = .service := (congrArg (·.phase) hv).trans hp
  refine ⟨v, ended, askGeneral_worked _ hnv, ?_, ?_⟩
  · have hk : (faultRecord r s.csq.state s.csq.bag s.straps.shf).kind ≠ .unclaimed := by
      unfold faultRecord
      split <;> simp [RecordReq.blank]
    rw [RecordAsked, askGeneral_staging _ hpv (coalesces_eq_false hk v), stamped_fault, hv]
    rfl
  · have hj := askGeneral_journal (faultRecord r s.csq.state s.csq.bag s.straps.shf) hpv hnv
    rwa [hjnc] at hj

/-- R24, R40: the entry to FAULT and the end of its step, with the drum and the hatch as the event has left them. -/
theorem faultEntered {s : State} (r : FaultReason) (drum : Rotor) (h : Hatch) (hp : s.phase = .service) (hs : Settled s)
    (hl : LinkRight s) (ha : AgesRight s) (hn : NoReadWaits s) :
    let t := settleStep (enterFault r { s with rct := drum, csq := { s.csq with hatch := h } })
    FaultEntered r drum s t ∧ t.csq.hatch = h := by
  intro t
  let u : State := { s with rct := drum, csq := { s.csq with hatch := h } }
  obtain ⟨v, ended, worked, asked, journal⟩ := enterFault_taken (r := r) (s := u) hp hl ha hn
  have hv := ended.frame
  rw [faultBegun_frame u] at hv
  have hcsq : v.csq = _ := (congrArg (·.csq) hv).trans (faultBegun_csq u)
  have hstate : (enterFault r u).csq.state = .fault := by rw [worked.csq, hcsq]
  have ht : t = { enterFault r u with wch := tareStopped v.wch } := by
    have hw : (enterFault r u).wch = v.wch := congrArg (·.wch) worked.frame
    rw [← hw]
    exact settleStep_elsewhere (by rw [hstate]; decide) (by rw [hstate]; decide) (by rw [hstate]; exact fun h => nomatch h)
  rw [ht]
  rw [faultBegun_frame u] at ended
  obtain ⟨hcheck, helse⟩ := faultBegun_windows u
  generalize enterFault r u = a at *
  have hc := worked.csq
  rw [hcsq] at hc
  have hhatch : a.csq.hatch = h := congrArg (·.hatch) hc
  have haf := worked.frame
  rw [hv] at haf
  have hshc : a.shc = v.shc := congrArg (·.shc) worked.frame
  have hstraps : a.straps = v.straps := congrArg (·.straps) worked.frame
  have hdraws : a.draws = v.draws := congrArg (·.draws) worked.frame
  have hqueue : a.lkc.queue = v.lkc.queue := congrArg (·.queue) worked.link.1
  have hwch : v.wch = (faultBegun u).wch := congrArg (·.wch) hv
  have htgi : a.tgi = (faultBegun u).tgi := congrArg (·.tgi) haf
  obtain ⟨hlink, hhead⟩ := worked.link.queued ended.rx ended.holding
  refine ⟨⟨?_, ?_, asked, journal, fun hself => ?_, fun hself => ?_, fun hst => ?_, fun hst => ?_, ?_, ?_, ?_⟩, hhatch⟩
  · show a.csq = _
    rw [hhatch]
    refine hc.trans ?_
    show _ = { s.csq with
      state := .fault, lock := .low, hatch := h, holds := a.csq.holds, claimWait := none
      accepted := none, retry := none, homeLimit := none, turnLimit := none, fallWindow := none
      landingSettle := none, weighed := none, tagEnded := false, returnWait := false, awaiting := none }
    rw [show u.phase = .service from hp]
    rfl
  · rw [show ({ a with wch := tareStopped v.wch } : State).rct = drum.stop from congrArg (·.rct) haf]
    exact Rotor.stop_motorStopped drum
  · obtain ⟨hview, hage, hothers, hq, hclaim, hd⟩ := ended.released hself
    refine ⟨?_, ?_, ?_, ⟨?_, hhead⟩, hclaim.congr hshc, hdraws.trans hd⟩
    · rw [ownView] at hview ⊢
      show a.shc.views.get a.straps.shf = _
      rw [hshc, hstraps]
      exact hview
    · show a.shc.holdAge.get _ = _
      rw [hshc]
      exact hage
    · show ∀ i, _ → a.shc.views.get i = _ ∧ a.shc.holdAge.get i = _
      rw [hshc]
      exact hothers
    · rw [← hlink] at hq
      exact hq
  · obtain ⟨hviews, hage, hlk, hd, hgive, hkeep⟩ := ended.kept hself
    refine ⟨hshc ▸ hviews, hshc ▸ hage, ?_, hdraws.trans hd, fun hst => (hgive hst).congr hshc hqueue, fun hst => ?_⟩
    · have hk := worked.link
      rw [hlk, ← hqueue] at hk
      exact hk
    · obtain ⟨has, hq⟩ := hkeep hst
      refine ⟨?_, hqueue.trans hq⟩
      rw [ClaimAs] at has ⊢
      show a.shc = _
      rw [hshc]
      exact has
  · obtain ⟨htag, hweigh⟩ := hcheck hst
    obtain ⟨-, hnone⟩ := hs.no_tare (by rw [hst]; decide) (by rw [hst]; decide)
    refine ⟨htgi.trans htag, ?_⟩
    show tareStopped v.wch = _
    rw [hwch, hweigh]
    exact tareStopped_abandoned hnone
  · obtain ⟨htag, hweigh⟩ := helse hst
    refine ⟨htgi.trans htag, ?_⟩
    show tareStopped v.wch = _
    rw [hwch, hweigh]
    rfl
  · show a.shc.tallies = _
    rw [hshc]
    exact ended.tallies
  · have hh := worked.holds
    rw [hcsq] at hh
    exact hh
  · have hrct : a.rct = drum.stop := congrArg (·.rct) haf
    have hlms : a.lms = (faultBegun u).lms := congrArg (·.lms) haf
    have hwa : a.wch = (faultBegun u).wch := congrArg (·.wch) haf
    have hfr : a = { s with
        csq := a.csq, wch := a.wch, tgi := a.tgi, rct := a.rct, lkc := a.lkc, shc := a.shc, jnc := a.jnc
        lms := a.lms, draws := a.draws } := by
      rw [hwa, htgi, hrct, hlms, hshc, hdraws]
      exact haf
    exact congrArg (fun x : State => { x with wch := tareStopped v.wch }) hfr

/-- R24: as `faultEntered`, with the hatch as it was. -/
theorem faultEntered_drum {s : State} (r : FaultReason) (drum : Rotor) (hp : s.phase = .service) (hs : Settled s)
    (hl : LinkRight s) (ha : AgesRight s) (hn : NoReadWaits s) :
    FaultEntered r drum s (settleStep (enterFault r { s with rct := drum })) ∧
    (settleStep (enterFault r { s with rct := drum })).csq.hatch = s.csq.hatch := by
  have h := faultEntered r drum s.csq.hatch hp hs hl ha hn
  rwa [show ({ s with rct := drum, csq := { s.csq with hatch := s.csq.hatch } } : State) = { s with rct := drum } from rfl]
    at h

theorem faultEntered_still {s : State} (r : FaultReason) (hp : s.phase = .service) (hs : Settled s)
    (hl : LinkRight s) (ha : AgesRight s) (hn : NoReadWaits s) :
    FaultEntered r s.rct s (settleStep (enterFault r s)) ∧ (settleStep (enterFault r s)).csq.hatch = s.csq.hatch := by
  have h := faultEntered_drum r s.rct hp hs hl ha hn
  rwa [show ({ s with rct := s.rct } : State) = s from rfl] at h

/-- R8, R11, R26: once FAULT has been entered the end of the step judges the tare check alone. -/
theorem settleStep_faulted {s : State} (h : s.csq.state = .fault) : settleStep s = judgeTare s := by
  have hj : judgeHeld s = s := by
    unfold judgeHeld
    rw [h, if_neg (fun h => nomatch h.1), if_neg (fun h => nomatch h.1)]
  rw [settleStep_of_hatch (by rw [h]; exact fun k => k.elim (fun k => nomatch k) (fun k => nomatch k)), hj]

/-- R26: a hatch OPEN in a locked state is a forced hatch. -/
theorem settleStep_forced {s : State} (hj : judgeHeld s = s) (hl : s.csq.state.locked = true) (ho : s.csq.hatch = .opened) :
    settleStep s = settleStep (enterFault .hatchForced s) := by
  rw [settleStep_faulted (enterFault_spec _ s).1, settleStep, hj, judgeHatch, if_pos ⟨hl, ho⟩]

/-- R4, R26: a hatch that opens in a locked state. -/
theorem exec_hatchOpening_forced {s : State} (hr : Runs s) (hc : s.csq.hatch = .closed) (hl : s.csq.state.locked = true) :
    exec .hatchOpening s =
      .next (settleStep (enterFault .hatchForced { s with csq := { s.csq with hatch := .opened } })) := by
  let u : State := { s with csq := { s.csq with hatch := .opened } }
  have hn : ¬ (s.csq.state = .idle ∨ s.csq.state = .present) := by
    rintro (h | h) <;> rw [h] at hl <;> exact nomatch hl
  have hx : exec .hatchOpening s = running s u := by
    simp only [exec, execHatchOpening, hatchOpens, if_pos hc, if_neg hn]
    rfl
  have hj : judgeHeld u = u := by
    unfold judgeHeld
    rw [if_neg fun k => hn (.inl k.1), if_neg fun k => absurd ((hr.2.2.1 k.1).symm.trans k.2) Bool.noConfusion]
  rw [hx, running_eq hr.1, settleStep_forced hj hl rfl]

/-- R72, R77: a stop request at a motor that stands still. -/
theorem Rotor.stop_stop (r : Rotor) : r.stop.stop = r.stop := by
  have h : r.stop.mrun ≠ .high := Rotor.cutRun_mrun r
  unfold Rotor.stop Rotor.cutRun at h ⊢
  rw [if_neg h]

theorem enterFault_stopped (r : FaultReason) (s : State) (q : Rotor) :
    enterFault r { s with rct := q.stop } = enterFault r { s with rct := q } := by
  unfold enterFault
  dsimp only
  rw [Rotor.stop_stop]

/-- Settles O24: the entry to FAULT (R7, R20, R24, R26, R68). -/
theorem faultEntry : Obligations.FaultEntry := by
  intro c r s hr hp hl ha harr hcause
  have hkept (h : c ≠ .invalidTransition) : ({ s.rct with encRef :=
      if c = .invalidTransition then { ena := !s.rct.encRef.ena, enb := !s.rct.encRef.enb } else s.rct.encRef } : Rotor) =
        s.rct := by rw [if_neg h]
  rcases hcause with ⟨rfl, hc, hlk, rfl⟩ | ⟨rfl, hst, ht, rfl⟩ | ⟨rfl, hst, ht, rfl⟩ | ⟨rfl, hm, hst, rfl⟩
  · intro drum
    rw [show drum = s.rct from hkept (by decide), if_pos rfl]
    exact ⟨_, exec_hatchOpening_forced hr hc hlk, faultEntered .hatchForced s.rct .opened hp hr.2 hl ha harr.noReadWaits⟩
  · have hx : exec .turnLimitExpiry s = running s (enterFault .rotorStuck s) := congrArg (running s) (if_pos ⟨ht, hst⟩)
    intro drum
    rw [show drum = s.rct from hkept (by decide), if_neg (by decide)]
    exact ⟨_, hx.trans (running_eq hr.1), faultEntered_still _ hp hr.2 hl ha harr.noReadWaits⟩
  · have hx : exec .homeLimitExpiry s = running s (enterFault .homeLimit s) := congrArg (running s) (if_pos ⟨ht, hst⟩)
    intro drum
    rw [show drum = s.rct from hkept (by decide), if_neg (by decide)]
    exact ⟨_, hx.trans (running_eq hr.1), faultEntered_still _ hp hr.2 hl ha harr.noReadWaits⟩
  · intro drum
    have hd : drum = { s.rct with encRef := encOpposite s.rct.encRef } := by
      exact congrArg (fun p => { s.rct with encRef := p }) (if_pos rfl)
    have hx : exec .invalidTransition s = running s (enterFault .encoder { s with rct := drum.stop }) := by
      show running s (encoderSample (encOpposite s.rct.encRef) s) = _
      rw [encoderSample_invalid, invalidSample, if_neg (by exact hm), encoderError, if_pos hst, hd]
    rw [enterFault_stopped] at hx
    rw [if_neg (by decide)]
    exact ⟨_, hx.trans (running_eq hr.1), faultEntered_drum .encoder drum hp hr.2 hl ha harr.noReadWaits⟩

end Sys2Proof.Machine
end

section
/-! PROOFS. The end of a landing (O37) and of the fall window (O38). -/

namespace Sys2Proof.Machine

/-! ## A frame queued in the event of a record (R104, R105, R154) -/

/-- R154: the journal controller's work leaves the transmit queue in order. -/
theorem JournalOp.linkRight {u a : State} (op : JournalOp u a) (hn : NoReadWaits u) (hl : LinkRight u) : LinkRight a := by
  obtain ⟨-, -, -, -, hlk⟩ := op.quiet hn
  obtain ⟨n, hrx⟩ := op.rx
  obtain ⟨h4, h8, h1, hf⟩ := hl
  have hq : a.lkc.queue = u.lkc.queue := congrArg (·.queue) hlk
  have hp : a.lkc.phase = u.lkc.phase := congrArg (·.phase) hlk
  rw [LinkRight, hq, hp, hrx]
  exact ⟨by rw [List.length_drop]; omega, h8, h1, hf⟩

theorem JournalOp.agesRight {u a : State} (op : JournalOp u a) (hn : NoReadWaits u) (ha : AgesRight u) : AgesRight a := by
  obtain ⟨-, -, -, -, hlk⟩ := op.quiet hn
  rw [AgesRight, hlk]
  exact ha

/-- R104, R105: the receive queue plays no part in the queuing of a frame. -/
theorem FrameQueued.congr_rx {c : TxFrame} {l m k : Link} (h : FrameQueued c k m)
    (hk : k = { l with rx := k.rx, holding := k.holding }) :
    FrameQueued c l { m with rx := l.rx, holding := l.holding } := by
  obtain ⟨hjoin, hstart, hfull⟩ := h
  rw [hk] at hjoin hstart hfull
  refine ⟨fun h8 hp => ?_, fun h8 hp => ?_, fun h8 => ?_⟩
  · rw [hjoin h8 hp]
  · rcases hstart h8 hp with h | h <;> rw [h]
    · exact .inl rfl
    · exact .inr rfl
  · obtain ⟨e, hu, hless, hmore⟩ := hfull h8
    exact ⟨e, hu, fun h => by rw [hless h], fun h => by rw [hmore h]⟩

theorem ClaimAfterQueuing.of_link {c : TxFrame} {u a t : State} (h : ClaimAfterQueuing c a t) (hs : a.shc = u.shc)
    (hl : a.lkc = { u.lkc with rx := a.lkc.rx, holding := a.lkc.holding }) : ClaimAfterQueuing c u t := by
  rw [ClaimAfterQueuing, hl, hs] at h
  exact h

/-- From u to b a frame has been queued, with whatever else left the coordinator, the transmit queue and the free values
alone. -/
structure FrameSent (c : TxFrame) (u b : State) : Prop where
  queued : FrameQueued c u.lkc { b.lkc with rx := u.lkc.rx, holding := u.lkc.holding }
  claim : ClaimAfterQueuing c u b
  draws : b.draws = if u.lkc.phase = .free then u.draws + 1 else u.draws
  views : b.shc.views = u.shc.views
  holdAge : b.shc.holdAge = u.shc.holdAge
  tallies : b.shc.tallies = u.shc.tallies

/-- R104, R105: a frame queued in a, after work that has left the coordinator, the transmit queue and the free values of u
alone. -/
theorem frameSent {u a : State} {c : TxFrame} (hs : a.shc = u.shc) (hd : a.draws = u.draws)
    (hlk : a.lkc = { u.lkc with rx := a.lkc.rx, holding := a.lkc.holding }) (hla : LinkRight a) (haa : AgesRight a)
    (hc : c.isClaim = false) (hld : loadedContent a c = c) : FrameSent c u (queueFrame c a) := by
  have qop := queueFrame_op c a
  have hp : a.lkc.phase = u.lkc.phase := congrArg (·.phase) hlk
  exact
    { queued := (queueFrame_queued hla haa (fun h => absurd (hc.symm.trans h) Bool.noConfusion) hld).congr_rx hlk
      claim := (queueFrame_claim hla haa hc).of_link hs hlk
      draws := by rw [queueFrame_draws hla hc, hp, hd]
      views := by rw [qop.views, hs], holdAge := by rw [qop.holdAge, hs], tallies := by rw [qop.tallies, hs] }

/-- R104, R105: a frame queued after the journal controller's work, outside CLAIM. -/
theorem JournalOp.frameSent {u a : State} {c : TxFrame} (op : JournalOp u a) (hn : NoReadWaits u) (hl : LinkRight u)
    (ha : AgesRight u) (hc : c.isClaim = false) (hld : loadedContent a c = c) : FrameSent c u (queueFrame c a) := by
  obtain ⟨-, hs, hd, -, hlk⟩ := op.quiet hn
  exact Machine.frameSent hs hd hlk (op.linkRight hn hl) (op.agesRight hn ha) hc hld

/-- What follows without touching the coordinator, the transmit queue and the free values. -/
theorem FrameSent.trans {c : TxFrame} {u b t : State} (h : FrameSent c u b) (hs : t.shc = b.shc) (hd : t.draws = b.draws)
    (hl : t.lkc = { b.lkc with rx := t.lkc.rx, holding := t.lkc.holding }) : FrameSent c u t where
  queued := by rw [hl]; exact h.queued
  claim := h.claim.congr hs
  draws := hd.trans h.draws
  views := by rw [hs, h.views]
  holdAge := by rw [hs, h.holdAge]
  tallies := by rw [hs, h.tallies]

/-! ## HOME entered (R7, R39, R76) -/

theorem homeAsked_csq (s : State) : (homeAsked s).csq =
    { s.csq with homeLimit := some s.cfg.homeLimit, state := .home, lock := lockLine s.phase .home } := rfl

/-- What the entry to HOME leaves: all but the state with its lock and lamps, the home limit, the drum and the tare
interval. -/
structure HomeTaken (u t : State) : Prop where
  frame : t = { u with csq := t.csq, wch := t.wch, rct := t.rct, lms := t.lms }
  csq : t.csq = { u.csq with state := t.csq.state, lock := t.csq.lock, homeLimit := t.csq.homeLimit }

theorem enterHome_taken {u : State} (hp : u.phase = .service) (hc : u.csq.hatch = .closed)
    (ha : u.wch.activity ≠ .tare) (ht : u.wch.tareInterval = none) (s : State) (hw : s.wch = u.wch) (hcfg : s.cfg = u.cfg)
    (hweigh : s.csq.holds.weigh = u.csq.holds.weigh) :
    HomeTaken u (settleStep (enterHome u)) ∧ HomeEntered u.rct s (settleStep (enterHome u)) := by
  rw [enterHome_eq, if_neg (by rw [hc]; decide)]
  have hasked := Rotor.goHome_asked u.rct
  cases hh : u.rct.homeActive with
  | true =>
    rw [if_pos rfl]
    have hrct : (homeAsked u).rct = u.rct.goHome := rfl
    have hact : (homeAsked u).rct.homeActive = true := by
      rw [hrct, (hasked.1 hh)]
      exact hh
    rw [settleStep_homeReached (s := homeAsked u) hc hact ha ht]
    have hcsq : (homeReached (homeAsked u)).csq = { u.csq with
        homeLimit := none, state := if u.csq.holds.isEmpty then .idle else .held
        lock := if u.csq.holds.isEmpty then .high else .low } := by
      rw [homeReached_csq]
      show { u.csq with
        homeLimit := none, state := if u.csq.holds.isEmpty then .idle else .held
        lock := lockLine u.phase (if u.csq.holds.isEmpty then .idle else .held) } = _
      rw [hp]
      cases u.csq.holds.isEmpty <;> rfl
    refine ⟨⟨rfl, ?_⟩, hasked, fun h => absurd (hh.symm.trans h) Bool.noConfusion, fun _ => ?_, ?_⟩
    · show (homeReached (homeAsked u)).csq = _
      rw [hcsq]
    · show (homeReached (homeAsked u)).csq.homeLimit = _ ∧ (homeReached (homeAsked u)).csq.state = _ ∧
        (homeReached (homeAsked u)).csq.lock = _
      rw [hcsq]
      exact ⟨rfl, rfl, rfl⟩
    · show { u.wch with tareInterval := if u.csq.holds.weigh then none else some 2000 } = _
      rw [hw, hweigh, hh]
      cases u.csq.holds.weigh <;> rfl
  | false =>
    rw [if_neg Bool.false_ne_true,
      settleStep_elsewhere (s := homeAsked u) (fun h => nomatch h) (fun h => nomatch h) (fun _ => hc)]
    refine ⟨⟨rfl, rfl⟩, hasked, fun _ => ⟨rfl, ?_, ?_⟩, fun h => absurd (hh.symm.trans h) Bool.noConfusion, ?_⟩
    · show lockLine u.phase .home = _
      rw [hp]
      rfl
    · show some u.cfg.homeLimit = _
      rw [hcfg]
    · show tareStopped u.wch = _
      rw [hw, hh, if_neg fun h => nomatch h.1]
      unfold tareStopped
      rw [if_neg ha, if_neg ha]

/-! ## The own landing (R22, R124, R131, R132) -/

/-- R124, R131: the own tally with the bag of this landing. -/
def landedTally (s : State) : Tally :=
  { count := min 65535 ((ownTally s).count + 1), mass := min 4294967295 ((ownTally s).mass + s.csq.bag.mass.toNat) }

/-- R56, R124, R132: the coordinator and the night list with the own landing taken. -/
theorem takeOwnLanding_eq (s : State) : takeOwnLanding s = { s with
    csq := { s.csq with holds := { s.csq.holds with
      binFull := s.csq.holds.binFull || tallyFull s.cfg (landedTally s) } }
    nls := { s.nls with entries := addSerial s.nls.entries s.csq.bag.serial }
    shc := { s.shc with
      views := s.shc.views.set s.straps.shf .free, holdAge := s.shc.holdAge.set s.straps.shf none
      tallies := s.shc.tallies.set s.straps.shf (landedTally s) } } := by
  have hfull : ownFull (setView s.straps.shf .free none (giveSerial s.csq.bag.serial (setTally s.straps.shf
      (landedTally s) s))) = tallyFull s.cfg (landedTally s) := by
    unfold ownFull ownTally
    exact congrArg (tallyFull s.cfg) (Four.get_set_same ..)
  show raiseIfFull (setView s.straps.shf .free none (giveSerial s.csq.bag.serial (setTally s.straps.shf
    (landedTally s) s))) = _
  rw [raiseIfFull_frame, hfull]
  rfl

theorem ownTally_takeOwnLanding (s : State) : ownTally (takeOwnLanding s) = landedTally s := by
  rw [takeOwnLanding_eq]
  exact Four.get_set_same ..

/-- R22: the landing completed, step by step. -/
theorem completeLanding_eq (s : State) : completeLanding s =
    let u := takeOwnLanding { s with csq := { s.csq with landingSettle := none } }
    let b := queueFrame (landedFrame s.csq.bag (landedTally s) s.straps.shf)
      (askBag (depositRecord s.csq.bag (landedTally s).count s.straps.shf) u)
    enterHome { b with csq := { b.csq with accepted := some 5000 } } := by
  unfold completeLanding
  dsimp only
  rw [ownTally_takeOwnLanding]
  rfl

/-- R149, R150, R152: a bag record that is asked for with a place, or with none. -/
theorem askBag_placed (req : RecordReq) {u : State} (hn : NoReadWaits u) :
    (u.jnc.staging.length < 8 ∨ u.jnc.seqCounter = 0xFFFFFFFF → JournalKept u.jnc (askBag req u) ∧
      (askBag req u).jnc.staging = u.jnc.staging ++ (if u.jnc.seqCounter = 0xFFFFFFFF then [] else [stamped u req])) ∧
    (8 ≤ u.jnc.staging.length → u.jnc.seqCounter ≠ 0xFFFFFFFF →
      askBag req u = { u with jnc := { u.jnc with deferred := some req } }) := by
  refine ⟨fun h => ⟨askBag_journal req ?_ hn, ?_⟩, fun h8 hm => ?_⟩
  · simpa [bagPlace, seqMax] using h
  · rw [askBag_staging]
    by_cases hm : u.jnc.seqCounter = 0xFFFFFFFF
    · rw [if_neg fun k => k.2 hm, if_pos hm, List.append_nil]
    · rw [if_pos ⟨h.resolve_right hm, hm⟩, if_neg hm]
  · have hb : bagPlace u = false := by
      unfold bagPlace
      rw [decide_eq_false (Nat.not_lt.mpr h8), Bool.false_or]
      exact beq_eq_false_iff_ne.mpr hm
    exact if_neg (by rw [hb]; exact Bool.false_ne_true)

/-- R149: the stamp of a DEPOSIT record. -/
theorem stamped_deposit (u s : State) (bag : PendingBag) (n : Nat) (hj : u.jnc.seqCounter = s.jnc.seqCounter)
    (hn : u.nls.night = s.nls.night) (hc : u.nls.closeSinceStart = s.nls.closeSinceStart) (hk : u.nck = s.nck)
    (hs : u.straps = s.straps) : stamped u (depositRecord bag n s.straps.shf) = depositStamped s bag n := by
  unfold stamped depositStamped generalRecord depositRecord RecordReq.blank stampFlags State.ownByte
  dsimp only
  rw [hj, hn, hc, hk, hs]
  rfl

/-- R21, R22: what a landing has made of the part before HOME is entered, in the states u, with the landing taken, a,
with its DEPOSIT record asked for, and x, with its frame queued. -/
structure BagLanded (c : TxFrame) (u a x : State) : Prop where
  frame : x = { u with csq := x.csq, lkc := x.lkc, shc := x.shc, jnc := a.jnc, draws := x.draws }
  sent : FrameSent c u x
  head : HeadKept u.lkc x

theorem bagLanded {u : State} {c : TxFrame} {req : RecordReq} (hn : NoReadWaits u) (hl : LinkRight u) (ha : AgesRight u)
    (hc : c.isClaim = false) (hld : ∀ v, loadedContent v c = c) (hst : u.csq.state ≠ .claim) :
    BagLanded c u (askBag req u) (queueFrame c (askBag req u)) ∧
    (queueFrame c (askBag req u)).csq = { u.csq with holds := (queueFrame c (askBag req u)).csq.holds } ∧
    SameHoldsButJournal u.csq.holds (queueFrame c (askBag req u)).csq.holds := by
  have op := askBag_op req u
  have w := askBag_worked req hn
  have sent := op.frameSent hn hl ha hc (hld _)
  have hcsq : (queueFrame c (askBag req u)).csq = (askBag req u).csq :=
    queueFrame_csq_unsought hc (.inl (by rw [w.csq]; exact hst))
  have qop := queueFrame_op c (askBag req u)
  have hhead := ((askBag_head req u).trans qop.head).kept
  have hqf := qop.frame
  generalize askBag req u = a at *
  generalize queueFrame c a = x at *
  rw [hcsq]
  refine ⟨⟨?_, sent, hhead⟩, w.csq, w.holds⟩
  rw [hcsq] at hqf ⊢
  calc x = { a with csq := a.csq, lkc := x.lkc, shc := x.shc, draws := x.draws } := hqf
    _ = _ := congrArg (fun y : State => { y with csq := a.csq, lkc := x.lkc, shc := x.shc, jnc := a.jnc, draws := x.draws })
      w.frame

/-- R22: the landing of the own bag, to the end of the step. -/
theorem landingCompleted {s : State} (hp : s.phase = .service) (hst : s.csq.state ≠ .claim) (hc : s.csq.hatch = .closed)
    (htare : s.wch.activity ≠ .tare) (hint : s.wch.tareInterval = none) (hl : LinkRight s) (ha : AgesRight s)
    (hn : NoReadWaits s) :
    LandingCompleted s.rct s (settleStep (completeLanding s)) ∧
    (settleStep (completeLanding s)).csq.turnLimit = s.csq.turnLimit := by
  rw [completeLanding_eq]
  dsimp only
  have hu := takeOwnLanding_eq { s with csq := { s.csq with landingSettle := none } }
  generalize takeOwnLanding { s with csq := { s.csq with landingSettle := none } } = u at *
  have hnu : NoReadWaits u := by rw [hu]; exact hn
  obtain ⟨landed, hcsq, hholds⟩ := bagLanded (c := landedFrame s.csq.bag (landedTally s) s.straps.shf)
    (req := depositRecord s.csq.bag (landedTally s).count s.straps.shf) hnu (by rw [hu]; exact hl) (by rw [hu]; exact ha)
    rfl (fun _ => rfl) (by rw [hu]; exact hst)
  obtain ⟨hroom, hwait⟩ := askBag_placed (depositRecord s.csq.bag (landedTally s).count s.straps.shf) hnu
  generalize askBag (depositRecord s.csq.bag (landedTally s).count s.straps.shf) u = a at *
  generalize queueFrame (landedFrame s.csq.bag (landedTally s) s.straps.shf) a = b at *
  obtain ⟨hbf, sent, head⟩ := landed
  rw [stamped_deposit u s _ _ (by rw [hu]) (by rw [hu]) (by rw [hu]) (by rw [hu]) (by rw [hu])] at hroom
  subst hu
  have hframe : b = { s with
      csq := b.csq, lkc := b.lkc, shc := b.shc, jnc := a.jnc, draws := b.draws
      nls := { s.nls with entries := addSerial s.nls.entries s.csq.bag.serial } } := hbf
  have hbp : b.phase = .service := by rw [hframe]; exact hp
  have hbw : b.wch = s.wch := by rw [hframe]
  have hbc : b.cfg = s.cfg := by rw [hframe]
  have hbr : b.rct = s.rct := by rw [hframe]
  have hbh : b.csq.hatch = .closed := by rw [hcsq]; exact hc
  have hbwe : b.csq.holds.weigh = s.csq.holds.weigh := by rw [hholds]
  obtain ⟨⟨htf, htc⟩, home⟩ := enterHome_taken (u := { b with csq := { b.csq with accepted := some 5000 } }) hbp hbh
    (by rw [show _ = s.wch from hbw]; exact htare) (by rw [show _ = s.wch from hbw]; exact hint) s hbw.symm hbc.symm
    hbwe.symm
  generalize settleStep (enterHome { b with csq := { b.csq with accepted := some 5000 } }) = t at *
  have home : HomeEntered s.rct s t := by
    rw [← hbr]
    exact home
  have htx : t = { s with
      csq := t.csq, wch := t.wch, rct := t.rct, lms := t.lms, lkc := b.lkc, shc := b.shc, jnc := a.jnc
      draws := b.draws, nls := { s.nls with entries := addSerial s.nls.entries s.csq.bag.serial } } :=
    htf.trans (congrArg (fun x : State => { x with csq := t.csq, wch := t.wch, rct := t.rct, lms := t.lms }) hframe)
  have hjnc : t.jnc = a.jnc := by rw [htx]
  have hlkc : t.lkc = b.lkc := by rw [htx]
  have hshc : t.shc = b.shc := by rw [htx]
  have hnls : t.nls = { s.nls with entries := addSerial s.nls.entries s.csq.bag.serial } := by rw [htx]
  have hstraps : t.straps = s.straps := by rw [htx]
  obtain ⟨hq, hcl, hd, hv, hage, htal⟩ := sent.trans (t := t) hshc (by rw [htx]) (by rw [hlkc])
  have hth : t.csq.holds = b.csq.holds := by rw [htc]
  have hseq : t.csq = { s.csq with
      state := t.csq.state, lock := t.csq.lock, holds := t.csq.holds, homeLimit := t.csq.homeLimit
      landingSettle := none, accepted := some 5000 } :=
    calc t.csq = { b.csq with
          state := t.csq.state, lock := t.csq.lock, homeLimit := t.csq.homeLimit, accepted := some 5000
          holds := t.csq.holds } := htc.trans (congrArg (fun h => { b.csq with
            state := t.csq.state, lock := t.csq.lock, homeLimit := t.csq.homeLimit, accepted := some 5000
            holds := h }) hth.symm)
      _ = _ := congrArg (fun c : Sequencer => { c with
          state := t.csq.state, lock := t.csq.lock, homeLimit := t.csq.homeLimit, accepted := some 5000
          holds := t.csq.holds }) hcsq
  refine ⟨⟨?_, ?_, ?_, fun i hi => ⟨?_, ?_, ?_⟩, ?_, fun h => ?_, fun h8 hm => ?_, ⟨hq, ?_⟩, hcl, ?_, ?_, home, ?_⟩, ?_⟩
  · rw [htal]
    exact Four.get_set_same ..
  · unfold ownView
    rw [hv, hstraps]
    exact Four.get_set_same ..
  · rw [hage]
    exact Four.get_set_same ..
  · rw [htal]
    exact Four.get_set_ne _ _ hi
  · rw [hv]
    exact Four.get_set_ne _ _ hi
  · rw [hage]
    exact Four.get_set_ne _ _ hi
  · rw [hnls]
    exact congrArg (fun e => { s.nls with entries := e }) (addSerial_eq ..)
  · obtain ⟨hk, hst⟩ := hroom h
    refine ⟨by rw [JournalKept, hjnc]; exact hk, ?_⟩
    rw [hjnc]
    exact hst
  · rw [hjnc, hwait h8 hm]
    rfl
  · have hbj : b.jnc = a.jnc := by rw [hframe]
    rw [HeadKept, hlkc, hjnc, ← hbj]
    exact head
  · rw [show t.csq.turnLimit = s.csq.turnLimit by rw [hseq]]
    exact hseq
  · rw [show t.csq.holds = b.csq.holds by rw [htc]]
    exact hholds
  · have hdraws : t.draws = b.draws := by rw [htx]
    rw [← hd, hdraws, hjnc, hlkc, hshc, hnls]
    exact htx
  · rw [hseq]

/-- R20, R22: the landing settle time ends. -/
theorem exec_landingSettleExpiry {s : State} (h : s.csq.landingSettle ≠ none) :
    exec .landingSettleExpiry s = running s (settleTimeOver s) :=
  congrArg (running s) (if_neg h)

/-- Settles O37: the end of the landing settle time (R20, R22). -/
theorem landingCompletes : Obligations.LandingCompletes := by
  unfold Obligations.LandingCompletes
  rintro s ⟨hin, hset⟩ hls
  rw [exec_landingSettleExpiry hls]
  refine ⟨fun hst => ?_, fun hst hp hl ha har => ?_⟩
  · have h : settleTimeOver s = { s with csq := { s.csq with landingSettle := none } } :=
      if_neg (by rw [hst]; decide)
    rw [h]
    exact running_of_settled hin (hset.transfer rfl rfl rfl rfl rfl Iff.rfl rfl)
  · rw [running_eq hin, show settleTimeOver s = completeLanding s from if_pos hst]
    obtain ⟨htare, hint⟩ := hset.no_tare (by rw [hst]; decide) (by rw [hst]; decide)
    exact ⟨_, rfl, landingCompleted hp (by rw [hst]; decide) (hset.hatchShut (.inr (by rw [hst]; rfl))) htare hint hl ha
      har.noReadWaits⟩

end Sys2Proof.Machine
end

section
/-! PROOFS. The fall window that expires with no landing (O38). -/

namespace Sys2Proof.Machine

/-! ## JAM raised with its record (R125, R149, R150) -/

/-- R149: the record of JAM raised in the state s. -/
def jamRecord (s : State) : Record := plainRecord s 5 0

/-- R125, R129: from b to x JAM has been raised, with its record if it was clear. -/
structure JamRaised (b x : State) : Prop where
  worked : RecordWorked (judgeHold .jam true b) x
  head : HeadOp b x
  journal : JournalKept b.jnc x
  staging : x.jnc.staging = b.jnc.staging ++
    (if b.csq.holds.jam = true ∨ 7 ≤ b.jnc.staging.length ∨ b.jnc.seqCounter = 0xFFFFFFFF then [] else [jamRecord b])
  full : 7 ≤ b.jnc.staging.length → x.jnc = b.jnc

theorem RecordWorked.refl (u : State) : RecordWorked u u := ⟨rfl, rfl, rfl, rfl, .inl ⟨rfl, rfl⟩⟩

/-- R10: a hold reason that is raised already. -/
theorem judgeHold_same {r : HoldReason} {v : Bool} {s : State} (h : s.csq.holds.put r v = s.csq.holds) :
    judgeHold r v s = s := by
  unfold judgeHold
  rw [h]

theorem askGeneral_full {req : RecordReq} {u : State} (hp : u.phase = .service) (hk : req.kind ≠ .unclaimed)
    (h : 7 ≤ u.jnc.staging.length) : askGeneral req u = u := by
  unfold askGeneral
  rw [if_neg (fun k => k hp), coalesces_eq_false hk, if_neg Bool.false_ne_true, if_neg (by omega)]

theorem raiseJam_raised {b : State} (hp : b.phase = .service) (hn : NoReadWaits b) : JamRaised b (raiseJam b) := by
  cases hclear : b.csq.holds.jam with
  | true =>
    have hsame : judgeHold .jam true b = b := judgeHold_same (by
      rw [HoldSet.put, ← hclear])
    rw [show raiseJam b = b from if_pos hclear]
    exact
      { worked := by rw [hsame]; exact .refl b
        head := .refl b, journal := .refl b
        staging := by rw [if_pos (.inl hclear), List.append_nil]
        full := fun _ => rfl }
  | false =>
    rw [raiseJam_of_clear hclear]
    have hk : (RecordReq.blank .jam b.straps.shf).kind ≠ .unclaimed := by simp [RecordReq.blank]
    exact
      { worked := askGeneral_worked _ hn
        head := (HeadOp.of_eq (s := b) (t := judgeHold .jam true b) rfl rfl rfl).trans (askGeneral_head _ _)
        journal := askGeneral_journal (s := judgeHold .jam true b) _ hp hn
        staging := by
          rw [askGeneral_staging (s := judgeHold .jam true b) _ hp (coalesces_eq_false hk _),
            stamped_general _ (by simp [RecordReq.blank]) rfl]
          show (if b.jnc.staging.length < 7 ∧ b.jnc.seqCounter ≠ seqMax then b.jnc.staging ++ [jamRecord b]
            else b.jnc.staging) = _
          rw [hclear]
          by_cases hroom : b.jnc.staging.length < 7 ∧ b.jnc.seqCounter ≠ seqMax
          · rw [if_pos hroom, if_neg]
            rintro (h | h | h)
            · exact nomatch h
            · omega
            · exact hroom.2 h
          · rw [if_neg hroom, if_pos, List.append_nil]
            by_contra h
            obtain ⟨-, h7, hm⟩ := not_or.mp h |>.imp id not_or.mp
            exact hroom ⟨by omega, hm⟩
        full := fun h => congrArg (·.jnc) (askGeneral_full (u := judgeHold .jam true b) hp hk h) }

/-! ## The sequence number after a bag record (R149) -/

/-- R149: a record more in the staging queue has taken the next sequence number. -/
theorem JournalKept.seq_one {j : Journal} {t : State} (h : JournalKept j t)
    (hl : t.jnc.staging.length = j.staging.length + 1) : t.jnc.seqCounter = j.seqCounter + 1 := by
  obtain ⟨-, hseq, -⟩ := h
  bv_omega

theorem JournalKept.seq_same {j : Journal} {t : State} (h : JournalKept j t)
    (hl : t.jnc.staging.length = j.staging.length) : t.jnc.seqCounter = j.seqCounter := by
  obtain ⟨-, hseq, -⟩ := h
  bv_omega

/-! ## JAM at the end of the fall window (R21, R125) -/

theorem RecordWorked.setView {u a : State} (h : RecordWorked u a) (i : Fin 4) (v : View) (age : Timer) :
    RecordWorked (setView i v age u) (setView i v age a) := by
  obtain ⟨hf, hc, hh, hl⟩ := h
  exact ⟨congrArg (Machine.setView i v age) hf, hc, hh, hl⟩

/-- R21, R125: the fall window has expired in u: the DEPOSIT asked for in a, the own shaft JAMMED with JAM queued in b, and
JAM raised in x. -/
structure BagJammed (u a x : State) : Prop where
  frame : x = { u with csq := x.csq, lkc := x.lkc, shc := x.shc, jnc := x.jnc, draws := x.draws }
  csq : x.csq = { u.csq with holds := x.csq.holds }
  holds : SameHoldsButJournal { u.csq.holds with jam := true } x.csq.holds
  sent : FrameSent (.jam u.straps.shf) (setView u.straps.shf .jammed none u) x
  head : HeadKept u.lkc x
  journal : JournalKept a.jnc x
  staging : x.jnc.staging = a.jnc.staging ++
    (if u.csq.holds.jam = true ∨ 7 ≤ a.jnc.staging.length ∨ a.jnc.seqCounter = 0xFFFFFFFF then [] else [jamRecord a])
  full : 7 ≤ a.jnc.staging.length → x.jnc = a.jnc

theorem bagJammed {u : State} (req : RecordReq) (hp : u.phase = .service) (hn : NoReadWaits u) (hl : LinkRight u)
    (ha : AgesRight u) (hst : u.csq.state ≠ .claim) :
    BagJammed u (askBag req u)
      (raiseJam (queueFrame (.jam u.straps.shf) (setView u.straps.shf .jammed none (askBag req u)))) := by
  have op := askBag_op req u
  have w := askBag_worked req hn
  have hhead := askBag_head req u
  have hla := op.linkRight hn hl
  have haa := op.agesRight hn ha
  obtain ⟨hna, -⟩ := op.quiet hn
  generalize askBag req u = a at *
  let v : State := setView u.straps.shf .jammed none a
  have hstraps : a.straps = u.straps := by rw [w.frame]
  have hcsq : (queueFrame (.jam u.straps.shf) v).csq = a.csq :=
    queueFrame_csq_unsought (s := v) rfl (.inl (by rw [show v.csq = a.csq from rfl, w.csq]; exact hst))
  have sent : FrameSent (.jam u.straps.shf) (setView u.straps.shf .jammed none u) (queueFrame (.jam u.straps.shf) v) :=
    frameSent (congrArg (·.shc) (w.setView ..).frame) (congrArg (·.draws) w.frame) w.link.1 hla haa rfl rfl
  have qop := queueFrame_op (.jam u.straps.shf) v
  have hqf := qop.frame
  rw [hcsq] at hqf
  generalize queueFrame (.jam u.straps.shf) v = b at *
  have hbf : b = { a with lkc := b.lkc, shc := b.shc, draws := b.draws } := hqf
  have hbu : b = { u with csq := a.csq, jnc := a.jnc, lkc := b.lkc, shc := b.shc, draws := b.draws } :=
    hbf.trans (congrArg (fun x : State => { x with lkc := b.lkc, shc := b.shc, draws := b.draws }) w.frame)
  have hbj : b.jnc = a.jnc := by rw [hbf]
  have hjam : b.csq.holds.jam = u.csq.holds.jam := by rw [hcsq, w.holds]
  have hrec : jamRecord b = jamRecord a := by rw [hbf]; rfl
  have raised := raiseJam_raised (b := b) (by rw [hbu]; exact hp) (by rw [NoReadWaits, hbj]; exact hna)
  generalize raiseJam b = x at *
  have hxf := raised.worked.frame
  have hshc : x.shc = b.shc := congrArg (·.shc) hxf
  have hdraws : x.draws = b.draws := congrArg (·.draws) hxf
  exact
    { frame := by
        rw [hshc, hdraws]
        exact hxf.trans (congrArg (fun y : State => { y with csq := x.csq, lkc := x.lkc, jnc := x.jnc }) hbu)
      csq := raised.worked.csq.trans (congrArg (fun c : Sequencer => { c with holds := x.csq.holds })
        (hcsq.trans w.csq))
      holds := by
        have hh : SameHoldsButJournal (b.csq.holds.put .jam true) x.csq.holds := raised.worked.holds
        rw [hcsq] at hh
        exact hh.trans (congrArg (fun h : HoldSet => { h with
          jam := true, journalFull := x.csq.holds.journalFull, journalBusy := x.csq.holds.journalBusy }) w.holds)
      sent := sent.trans hshc hdraws raised.worked.link.1
      head := ((hhead.trans (.of_eq (t := v) rfl rfl rfl)).trans (qop.head.trans raised.head)).kept
      journal := by rw [← hbj]; exact raised.journal
      staging := by rw [← hjam, ← hbj, ← hrec]; exact raised.staging
      full := by rw [← hbj]; exact raised.full }

/-- R21: the fall window's end in FALL. -/
theorem exec_fallWindowExpiry {s : State} (h : s.csq.fallWindow ≠ none) (hst : s.csq.state = .fall) :
    exec .fallWindowExpiry s = running s (fallWindowOver s) :=
  congrArg (running s) (if_pos ⟨h, hst⟩)

/-- Settles O38: the fall window that expires with no landing (R21, R125). -/
theorem fallWindowExpires : Obligations.FallWindowExpires := by
  unfold Obligations.FallWindowExpires
  intro s hr hp hl ha har hw hst own bag full deposit jam
  let u : State := { s with csq := { s.csq with bag := bag, fallWindow := none } }
  obtain ⟨htare, hint⟩ := hr.2.no_tare (by rw [hst]; decide) (by rw [hst]; decide)
  have hclosed : s.csq.hatch = .closed := hr.2.hatchShut (.inr (by rw [hst]; rfl))
  have hclaim : s.csq.state ≠ .claim := by rw [hst]; decide
  obtain ⟨hroom, hwait⟩ := askBag_placed (u := u) (depositRecord bag (ownTally s).count own) har.noReadWaits
  have k := bagJammed (u := u) (depositRecord bag (ownTally s).count own) hp har.noReadWaits hl ha hclaim
  rw [stamped_deposit u s bag _ rfl rfl rfl rfl rfl] at hroom
  have hx : fallWindowOver s = enterHome (raiseJam (queueFrame (.jam u.straps.shf) (setView u.straps.shf .jammed none
    (askBag (depositRecord bag (ownTally s).count own) u)))) := rfl
  rw [exec_fallWindowExpiry hw hst, running_eq hr.1, hx]
  refine ⟨_, rfl, ?_⟩
  have hjrec : jamRecord (askBag (depositRecord bag (ownTally s).count own) u) =
      { plainRecord s 5 0 with
        seq := (askBag (depositRecord bag (ownTally s).count own) u).jnc.seqCounter + 1 } := by
    rw [(askBag_worked _ (u := u) har.noReadWaits).frame]
    rfl
  generalize askBag _ _ = a at *
  generalize raiseJam _ = x at *
  obtain ⟨hf, hc, hh, sent, head, journal, staging, hfull⟩ := k
  obtain ⟨⟨htf, htc⟩, home⟩ := enterHome_taken (u := x) (by rw [hf]; exact hp) (by rw [hc]; exact hclosed)
    (by rw [hf]; exact htare) (by rw [hf]; exact hint) s (by rw [hf]) (by rw [hf]) (by rw [hh])
  generalize settleStep (enterHome x) = t at *
  have htx : t = { s with
      csq := t.csq, wch := t.wch, rct := t.rct, lms := t.lms, lkc := x.lkc, shc := x.shc, jnc := x.jnc
      draws := x.draws } :=
    htf.trans (congrArg (fun y : State => { y with csq := t.csq, wch := t.wch, rct := t.rct, lms := t.lms }) hf)
  have hjnc : t.jnc = x.jnc := by rw [htx]
  have hlkc : t.lkc = x.lkc := by rw [htx]
  have hshc : t.shc = x.shc := by rw [htx]
  have hth : t.csq.holds = x.csq.holds := by rw [htc]
  have hseq : t.csq = { s.csq with
      state := t.csq.state, lock := t.csq.lock, holds := t.csq.holds, bag := bag, homeLimit := t.csq.homeLimit
      fallWindow := none } :=
    htc.trans (by rw [hth]; exact congrArg (fun c : Sequencer => { c with
      state := t.csq.state, lock := t.csq.lock, homeLimit := t.csq.homeLimit }) hc)
  obtain ⟨hq, hcl, hd, hv, hage, htal⟩ := sent.trans (t := t) hshc (by rw [htx]) (by rw [hlkc])
  obtain ⟨hown, hagen, hothers⟩ := setView_get own .jammed none u
  refine ⟨?_, ?_, ?_, htal, ?_, fun i hi => ?_, hseq, fun h => ?_, fun h8 hm => ?_, ⟨hq, ?_⟩, hcl, ?_⟩
  · unfold ownView
    rw [hv, show t.straps = s.straps by rw [htx]]
    exact hown
  · rw [hage]
    exact hagen
  · rw [hth]
    exact hh
  · rw [hjnc, hlkc, hshc, show (if s.lkc.phase = .free then s.draws + 1 else s.draws) = x.draws from
      hd.symm.trans (by rw [htx])]
    exact htx
  · rw [hv, hage]
    exact hothers i hi
  · obtain ⟨hk, hst⟩ := hroom h
    refine ⟨by rw [JournalKept, hjnc]; exact hk.trans journal, ?_⟩
    rw [hjnc, staging, hjrec]
    have hlist : a.jnc.staging = s.jnc.staging ++ deposit := hst
    rw [hlist]
    refine congrArg (s.jnc.staging ++ deposit ++ ·) ?_
    by_cases hm : full
    · have hl : (s.jnc.staging ++ deposit).length = s.jnc.staging.length := by
        rw [show deposit = [] from if_pos hm, List.append_nil]
      have hmax : a.jnc.seqCounter = 0xFFFFFFFF := (hk.seq_same (by rw [hlist, hl])).trans hm
      rw [if_pos (.inr (.inr hmax)), show jam = [] from if_pos (.inr (.inr (by rw [hm]; decide)))]
    · have hl : (s.jnc.staging ++ deposit).length = s.jnc.staging.length + 1 := by
        rw [show deposit = [_] from if_neg hm, List.length_append]
        rfl
      have hnext : a.jnc.seqCounter = s.jnc.seqCounter + 1 := hk.seq_one (by rw [hlist, hl])
      have hlast : s.jnc.seqCounter + 1 = 0xFFFFFFFF ↔ 0xFFFFFFFE ≤ s.jnc.seqCounter.toNat := by
        have hm' : s.jnc.seqCounter ≠ 0xFFFFFFFF := hm
        bv_omega
      rw [hl, hnext, show s.jnc.seqCounter + 1 + 1 = s.jnc.seqCounter + 2 by bv_omega]
      exact if_congr (or_congr Iff.rfl (or_congr (by omega) hlast)) rfl rfl
  · rw [hjnc, hfull (by rw [hwait h8 hm]; exact Nat.le_of_succ_le h8), hwait h8 hm]
    rfl
  · rw [HeadKept, hlkc, hjnc]
    exact head
  · rw [show x.rct = s.rct by rw [hf]] at home
    exact home

end Sys2Proof.Machine
end

section
/-! PROOFS. The steps of the encoder in FORWARD and WATCH (O34). -/

namespace Sys2Proof.Machine

/-! ## The entry to FAULT in any state of the link (R24) -/

theorem QueueOp.frame_csq {s t : State} (h : QueueOp s t) :
    t = { s with csq := t.csq, lkc := t.lkc, shc := t.shc, draws := t.draws } := by
  conv_lhs => rw [h.frame, ← h.csq]

theorem endHoldForFault_frame (o : SeqState) (s : State) :
    endHoldForFault o s = { s with
      csq := (endHoldForFault o s).csq, lkc := (endHoldForFault o s).lkc, shc := (endHoldForFault o s).shc
      draws := (endHoldForFault o s).draws } := by
  unfold endHoldForFault
  split
  · exact (queueFrame_op (.release s.straps.shf .fault) (setView s.straps.shf .free none s)).frame_csq
  · split
    · exact (giveUpClaim_op s).frame_csq
    · rfl

/-- R24, R149, R150: a FAULT record is asked for, whatever the link and the flash array do. -/
theorem enterFault_asked (r : FaultReason) {s : State} (hp : s.phase = .service) (hst : s.csq.state ≠ .check) :
    RecordAsked (generalRecord s 8 r.code (shaftByte s.straps.shf) (faultBag s).serial (faultBag s).account
      (faultBag s).bagType (faultBag s).mass 0xFFFF) s (enterFault r s) ∧
    enterFault r s = { s with
      csq := (enterFault r s).csq, rct := (enterFault r s).rct, lkc := (enterFault r s).lkc
      shc := (enterFault r s).shc, jnc := (enterFault r s).jnc, wch := (enterFault r s).wch
      lms := (enterFault r s).lms, draws := (enterFault r s).draws } := by
  have hb := faultBegun_frame s
  rw [(((faultBegun_windows s).2 hst).1)] at hb
  have hv := endHoldForFault_frame s.csq.state (faultBegun s)
  rw [enterFault_eq]
  generalize endHoldForFault s.csq.state (faultBegun s) = v at *
  generalize faultBegun s = b at *
  have hwch : v.wch = b.wch := congrArg (·.wch) hv
  have hlms : v.lms = b.lms := congrArg (·.lms) hv
  have hvs : v = { s with
      csq := v.csq, rct := s.rct.stop, lkc := v.lkc, shc := v.shc, wch := v.wch, lms := v.lms, draws := v.draws } := by
    rw [hwch, hlms]
    exact hv.trans (congrArg (fun x : State => { x with csq := v.csq, lkc := v.lkc, shc := v.shc, draws := v.draws }) hb)
  refine ⟨?_, ?_⟩
  · have hk : (faultRecord r s.csq.state s.csq.bag s.straps.shf).kind ≠ .unclaimed := by
      unfold faultRecord
      split <;> simp [RecordReq.blank]
    rw [RecordAsked, askGeneral_staging _ (by rw [hvs]; exact hp) (coalesces_eq_false hk v), stamped_fault, hvs]
    rfl
  · have op := askGeneral_op (faultRecord r s.csq.state s.csq.bag s.straps.shf) v
    have hf := op.frame
    generalize askGeneral (faultRecord r s.csq.state s.csq.bag s.straps.shf) v = a at *
    have hrct : a.rct = s.rct.stop := op.rct.trans (congrArg (·.rct) hvs)
    rw [hrct, op.wch, op.lms]
    exact hf.trans (congrArg (fun x : State => { x with
      csq := a.csq, lkc := a.lkc, shc := a.shc, jnc := a.jnc, draws := a.draws }) hvs)

/-! ## Steps in a watched mode (R67, R69, R74, R75) -/

/-- R75: a forward step in a watched mode raises the maximum reached to the position. -/
def steppedForward (r : Rotor) : Rotor :=
  { r.stepForward with maxReached := max r.maxReached r.stepForward.position }

theorem forwardStep_watched {s : State} (h : s.rct.mode.watched = true) :
    forwardStep s = compareDrop { s with rct := steppedForward s.rct } := by
  have hr : (if s.rct.stepForward.mode.watched = true ∧ s.rct.stepForward.maxReached < s.rct.stepForward.position then
      { s.rct.stepForward with maxReached := s.rct.stepForward.position } else s.rct.stepForward) =
        steppedForward s.rct := by
    unfold steppedForward
    have hmax : s.rct.stepForward.maxReached = s.rct.maxReached := rfl
    split
    · next hlt => rw [max_eq_right (hmax ▸ hlt.2.le)]
    · next hge =>
      have hle : s.rct.stepForward.position ≤ s.rct.maxReached := not_lt.mp fun hlt => hge ⟨h, hlt⟩
      rw [max_eq_left hle]
      rfl
  exact congrArg (fun q => compareDrop { s with rct := q }) hr

theorem isReverseTravel_iff {r : Rotor} (h : r.mode.watched = true) (slack : Nat) :
    isReverseTravel r r.stepReverse slack = true ↔
      (r.count = 0 ∧ r.underflow = false) ∨ r.stepReverse.position < r.maxReached - (slack : Int) := by
  simp [isReverseTravel, h, Rotor.underflowEvent, Rotor.stepReverse]

theorem compareDrop_of_not_met {s : State} (h : ¬ (s.rct.mode = .forward ∧ s.rct.position = (s.cfg.dropTarget : Int))) :
    compareDrop s = s := if_neg h

theorem compareDrop_met {s : State} (h : s.rct.mode = .forward ∧ s.rct.position = (s.cfg.dropTarget : Int))
    (hst : s.csq.state = .turn) : compareDrop s = enterFall { s with rct := s.rct.dropMatch s.nck.clock } :=
  (if_pos h).trans (if_pos hst)

/-! ## FALL entered (R20, R21, R74) -/

/-- R21: FALL as it is entered from TURN. -/
def fallBegun (s : State) : State := enterState .fall { s with csq := { s.csq with turnLimit := none } }

theorem enterFall_eq (s : State) : enterFall s =
    if s.ldi.count = 0 then { fallBegun s with csq := { (fallBegun s).csq with fallWindow := some s.cfg.fallWindow } }
    else if s.csq.landingSettle = none then completeLanding (fallBegun s) else fallBegun s := rfl

theorem fallBegun_csq {s : State} (hp : s.phase = .service) :
    (fallBegun s).csq = { s.csq with state := .fall, lock := .low, turnLimit := none } := by
  show { s.csq with state := .fall, lock := lockLine s.phase .fall, turnLimit := none } = _
  rw [hp]
  rfl

/-- R20, R21, R22, R74: FALL entered from TURN, with the drum as the match has left it, to the end of the step. -/
theorem fallEntered {s : State} (q : Rotor) (hr : Runs s) (hp : s.phase = .service) (hst : s.csq.state = .turn) :
    let t := settleStep (enterFall { s with rct := q })
    (s.ldi.count = 0 → t = { s with rct := q, csq := t.csq, lms := t.lms } ∧ t.csq = { s.csq with
      state := .fall, lock := .low, turnLimit := none, fallWindow := some s.cfg.fallWindow }) ∧
    (s.ldi.count ≠ 0 → s.csq.landingSettle ≠ none → t = { s with rct := q, csq := t.csq, lms := t.lms } ∧
      t.csq = { s.csq with state := .fall, lock := .low, turnLimit := none }) ∧
    (s.ldi.count ≠ 0 → s.csq.landingSettle = none → LinkRight s → AgesRight s → NoReadWaits s →
      LandingCompleted q s t ∧ t.csq.turnLimit = none) := by
  intro t
  obtain ⟨htare, hint⟩ := hr.2.no_tare (by rw [hst]; decide) (by rw [hst]; decide)
  have hclosed : s.csq.hatch = .closed := hr.2.hatchShut (.inr (by rw [hst]; rfl))
  have hc := fallBegun_csq (s := { s with rct := q }) hp
  have hf : fallBegun { s with rct := q } = { s with
      rct := q, csq := (fallBegun { s with rct := q }).csq, lms := (fallBegun { s with rct := q }).lms } := rfl
  have ht : t = settleStep (enterFall { s with rct := q }) := rfl
  rw [enterFall_eq] at ht
  generalize fallBegun { s with rct := q } = f at *
  have still (u : State) (hs : u.csq.state = .fall) (hh : u.csq.hatch = s.csq.hatch) (hw : u.wch = s.wch) :
      settleStep u = u :=
    settleStep_of_settled (settled_elsewhere (by rw [hs]; decide) (by rw [hs]; decide) (fun _ => hh.trans hclosed)
      (by rw [hw]; exact htare) (by rw [hw]; exact hint))
  refine ⟨fun h0 => ?_, fun h0 hls => ?_, fun h0 hls hl ha hn => ?_⟩
  · rw [if_pos (by exact h0), still _ (by rw [hc]) (by rw [hc]) (by rw [hf])] at ht
    rw [ht]
    exact ⟨congrArg (fun x : State => { x with csq := { f.csq with fallWindow := some s.cfg.fallWindow } }) hf,
      congrArg (fun c : Sequencer => { c with fallWindow := some s.cfg.fallWindow }) hc⟩
  · rw [if_neg (by exact h0), if_neg (by exact hls), still f (by rw [hc]) (by rw [hc]) (by rw [hf])] at ht
    rw [ht]
    exact ⟨hf, hc⟩
  · rw [if_neg (by exact h0), if_pos (by exact hls)] at ht
    have landed := landingCompleted (s := f) (by rw [hf]; exact hp) (by rw [hc]; exact fun h => nomatch h) (by rw [hc]; exact hclosed)
      (by rw [hf]; exact htare) (by rw [hf]; exact hint) (by rw [hf]; exact hl) (by rw [hf]; exact ha)
      (by rw [hf]; exact hn)
    rw [← ht, hf, hc] at landed
    exact landed

/-- Settles O34: the steps of the encoder in FORWARD and WATCH (R20 to R22, R67, R69, R74, R75). -/
theorem turnSteps : Obligations.TurnSteps := by
  unfold Obligations.TurnSteps
  intro p s hr hp hm ref slack up down travels meets
  have hw : s.rct.mode.watched = true := by rcases hm with h | h <;> rw [h] <;> rfl
  let r : Rotor := { s.rct with encRef := p }
  let fwd : Rotor := steppedForward r
  let rev : Rotor := r.stepReverse
  have hup : fwd.position = up := Rotor.stepForward_position r
  have hdown : rev.position = down := Rotor.stepReverse_position r
  have hxf (hf : ForwardStep ref p) : encoderSample p s = compareDrop { s with rct := fwd } :=
    (encoderSample_forward hf).trans (forwardStep_watched hw)
  have htr : isReverseTravel r rev s.cfg.reverseSlack = true ↔ travels := by
    show _ ↔ (s.rct.count = 0 ∧ s.rct.underflow = false) ∨ down < s.rct.maxReached - slack
    rw [← hdown]
    exact isReverseTravel_iff hw s.cfg.reverseSlack
  have hxr (hf : ForwardStep p ref) (ht : ¬ travels) : encoderSample p s = compareDrop { s with rct := rev } :=
    (encoderSample_reverse hf).trans (if_neg (htr.not.mpr ht))
  refine ⟨fun hf hn => ⟨fwd, ?_, ?_, hup⟩, fun hf ht hn => ⟨rev, ?_, rfl, hdown⟩, ?_, fun hf ht hst => ?_⟩
  · have hx := (hxf hf).trans (compareDrop_of_not_met (by rw [show ({ s with rct := fwd } : State).rct.position = up from hup]; exact hn))
    exact (congrArg (running s) hx).trans (running_rotor hr rfl)
  · rw [← hup]
    rfl
  · have hx := (hxr hf ht).trans (compareDrop_of_not_met (by rw [show ({ s with rct := rev } : State).rct.position = down from hdown]; exact hn))
    exact (congrArg (running s) hx).trans (running_rotor hr rfl)
  · intro hcase hst stopped falls
    obtain ⟨q, hx, hstop⟩ : ∃ q : Rotor, encoderSample p s = enterFall { s with rct := q } ∧ stopped q := by
      rcases hcase with ⟨hf, hmeet⟩ | ⟨hf, ht, hmeet⟩
      · have hpos : fwd.position = (s.cfg.dropTarget : Int) := hup.trans hmeet.2
        obtain ⟨hd, hrun⟩ := fwd.dropMatch_ended s.nck.clock
        refine ⟨fwd.dropMatch s.nck.clock, (hxf hf).trans (compareDrop_met ⟨hmeet.1, hpos⟩ hst), ?_,
          (Rotor.dropMatch_position ..).trans hpos, hrun⟩
        rw [if_pos hf, ← hpos, congrArg (·.count) hd, congrArg (·.underflow) hd]
        exact hd
      · have hpos : rev.position = (s.cfg.dropTarget : Int) := hdown.trans hmeet.2
        obtain ⟨hd, hrun⟩ := rev.dropMatch_ended s.nck.clock
        have hnf : ¬ ForwardStep ref p := fun h =>
          (eq_encNext_cases ((forwardStep_iff _ _).mp hf)).2.1 ((forwardStep_iff _ _).mp h)
        refine ⟨rev.dropMatch s.nck.clock, (hxr hf ht).trans (compareDrop_met ⟨hmeet.1, hpos⟩ hst), ?_,
          (Rotor.dropMatch_position ..).trans hpos, hrun⟩
        rw [if_neg hnf, congrArg (·.count) hd, congrArg (·.underflow) hd]
        exact hd
    obtain ⟨hwindow, hlanded, hdone⟩ := fallEntered q hr hp hst
    have hexec : exec (.encoderStep p) s = .next (settleStep (enterFall { s with rct := q })) :=
      (congrArg (running s) hx).trans (running_eq hr.1)
    rw [hexec]
    generalize settleStep (enterFall { s with rct := q }) = t at *
    have hfalls (hf : t = { s with rct := q, csq := t.csq, lms := t.lms }) : falls t := by
      have hq : t.rct = q := by rw [hf]
      refine ⟨hq ▸ hstop, ?_⟩
      rw [hq]
      exact hf
    refine ⟨fun h0 => ?_, fun h0 hls => ?_, fun h0 hls hl ha har => ?_⟩
    · obtain ⟨hf, hc⟩ := hwindow h0
      exact ⟨t, rfl, hfalls hf, hc⟩
    · obtain ⟨hf, hc⟩ := hlanded h0 hls
      exact ⟨t, rfl, hfalls hf, hc⟩
    · obtain ⟨hc, hlim⟩ := hdone h0 hls hl ha har.noReadWaits
      exact ⟨t, q, rfl, hstop, hc, hlim⟩
  · have hx : encoderSample p s = enterFault .reverse { s with rct := rev } := by
      rw [encoderSample_reverse hf]
      refine (if_pos (htr.mpr ht)).trans ((if_pos hst).trans ?_)
      exact enterFault_stopped .reverse s rev
    let u : State := { s with rct := rev }
    have hexec : exec (.encoderStep p) s = .next (settleStep (enterFault .reverse u)) :=
      (congrArg (running s) hx).trans (running_eq hr.1)
    have hcheck : u.csq.state ≠ .check := by rcases hst with h | h <;> exact fun k => nomatch h.symm.trans k
    obtain ⟨hasked, hframe⟩ := enterFault_asked .reverse (s := u) hp hcheck
    obtain ⟨hfault, -, hbag, -, hrct, htal, -⟩ := enterFault_spec .reverse u
    have hent := fun hl ha (har : ArrayRight s) => faultEntered_drum .reverse rev hp hr.2 hl ha har.noReadWaits
    have hfb : faultBag u = s.csq.bag := if_pos (.inr hst)
    rw [hexec]
    rw [hfb] at hasked
    rw [settleStep_faulted hfault] at hent ⊢
    generalize enterFault .reverse u = a at *
    have hj := judgeTare_frame a
    have hjnc := judgeTare_jnc a
    have hjrct := judgeTare_rct a
    have hjcsq := judgeTare_csq a
    generalize judgeTare a = t at *
    have hcut : t.rct = rev.stop := hjrct.trans hrct
    refine ⟨t, rfl, by rw [hjcsq, hfault], by rw [hcut]; rfl, by rw [hcut]; exact Rotor.cutRun_mrun rev, ?_,
      fun hl ha har => ⟨rev, rfl, hdown, hent hl ha har⟩, ?_, ?_, by rw [hjcsq, hbag], ?_⟩
    · rw [hcut]
      exact (Rotor.cutRun_position rev).trans hdown
    · rw [RecordAsked, hjnc]
      exact hasked
    · rw [hj]
      exact htal
    · have hlk : t.lkc = a.lkc := by rw [hj]
      have hsh : t.shc = a.shc := by rw [hj]
      have hlm : t.lms = a.lms := by rw [hj]
      have hdr : t.draws = a.draws := by rw [hj]
      rw [hjcsq, hjrct, hlk, hsh, hjnc, hlm, hdr]
      exact hj.trans (congrArg (fun x : State => { x with wch := t.wch }) hframe)

end Sys2Proof.Machine
end

section
/-! PROOFS. CLEAR of a shaft, of a bin and of the station (O55). -/

namespace Sys2Proof.Machine

/-! ## A CLEAR at the head of the receive queue (R187) -/

theorem takeClear_owned {own index : Byte} {effect : Byte → State → State} {s : State} {rest : List RxMsg}
    (h : s.lkc.rx = .clear own index :: rest) : takeClear own effect s = effect index (takeRx s) := by
  simp only [takeClear, h, List.head?_cons, if_true]

/-- R187: a CLEAR of an unknown target kind has no effect. -/
theorem running_clearUnknown {own target index : Byte} {effect : Byte → State → State} {s : State} {rest : List RxMsg}
    (hr : Runs s) (h : s.lkc.rx = .clear target index :: rest) (hu : clearTargetUnknown target = true) (hne : target ≠ own) :
    running s (takeClear own effect s) = .next { s with lkc := { s.lkc with rx := rest, holding := false } } := by
  have hx : takeClear own effect s = takeRx s := by
    simp only [takeClear, h, List.head?_cons]
    rw [if_neg hne, if_pos hu]
  rw [hx, running_takeRx hr h]

theorem clearTargetUnknown_of {target : Byte} (h : target = 0 ∨ 3 < target.toNat) :
    clearTargetUnknown target = true ∧ target ≠ 1 ∧ target ≠ 2 ∧ target ≠ 3 := by
  have hne (n : Byte) (h0 : n ≠ 0) (h3 : n.toNat ≤ 3) : target ≠ n := by
    rintro rfl
    exact h.elim h0 (fun h => absurd h3 (not_le.mpr h))
  refine ⟨?_, hne 1 (by decide) (by decide), hne 2 (by decide) (by decide), hne 3 (by decide) (by decide)⟩
  unfold clearTargetUnknown
  rcases h with rfl | h
  · rfl
  · rw [decide_eq_true (show 4 ≤ target.toNat from h), Bool.or_true]

/-! ## A shaft or a bin cleared (R133, R134) -/

/-- R116, R117, R149: from s, with x the views or tallies cleared, to t: the hold reason of the own shaft or bin cleared
with its record, and the own claim after it. -/
structure Cleared (r : HoldReason) (target index : Byte) (i : Fin 4) (rest : List RxMsg) (s x t : State) : Prop where
  views : t.shc.views = x.shc.views
  holdAge : t.shc.holdAge = x.shc.holdAge
  tallies : t.shc.tallies = x.shc.tallies
  follows : ClaimFollows s t
  link : LinkKeptButQueue { s.lkc with rx := rest, holding := false } t
  own : i = s.straps.shf → SameHoldsButJournal (s.csq.holds.put r false) t.csq.holds ∧
    SameSequencerBut s.csq t.csq ∧ StateByHolds s t ∧ JournalKept s.jnc t ∧
    RecordAsked (generalRecord s 6 target index 0 0 0xFF 0xFFFF 0xFFFF) s t
  other : i ≠ s.straps.shf → t.csq = s.csq ∧ t.jnc = s.jnc ∧ t.lms = s.lms ∧ t.lkc.rx = rest
  frame : t = { s with csq := t.csq, lkc := t.lkc, shc := t.shc, jnc := t.jnc, lms := t.lms }

theorem HoldSet.put_weigh (h : HoldSet) (v : Bool) {r : HoldReason} (hr : r ≠ .weigh) : (h.put r v).weigh = h.weigh := by
  cases r with
  | weigh => exact absurd rfl hr
  | _ => rfl

theorem running_cleared {r : HoldReason} (target index : Byte) {i : Fin 4} {rest : List RxMsg} {s x : State} (hr : Runs s)
    (hp : s.phase = .service) (ha : ArrayRight s) (hw : r ≠ .weigh)
    (hx : x = { s with lkc := { s.lkc with rx := rest, holding := false }, shc := x.shc }) (hc : ClaimAs s.shc x) :
    ∃ t, running s (watchClaim s (if i = s.straps.shf then
      askGeneral (clearRecord target index s.straps.shf) (clearHold r x) else x)) = .next t ∧
      Cleared r target index i rest s x t := by
  by_cases hown : i = s.straps.shf
  · have k := askGeneral_followed (before := s) (u := clearHold r x) (req := clearRecord target index s.straps.shf)
      (by rw [hx]; exact hp) (by simp [clearRecord, RecordReq.blank]) (by rw [hx]; exact ha.noReadWaits)
      (by rw [hx]; exact hr.2.hatchShut)
      (by rw [hx]; exact hr.2.tareRight.congr rfl (HoldSet.put_weigh _ _ hw) rfl rfl rfl) (by rw [hx]; rfl)
      hc (by rw [hx]; rfl) (by rw [hx]; rfl)
    rw [stamped_general _ (by simp [clearRecord, RecordReq.blank]) rfl] at k
    rw [if_pos hown]
    refine ⟨_, running_eq hr.1, ?_⟩
    generalize settleStep _ = t at k ⊢
    have hviews := k.views
    have hage := k.holdAge
    have htallies := k.tallies
    rw [hx] at k
    exact
      { views := hviews, holdAge := hage, tallies := htallies, follows := k.follows, link := k.link
        own := fun _ => ⟨k.holds, k.csq, k.state, k.journal, k.asked⟩
        other := fun h => absurd hown h
        frame := k.frame }
  · rw [if_neg hown]
    have hset : Settled x := by
      rw [hx]
      exact hr.2.transfer rfl rfl rfl rfl rfl Iff.rfl rfl
    obtain ⟨hviews, hage, htallies⟩ := watchClaim_shafts s x
    have hfollows : ClaimFollows s (watchClaim s x) := watchClaim_follows (by rw [hx]) hc (by rw [hx]) (by rw [hx])
    have hwf := watchClaim_frame s x
    refine ⟨_, running_of_settled hr.1 hset.watchClaim, ?_⟩
    generalize watchClaim s x = w at *
    rw [hx] at hwf
    have hlkc : w.lkc = { s.lkc with rx := rest, holding := false, queue := w.lkc.queue } := congrArg (·.lkc) hwf
    have hrx : w.lkc.rx = rest := congrArg (·.rx) hlkc
    have hh : w.lkc.holding = false := congrArg (·.holding) hlkc
    exact
      { views := hviews, holdAge := hage, tallies := htallies, follows := hfollows
        link := ⟨by rw [hrx, hh]; exact hlkc, .inl ⟨hrx, hh⟩⟩
        own := fun h => absurd h hown
        other := fun _ => ⟨congrArg (·.csq) hwf, congrArg (·.jnc) hwf, congrArg (·.lms) hwf, hrx⟩
        frame := by
          rw [congrArg (·.csq) hwf, congrArg (·.jnc) hwf, congrArg (·.lms) hwf, hlkc]
          exact hwf }

/-- R133: a JAMMED view becomes FREE. -/
def clearView (i : Fin 4) (s : State) : State := if s.shc.views.get i = .jammed then setView i .free none s else s

theorem clearView_frame (i : Fin 4) (s : State) : clearView i s = { s with shc := { s.shc with
    views := (clearView i s).shc.views, holdAge := (clearView i s).shc.holdAge } } := by
  unfold clearView
  split <;> rfl

theorem clearView_get (i : Fin 4) (s : State) :
    (clearView i s).shc.views.get i = (if s.shc.views.get i = .jammed then .free else s.shc.views.get i) ∧
    (clearView i s).shc.holdAge.get i = (if s.shc.views.get i = .jammed then none else s.shc.holdAge.get i) ∧
    OtherViewsKept i s (clearView i s) := by
  unfold clearView
  split
  · exact setView_get i .free none s
  · exact ⟨rfl, rfl, fun _ _ => ⟨rfl, rfl⟩⟩

/-! ## CLEAR of the station (R25) -/

/-- R25: CLEAR of the station, with its record asked for and the bag emptied, before HOME is entered. -/
structure StationCleared (r : Record) (s u x : State) : Prop where
  frame : x = { u with csq := x.csq, lkc := x.lkc, jnc := x.jnc, rct := s.rct.stop }
  csq : x.csq = { s.csq with holds := x.csq.holds, bag := PendingBag.absent }
  holds : SameHoldsButJournal s.csq.holds x.csq.holds
  link : LinkKept u.lkc x
  asked : RecordAsked r s x
  journal : JournalKept s.jnc x
  reads : NoReadWaits x
  head : HeadOp u x

/-- R25: the drum stopped and the CLEAR record asked for. -/
def stationCleared (index : Byte) (s : State) : State :=
  let s1 := askGeneral (clearRecord 3 index s.straps.shf) { s with rct := s.rct.stop }
  { s1 with csq := { s1.csq with bag := PendingBag.absent } }

theorem clearStationAt_eq {index : Byte} {s : State} (h : s.csq.state = .fault ∧ index = s.ownByte) :
    clearStationAt index s = enterHome (stationCleared index s) := if_pos h

theorem stationCleared_spec (index : Byte) {s : State} (l : Link) (hp : s.phase = .service) (hn : NoReadWaits s) :
    StationCleared (generalRecord s 6 3 index 0 0 0xFF 0xFFFF 0xFFFF) s { s with lkc := l }
      (stationCleared index { s with lkc := l }) := by
  let v : State := { s with lkc := l, rct := s.rct.stop }
  have hk : (clearRecord 3 index s.straps.shf).kind ≠ .unclaimed := by simp [clearRecord, RecordReq.blank]
  have w := askGeneral_worked (clearRecord 3 index s.straps.shf) (u := v) hn
  have hasked := askGeneral_staging (clearRecord 3 index s.straps.shf) (s := v) hp (coalesces_eq_false hk v)
  have hj := askGeneral_journal (clearRecord 3 index s.straps.shf) (s := v) hp hn
  obtain ⟨hna, -⟩ := (askGeneral_op (clearRecord 3 index s.straps.shf) v).quiet hn
  rw [stamped_general _ (by simp [clearRecord, RecordReq.blank]) rfl] at hasked
  have hhead := askGeneral_head (clearRecord 3 index s.straps.shf) v
  have hdef : stationCleared index { s with lkc := l } =
      { askGeneral (clearRecord 3 index s.straps.shf) v with
        csq := { (askGeneral (clearRecord 3 index s.straps.shf) v).csq with bag := PendingBag.absent } } := rfl
  rw [hdef]
  generalize askGeneral (clearRecord 3 index s.straps.shf) v = a at *
  exact
    { frame := congrArg (fun x : State => { x with csq := { a.csq with bag := PendingBag.absent } }) w.frame
      csq := congrArg (fun c : Sequencer => { c with bag := PendingBag.absent }) w.csq
      holds := w.holds, link := w.link, asked := hasked, journal := hj, reads := hna
      head := HeadOp.trans (t := a) (HeadOp.trans (t := v) (.of_eq rfl rfl rfl) hhead) (.of_eq rfl rfl rfl) }

/-- R24: the entry to FAULT where the own shaft is not self-held and no claim is sought. -/
theorem enterFault_unheld (r : FaultReason) {s : State} (h : selfHeld s = false) (hst : s.csq.state ≠ .claim) :
    enterFault r s = askGeneral (faultRecord r s.csq.state s.csq.bag s.straps.shf) (faultBegun s) := by
  have hself : selfHeld (faultBegun s) = false := by
    rw [faultBegun_frame]
    exact h
  rw [enterFault_eq, endHoldForFault, hself, if_neg Bool.false_ne_true, if_neg hst]

/-- R25, R26: a hatch that is OPEN as HOME is entered, from x with the CLEAR record asked for, and FAULT again. -/
structure HomeForced (x t : State) : Prop where
  frame : t = { x with csq := t.csq, rct := x.rct.goHome.stop, jnc := t.jnc, lkc := t.lkc, lms := t.lms }
  csq : t.csq = { x.csq with
    state := .fault, lock := .low, holds := t.csq.holds, claimWait := none, accepted := none, retry := none
    homeLimit := none, turnLimit := none, fallWindow := none, landingSettle := none, weighed := none, tagEnded := false
    returnWait := false, awaiting := none }
  holds : SameHoldsButJournal x.csq.holds t.csq.holds
  link : t.lkc = { x.lkc with rx := t.lkc.rx, holding := t.lkc.holding }
  head : HeadOp x t
  asked : RecordAsked (plainRecord x 8 4) x t
  journal : JournalKept x.jnc t

theorem enterHome_forced {x : State} (hp : x.phase = .service) (ho : x.csq.hatch = .opened) (hself : selfHeld x = false)
    (hn : NoReadWaits x) (htare : x.wch.activity ≠ .tare) (hint : x.wch.tareInterval = none) :
    HomeForced x (settleStep (enterHome x)) := by
  have hx : enterHome x = askGeneral (faultRecord .hatchForced .home x.csq.bag x.straps.shf) (faultBegun (homeAsked x)) := by
    rw [enterHome_eq, if_pos ho]
    exact enterFault_unheld .hatchForced (s := homeAsked x) hself (fun h => nomatch h)
  have hf := faultBegun_frame (homeAsked x)
  obtain ⟨htgi, hwch⟩ := (faultBegun_windows (homeAsked x)).2 (fun h => nomatch h)
  have hcsq := faultBegun_csq (homeAsked x)
  rw [htgi, hwch] at hf
  rw [hx]
  generalize faultBegun (homeAsked x) = v at *
  have hst : stamped v (faultRecord .hatchForced .home x.csq.bag x.straps.shf) = plainRecord v 8 4 := by
    rw [hf]
    exact stamped_fault (homeAsked x) _ .hatchForced
  have hk : (faultRecord .hatchForced .home x.csq.bag x.straps.shf).kind ≠ .unclaimed := by
    simp [faultRecord, RecordReq.blank]
  have hpv : v.phase = .service := by rw [hf]; exact hp
  have hnv : NoReadWaits v := by rw [hf]; exact hn
  have w := askGeneral_worked (faultRecord .hatchForced .home x.csq.bag x.straps.shf) hnv
  have hasked := askGeneral_staging (faultRecord .hatchForced .home x.csq.bag x.straps.shf) hpv (coalesces_eq_false hk v)
  have hj := askGeneral_journal (faultRecord .hatchForced .home x.csq.bag x.straps.shf) hpv hnv
  have hhead := askGeneral_head (faultRecord .hatchForced .home x.csq.bag x.straps.shf) v
  generalize askGeneral (faultRecord .hatchForced .home x.csq.bag x.straps.shf) v = a at *
  have hstate : a.csq.state = .fault := by rw [w.csq, hcsq]
  have haw : a.wch = x.wch := by rw [w.frame, hf]; rfl
  have hstill : settleStep a = a :=
    settleStep_of_settled (settled_elsewhere (by rw [hstate]; decide) (by rw [hstate]; decide)
      (fun h => absurd (hstate ▸ h) (by decide)) (by rw [haw]; exact htare) (by rw [haw]; exact hint))
  rw [hstill]
  rw [hst] at hasked
  have haf := w.frame
  have hac := w.csq
  have hah := w.holds
  have hlk := w.link.1
  rw [hcsq] at hac hah
  rw [show lockLine (homeAsked x).phase .fault = .low by rw [show (homeAsked x).phase = .service from hp]; rfl] at hac
  have hvl : v.lkc = x.lkc := by rw [hf]; rfl
  have hvj : v.jnc = x.jnc := by rw [hf]; rfl
  have hv84 : plainRecord v 8 4 = plainRecord x 8 4 := by rw [hf]; rfl
  have harct : a.rct = x.rct.goHome.stop := by rw [haf, hf]; rfl
  have halms : a.lms = v.lms := by rw [haf]
  rw [hvj, hv84] at hasked
  rw [hvj] at hj
  rw [hvl] at hlk
  exact
    { frame := by
        rw [halms]
        exact haf.trans (congrArg (fun y : State => { y with csq := a.csq, lkc := a.lkc, jnc := a.jnc }) hf)
      csq := hac, holds := hah, link := hlk
      head := HeadOp.trans (t := v) (.of_eq (by rw [hvj]) (by rw [hvl]) (by rw [hvl])) hhead
      asked := hasked, journal := hj }

/-- Settles O55: CLEAR of a shaft, of a bin and of the station (R25, R133, R134, R187). -/
theorem clearTaken : Obligations.ClearTaken := by
  refine ⟨?_, ?_⟩
  · intro index rest s hr hp ha left
    refine ⟨fun target hrx htarget => ?_, fun hrx => ⟨fun h3 => ?_, fun i hi => ?_⟩,
      fun hrx => ⟨fun h3 => ?_, fun i hi => ?_⟩⟩
    · obtain ⟨hu, h1, h2, h3⟩ := clearTargetUnknown_of htarget
      exact ⟨running_clearUnknown hr hrx hu h1, running_clearUnknown hr hrx hu h2, running_clearUnknown hr hrx hu h3⟩
    · have hx : exec .clearShaft s = running s (takeRx s) := by
        refine congrArg (running s) ((takeClear_owned hrx).trans ?_)
        simp only [clearShaftAt, shaftOf_eq_none h3]
      rw [hx, running_takeRx hr hrx]
    · let u : State := { s with lkc := left }
      have hx : exec .clearShaft s = running s (watchClaim s (if i = s.straps.shf then
          askGeneral (clearRecord 1 index s.straps.shf) (clearHold .jam (clearView i u)) else clearView i u)) := by
        refine congrArg (running s) ((takeClear_owned hrx).trans ?_)
        rw [takeRx_eq hrx]
        simp only [clearShaftAt, shaftOf_eq_some hi]
        rfl
      have hf := clearView_frame i u
      obtain ⟨hview, hage, hothers⟩ := clearView_get i u
      generalize clearView i u = x at *
      obtain ⟨t, ht, k⟩ := running_cleared (r := .jam) (i := i) (rest := rest) (x := x) 1 index hr hp ha (by decide)
        (hf.trans (congrArg (fun c => { u with shc := c }) (by rw [hf]))) (by rw [hf])
      refine ⟨t, hx.trans ht, ?_, ?_, ?_, ?_, k.follows, k.link, k.own, k.other, k.frame⟩
      · rw [k.views]
        exact hview
      · rw [k.holdAge]
        exact hage
      · rw [k.views, k.holdAge]
        exact hothers
      · rw [k.tallies, hf]
    · have hx : exec .clearBin s = running s (takeRx s) := by
        refine congrArg (running s) ((takeClear_owned hrx).trans ?_)
        simp only [clearBinAt, shaftOf_eq_none h3]
      rw [hx, running_takeRx hr hrx]
    · let u : State := { s with lkc := left }
      have hx : exec .clearBin s = running s (watchClaim s (if i = s.straps.shf then
          askGeneral (clearRecord 2 index s.straps.shf) (clearHold .binFull (setTally i { count := 0, mass := 0 } u))
          else setTally i { count := 0, mass := 0 } u)) := by
        refine congrArg (running s) ((takeClear_owned hrx).trans ?_)
        rw [takeRx_eq hrx]
        simp only [clearBinAt, shaftOf_eq_some hi]
        rfl
      obtain ⟨t, ht, k⟩ := running_cleared (r := .binFull) (i := i) (rest := rest) 2 index hr hp ha (by decide)
        (x := setTally i { count := 0, mass := 0 } u) rfl rfl
      refine ⟨t, hx.trans ht, ?_, fun j hj => ?_, k.views, k.holdAge, k.follows, k.link, k.own, k.other, k.frame⟩
      · rw [k.tallies]
        exact Four.get_set_same ..
      · rw [k.tallies]
        exact Four.get_set_ne _ _ hj
  · intro index rest s hr hp ha hrx
    refine ⟨fun hne => ?_, ?_⟩
    · have hx : exec .clearStation s = running s (takeRx s) := by
        refine congrArg (running s) ((takeClear_owned hrx).trans ?_)
        rw [takeRx_eq hrx]
        exact if_neg fun h => hne.elim (fun k => k h.2) (fun k => k h.1)
      rw [hx, running_takeRx hr hrx]
    · intro left
      have hx (hi : index = s.ownByte) (hst : s.csq.state = .fault) :
          exec .clearStation s = .next (settleStep (enterHome (stationCleared index { s with lkc := left }))) := by
        rw [← running_eq hr.1]
        refine congrArg (running s) ((takeClear_owned hrx).trans ?_)
        rw [takeRx_eq hrx]
        exact clearStationAt_eq ⟨hst, hi⟩
      have k := stationCleared_spec index left hp ha.noReadWaits
      generalize stationCleared index { s with lkc := left } = x at *
      refine ⟨fun hi hst hc => ⟨_, hx hi hst, ?_⟩, fun hi hst ho hself => ?_⟩
      · obtain ⟨hf, hcsq, hh, hlink, hasked, hj, -, -⟩ := k
        obtain ⟨htare, hint⟩ := hr.2.no_tare (by rw [hst]; decide) (by rw [hst]; decide)
        obtain ⟨⟨htf, htc⟩, home⟩ := enterHome_taken (u := x) (by rw [hf]; exact hp) (by rw [hcsq]; exact hc)
          (by rw [hf]; exact htare) (by rw [hf]; exact hint) s (by rw [hf]) (by rw [hf]) (by rw [hh])
        rw [show x.rct = s.rct.stop by rw [hf]] at home
        generalize settleStep (enterHome x) = t at *
        have hjnc : t.jnc = x.jnc := by rw [htf]
        have hlkc : t.lkc = x.lkc := by rw [htf]
        have hth : t.csq.holds = x.csq.holds := by rw [htc]
        refine ⟨by rw [RecordAsked, hjnc]; exact hasked, by rw [JournalKept, hjnc]; exact hj, ?_, ?_,
          by rw [LinkKept, HeadKept, hlkc, hjnc]; exact hlink, by rw [hth]; exact hh, _, Rotor.stop_motorStopped s.rct, home⟩
        · refine htc.trans ?_
          rw [hth]
          exact congrArg (fun c : Sequencer => { c with
            state := t.csq.state, lock := t.csq.lock, homeLimit := t.csq.homeLimit }) hcsq
        · rw [hjnc, hlkc]
          exact htf.trans (congrArg (fun y : State => { y with
            csq := t.csq, wch := t.wch, rct := t.rct, lms := t.lms }) hf)
      · intro clear seq
        refine ⟨_, hx hi hst, ?_⟩
        obtain ⟨hf, hcsq, hh, hlink, hasked, hj, hn, hhead⟩ := k
        obtain ⟨htare, hint⟩ := hr.2.no_tare (by rw [hst]; decide) (by rw [hst]; decide)
        have m := enterHome_forced (x := x) (by rw [hf]; exact hp) (by rw [hcsq]; exact ho) (by rw [hf]; exact hself) hn
          (by rw [hf]; exact htare) (by rw [hf]; exact hint)
        have hrct : x.rct = s.rct.stop := by rw [hf]
        have hrec : plainRecord x 8 4 = { plainRecord s 8 4 with seq := x.jnc.seqCounter + 1 } := by rw [hf]; rfl
        generalize settleStep (enterHome x) = t at *
        obtain ⟨htf, htc, hth, htl, hthead, htasked, htj⟩ := m
        have htrct : t.rct = s.rct.stop.goHome.stop := by rw [htf, hrct]
        refine ⟨?_, hj.trans htj, ?_, ?_, ⟨?_, (hhead.trans hthead).kept⟩, ?_, s.rct.stop, s.rct.stop.goHome,
          Rotor.stop_motorStopped _, Rotor.goHome_asked _, by rw [htrct]; exact Rotor.stop_motorStopped _⟩
        · have hlist : x.jnc.staging = s.jnc.staging ++ clear := by
            rw [hasked]
            show _ = s.jnc.staging ++ (if _ then _ else _)
            split
            · rfl
            · exact (List.append_nil _).symm
          have hseq : x.jnc.seqCounter = seq := by
            show _ = if clear = [] then _ else _
            split
            · next h => exact hj.seq_same (by rw [hlist, h, List.append_nil])
            · next h =>
              have hone : clear = [generalRecord s 6 3 index 0 0 0xFF 0xFFFF 0xFFFF] := if_pos (by
                by_contra hno
                exact h (if_neg hno))
              exact hj.seq_one (by rw [hlist, hone, List.length_append]; rfl)
          rw [htasked, hrec, hlist, hseq, List.length_append]
          by_cases hroom : s.jnc.staging.length + clear.length < 7 ∧ seq ≠ 0xFFFFFFFF
          · rw [if_pos hroom, if_pos hroom]
          · rw [if_neg hroom, if_neg hroom, List.append_nil]
        · exact htc.trans (congrArg (fun c : Sequencer => { c with
            state := .fault, lock := .low, holds := t.csq.holds, claimWait := none, accepted := none, retry := none
            homeLimit := none, turnLimit := none, fallWindow := none, landingSettle := none, weighed := none
            tagEnded := false, returnWait := false, awaiting := none }) hcsq)
        · rw [htrct]
          exact (show t = { x with csq := t.csq, rct := s.rct.stop.goHome.stop, jnc := t.jnc, lkc := t.lkc, lms := t.lms } by
            rw [← hrct]; exact htf).trans (congrArg (fun y : State => { y with
              csq := t.csq, rct := s.rct.stop.goHome.stop, jnc := t.jnc, lkc := t.lkc, lms := t.lms }) hf)
        · rw [hlink.1] at htl
          exact htl
        · exact hth.trans (congrArg (fun h : HoldSet => { h with
            journalFull := t.csq.holds.journalFull, journalBusy := t.csq.holds.journalBusy }) hh)

end Sys2Proof.Machine
end

section
/-! PROOFS. A bag returned (R15, R150, R152), and the claim abandoned (O40). -/

namespace Sys2Proof.Machine

/-! ## Returns (R15) -/

/-- R150, R152: a bag record has a place. -/
theorem bagPlace_iff (u : State) :
    bagPlace u = true ↔ u.jnc.staging.length < 8 ∨ u.jnc.seqCounter = 0xFFFFFFFF := by
  simp [bagPlace, seqMax]

/-- R15: from u to t the bag has been returned. -/
structure BagReturned (r : ReturnReason) (u t : State) : Prop where
  returned : Returned r u.csq.bag u t
  sequencer : ReturnFrame u.csq.holds u t
  frame : t = { u with csq := t.csq, lkc := t.lkc, jnc := t.jnc, lms := t.lms }
  link : t.lkc = { u.lkc with rx := t.lkc.rx, holding := t.lkc.holding }
  head : HeadOp u t

theorem returnBag_returned (r : ReturnReason) {u : State} (hp : u.phase = .service) (hn : NoReadWaits u) :
    BagReturned r u (returnBag r u) := by
  let v : State := { u with csq := { u.csq with
    bag := { u.csq.bag with reason := some r }, claimWait := none, retry := none, awaiting := none } }
  have hdef : returnBag r u = if bagPlace u then enterPresent (askBag (returnRecord r u.csq.bag u.straps.shf) v)
      else { askBag (returnRecord r u.csq.bag u.straps.shf) v with
        csq := { (askBag (returnRecord r u.csq.bag u.straps.shf) v).csq with returnWait := true } } := rfl
  obtain ⟨hroom, hwait⟩ := askBag_placed (returnRecord r u.csq.bag u.straps.shf) (u := v) hn
  have w := askBag_worked (returnRecord r u.csq.bag u.straps.shf) (u := v) hn
  have hhead := askBag_head (returnRecord r u.csq.bag u.straps.shf) v
  have hstamp : stamped v (returnRecord r u.csq.bag u.straps.shf) = generalRecord u 3 r.code (shaftByte u.straps.shf)
      u.csq.bag.serial u.csq.bag.account u.csq.bag.bagType u.csq.bag.mass 0xFFFF :=
    stamped_general v (by simp [returnRecord, RecordReq.blank]) rfl
  rw [hstamp] at hroom
  rw [hdef]
  generalize askBag (returnRecord r u.csq.bag u.straps.shf) v = a at *
  have hhead' : HeadOp u a := HeadOp.trans (t := v) (.of_eq rfl rfl rfl) hhead
  by_cases hb : bagPlace u = true
  · have hplace := (bagPlace_iff u).mp hb
    obtain ⟨hk, hst⟩ := hroom hplace
    have hlock : lockLine a.phase .present = .high := by rw [show a.phase = .service by rw [w.frame]; exact hp]; rfl
    have hdef' : a.jnc.deferred = u.jnc.deferred := congrArg (·.deferred) hk.1
    have ht : enterPresent a = { a with
        csq := { a.csq with returnWait := false, state := .present, lock := .high }, lms := (enterPresent a).lms } := by
      rw [← hlock]
      rfl
    rw [if_pos hb]
    generalize enterPresent a = t at *
    have htc : t.csq = { a.csq with returnWait := false, state := .present, lock := .high } := by rw [ht]
    have htj : t.jnc = a.jnc := by rw [ht]
    have hseq : t.csq = { u.csq with
        state := t.csq.state, lock := t.csq.lock, holds := t.csq.holds, bag := t.csq.bag
        returnWait := t.csq.returnWait, claimWait := none, retry := none, awaiting := none } := by
      rw [htc]
      exact congrArg (fun c : Sequencer => { c with
        returnWait := false, state := .present, lock := .high, holds := a.csq.holds, bag := a.csq.bag }) w.csq
    exact
      { returned := ⟨by rw [htc, w.csq], fun _ => ⟨by rw [htc], by rw [htc], by rw [htc], by rw [htj]; exact hdef',
            by rw [htj]; exact hst⟩,
          fun h8 hm => absurd hplace (not_or.mpr ⟨Nat.not_lt.mpr h8, hm⟩)⟩
        sequencer := ⟨hseq, by rw [htc]; exact w.holds, fun _ => by rw [JournalKept, htj]; exact hk⟩
        frame := by
          rw [htj, show t.lkc = a.lkc by rw [ht]]
          conv_lhs => rw [ht, ← htc]
          exact congrArg (fun x : State => { x with csq := t.csq, lms := t.lms }) w.frame
        link := by
          rw [show t.lkc = a.lkc by rw [ht]]
          exact w.link.1
        head := hhead'.trans (.of_eq (by rw [ht]) (by rw [ht]) (by rw [ht])) }
  · have hplace := not_or.mp ((bagPlace_iff u).not.mp hb)
    have ha := hwait (Nat.not_lt.mp hplace.1) hplace.2
    rw [if_neg hb]
    subst ha
    exact
      { returned := ⟨rfl, fun h => absurd h (not_or.mpr hplace), fun _ _ => ⟨rfl, rfl, rfl, rfl⟩⟩
        sequencer := ⟨rfl, rfl, fun h => absurd h (not_or.mpr hplace)⟩
        frame := rfl, link := rfl, head := .of_eq rfl rfl rfl }

/-- R8, R11, R26, R39: a return from CLAIM or CHECK leaves nothing to be judged at the end of the step. -/
theorem BagReturned.still {r : ReturnReason} {u t : State} (h : BagReturned r u t)
    (hst : u.csq.state = .claim ∨ u.csq.state = .check) (hc : u.csq.hatch = .closed) (ha : u.wch.activity ≠ .tare)
    (hi : u.wch.tareInterval = none) : settleStep t = t := by
  have hstate : t.csq.state = .present ∨ t.csq.state = u.csq.state := by
    obtain ⟨-, hroom, hwait⟩ := h.returned
    by_cases hp : u.jnc.staging.length < 8 ∨ u.jnc.seqCounter = 0xFFFFFFFF
    · exact .inl (hroom hp).1
    · obtain ⟨h8, hm⟩ := not_or.mp hp
      exact .inr (hwait (Nat.not_lt.mp h8) hm).1
  have hhatch : t.csq.hatch = .closed := by rw [h.sequencer.1]; exact hc
  have hwch : t.wch = u.wch := by rw [h.frame]
  have hnot : t.csq.state ≠ .idle ∧ t.csq.state ≠ .held := by
    rcases hstate with hs | hs
    · rw [hs]; decide
    · rw [hs]
      rcases hst with hs | hs <;> rw [hs] <;> decide
  exact settleStep_of_settled (settled_elsewhere hnot.1 hnot.2 (fun _ => hhatch) (by rw [hwch]; exact ha)
    (by rw [hwch]; exact hi))

/-! ## The claim abandoned (R19, R27, R121) -/

theorem giveUpClaim_frame (s : State) : giveUpClaim s = { s with
    shc := (giveUpClaim s).shc, lkc := { s.lkc with queue := (giveUpClaim s).lkc.queue } } := by
  have hf := (giveUpClaim_op s).frame
  rw [giveUpClaim_csq, giveUpClaim_draws, giveUpClaim_lkc] at hf
  exact hf

/-- R121, R15: from s to t the claim has been given up and the bag returned. -/
structure ClaimReturned (r : ReturnReason) (s t : State) : Prop where
  returned : Returned r s.csq.bag s t
  sequencer : ReturnFrame s.csq.holds s t
  givenUp : ClaimGivenUp s t
  frame : t = { s with csq := t.csq, lkc := t.lkc, shc := t.shc, jnc := t.jnc, lms := t.lms }
  link : t.lkc = { s.lkc with queue := t.lkc.queue, rx := t.lkc.rx, holding := t.lkc.holding }
  head : HeadOp s t
  views : t.shc.views = s.shc.views
  holdAge : t.shc.holdAge = s.shc.holdAge
  tallies : t.shc.tallies = s.shc.tallies
  still : settleStep t = t

theorem claimReturned (r : ReturnReason) {s : State} (hp : s.phase = .service) (hn : NoReadWaits s) 
    (hst : s.csq.state = .claim) (hc : s.csq.hatch = .closed) (ha : s.wch.activity ≠ .tare)
    (hi : s.wch.tareInterval = none) : ClaimReturned r s (returnBag r (giveUpClaim s)) := by
  have hf := giveUpClaim_frame s
  have op := giveUpClaim_op s
  have hgiven := giveUpClaim_givenUp s
  generalize giveUpClaim s = u at *
  have k := returnBag_returned r (u := u) (by rw [hf]; exact hp) (by rw [hf]; exact hn)
  have hstill := k.still (.inl (by rw [hf]; exact hst)) (by rw [hf]; exact hc) (by rw [hf]; exact ha)
    (by rw [hf]; exact hi)
  generalize returnBag r u = t at *
  have hshc : t.shc = u.shc := by rw [k.frame]
  have hqueue : t.lkc.queue = u.lkc.queue := by rw [k.link]
  obtain ⟨hret, hseq, hframe, hlink, hhead⟩ := k
  have hviews : t.shc.views = s.shc.views := by rw [hshc, op.views]
  have hage : t.shc.holdAge = s.shc.holdAge := by rw [hshc, op.holdAge]
  have htal : t.shc.tallies = s.shc.tallies := by rw [hshc, op.tallies]
  rw [hf] at hret hseq hframe hhead
  exact
    { returned := hret, sequencer := hseq, givenUp := hgiven.congr hshc hqueue
      frame := by
        rw [hshc]
        exact hframe
      link := by
        rw [hqueue]
        rw [hf] at hlink
        exact hlink
      head := HeadOp.trans (t := { s with shc := u.shc, lkc := { s.lkc with queue := u.lkc.queue } })
        (.of_eq rfl rfl rfl) hhead
      views := hviews, holdAge := hage, tallies := htal, still := hstill }

theorem sameHolds_trans {h k l : HoldSet} (a : SameHoldsButJournal h k) (b : SameHoldsButJournal k l) :
    SameHoldsButJournal h l :=
  b.trans (congrArg (fun x : HoldSet => { x with journalFull := l.journalFull, journalBusy := l.journalBusy }) a)

/-- R8, R11, R26, R39: in CLAIM with the hatch shut nothing is to be judged at the end of the step. -/
theorem settleStep_claim {t : State} (hst : t.csq.state = .claim) (hc : t.csq.hatch = .closed) (ha : t.wch.activity ≠ .tare)
    (hi : t.wch.tareInterval = none) : settleStep t = t :=
  settleStep_of_settled (settled_elsewhere (by rw [hst]; decide) (by rw [hst]; decide) (fun _ => hc) ha hi)

/-- R174, R27: POWER raised in CLAIM, with its record asked for. -/
def powerAsked (s : State) : State := askGeneral (powerRecord 1 s.straps.shf) (judgeHold .power true (setLevel .warn s))

theorem exec_supplyWarn {s : State} (hp : s.phase ≠ .inReset) (hl : s.supply.level = .normal) :
    exec .supplyWarn s = .next (settleStep (powerInClaim (powerAsked s))) := by
  have hx : exec .supplyWarn s = running (setLevel .warn s) (warnEffect (setLevel .warn s)) := if_pos hl
  rw [hx, running_eq (s := setLevel .warn s) hp, warnEffect, raiseHold_eq _ (by decide)]
  rfl

theorem exec_claimWaitExpiry {s : State} (h : s.csq.claimWait ≠ none) (hst : s.csq.state = .claim) :
    exec .claimWaitExpiry s = running s (abandonClaim .timeout s) := congrArg (running s) (if_pos ⟨h, hst⟩)

theorem abandonClaim_awaits {c : AwaitCause} {s : State} (ht : s.lkc.claimInTx = true) (hg : s.shc.givenUp = false) :
    abandonClaim c s = { s with csq := { s.csq with claimWait := none, retry := none, awaiting := some c } } :=
  if_pos (by rw [ht, hg]; rfl)

theorem abandonClaim_returns {c : AwaitCause} {s : State} (h : s.lkc.claimInTx = false ∨ s.shc.givenUp = true) :
    abandonClaim c s = returnBag c.reason (giveUpClaim s) :=
  if_neg (by rcases h with h | h <;> simp [h])

/-- What POWER raised in CLAIM has made of the part before the claim is judged. -/
structure PowerRaised (s a : State) : Prop where
  frame : a = { s with supply := a.supply, csq := a.csq, lkc := a.lkc, jnc := a.jnc }
  supply : a.supply = { s.supply with level := .warn, recovery := none }
  csq : a.csq = { s.csq with holds := a.csq.holds }
  holds : SameHoldsButJournal { s.csq.holds with power := true } a.csq.holds
  link : a.lkc = { s.lkc with rx := a.lkc.rx, holding := a.lkc.holding }
  head : HeadOp s a
  asked : RecordAsked (plainRecord s 9 1) s a
  journal : JournalKept s.jnc a
  full : 7 ≤ s.jnc.staging.length → a.jnc = s.jnc
  reads : NoReadWaits a

theorem powerAsked_raised {s : State} (hp : s.phase = .service) (hn : NoReadWaits s) : PowerRaised s (powerAsked s) := by
  let v : State := judgeHold .power true (setLevel .warn s)
  have hk : (powerRecord 1 s.straps.shf).kind ≠ .unclaimed := by simp [powerRecord, RecordReq.blank]
  have w := askGeneral_worked (powerRecord 1 s.straps.shf) (u := v) hn
  have hasked := askGeneral_staging (powerRecord 1 s.straps.shf) (s := v) hp (coalesces_eq_false hk v)
  rw [stamped_general _ (by simp [powerRecord, RecordReq.blank]) rfl] at hasked
  exact
    { frame := by
        rw [show (powerAsked s).supply = { s.supply with level := .warn, recovery := none } from congrArg (·.supply) w.frame]
        exact w.frame
      supply := congrArg (·.supply) w.frame
      csq := w.csq, holds := w.holds, link := w.link.1
      head := HeadOp.trans (t := v) (.of_eq rfl rfl rfl) (askGeneral_head _ v)
      asked := hasked
      journal := askGeneral_journal (powerRecord 1 s.straps.shf) (s := v) hp hn
      full := fun h => congrArg (·.jnc) (askGeneral_full (u := v) hp hk h)
      reads := ((askGeneral_op _ v).quiet hn).1 }

/-- Settles O40: the claim wait limit and POWER in CLAIM (R19, R27, R121). -/
theorem claimIsAbandoned : Obligations.ClaimIsAbandoned := by
  refine ⟨fun s hr hp har hw hst => ?_, ?_, ?_⟩
  · rw [exec_claimWaitExpiry hw hst]
    obtain ⟨htare, hint⟩ := hr.2.no_tare (by rw [hst]; decide) (by rw [hst]; decide)
    refine ⟨fun ht hg => ?_, fun h => ?_⟩
    · rw [abandonClaim_awaits ht hg]
      exact running_of_settled hr.1 (hr.2.transfer rfl rfl rfl rfl rfl Iff.rfl rfl)
    · have k := claimReturned .claimTimeout hp har.noReadWaits hst (hr.2.hatchShut (.inr (by rw [hst]; rfl))) htare hint
      rw [abandonClaim_returns h, running_eq hr.1]
      refine ⟨_, rfl, ?_⟩
      rw [show AwaitCause.timeout.reason = .claimTimeout from rfl, k.still]
      exact ⟨k.returned, k.sequencer, k.givenUp, ⟨k.link, k.head.kept⟩, k.views, k.holdAge, k.tallies, k.frame⟩
  · intro s hr hp har hl hst haw hrw full power seq
    rw [exec_supplyWarn hr.1 hl]
    refine ⟨_, rfl, ?_⟩
    obtain ⟨htare, hint⟩ := hr.2.no_tare (by rw [hst]; decide) (by rw [hst]; decide)
    have hclosed : s.csq.hatch = .closed := hr.2.hatchShut (.inr (by rw [hst]; rfl))
    have k := powerAsked_raised hp har.noReadWaits
    generalize powerAsked s = a at *
    obtain ⟨hf, hsup, hcsq, hh, hlink, hhead, hasked, hj, hfull, hn⟩ := k
    have hac : a.csq.state = .claim := by rw [hcsq]; exact hst
    have hx : powerInClaim a = abandonClaim .power a := by
      unfold powerInClaim
      rw [if_pos ⟨hac, by rw [hcsq]; exact hrw⟩, show a.csq.awaiting = none by rw [hcsq]; exact haw]
    have hshc : a.shc = s.shc := by rw [hf]
    have htx : a.lkc.claimInTx = s.lkc.claimInTx := by rw [hlink]; rfl
    have hlist : a.jnc.staging = s.jnc.staging ++ power := by
      rw [hasked]
      show _ = s.jnc.staging ++ (if _ then _ else _)
      split
      · rfl
      · exact (List.append_nil _).symm
    have hpow : a.csq.holds.power = true := by rw [hh]
    have hfe : a = { s with
        supply := a.supply, csq := a.csq, lkc := a.lkc, shc := a.shc, jnc := a.jnc, lms := a.lms } := by
      rw [hshc, show a.lms = s.lms by rw [hf]]
      exact hf
    rw [hx]
    by_cases hwait : s.lkc.claimInTx = true ∧ s.shc.givenUp = false
    · obtain ⟨ht, hg⟩ := hwait
      rw [abandonClaim_awaits (htx.trans ht) (by rw [hshc]; exact hg),
        settleStep_claim (t := { a with csq := { a.csq with
          claimWait := none, retry := none, awaiting := some .power } }) hac (by rw [hcsq]; exact hclosed) (by rw [hf]; exact htare) (by rw [hf]; exact hint)]
      refine ⟨hsup, hpow, by rw [hf], by rw [hf], by rw [hf], hh, ?_, fun _ _ => ⟨?_, hlist, hj, hshc, by rw [hf],
        hlink, hhead.kept⟩, fun h => absurd h (by simp [ht, hg])⟩
      · exact congrArg (fun x : State => { x with csq := { a.csq with
          claimWait := none, retry := none, awaiting := some .power } }) hfe
      · exact congrArg (fun c : Sequencer => { c with claimWait := none, retry := none, awaiting := some .power }) hcsq
    · have hret : s.lkc.claimInTx = false ∨ s.shc.givenUp = true := by
        rcases h1 : s.lkc.claimInTx with _ | _
        · exact .inl rfl
        · exact .inr (by simpa [h1] using hwait)
      have k := claimReturned .outOfService (s := a) (by rw [hf]; exact hp) hn hac (by rw [hcsq]; exact hclosed)
        (by rw [hf]; exact htare) (by rw [hf]; exact hint)
      rw [abandonClaim_returns (by rw [htx, hshc]; exact hret), show AwaitCause.power.reason = .outOfService from rfl, k.still]
      generalize returnBag .outOfService (giveUpClaim a) = t at *
      obtain ⟨kret, kseq, kgiven, kf, klink, khead, kviews, kage, ktal, -⟩ := k
      have hfl : a = { s with
          supply := a.supply, csq := a.csq
          lkc := { s.lkc with rx := a.lkc.rx, holding := a.lkc.holding }, jnc := a.jnc } := by
        rw [← hlink]
        exact hf
      have hholds : SameHoldsButJournal { s.csq.holds with power := true } t.csq.holds := sameHolds_trans hh kseq.2.1
      have hfree : s.jnc.staging.length < 8 ∨ full → a.jnc.staging.length < 8 ∨ a.jnc.seqCounter = 0xFFFFFFFF := by
        intro h
        by_cases h7 : s.jnc.staging.length < 7 ∧ ¬ full
        · refine .inl ?_
          rw [hlist, show power = [_] from if_pos h7, List.length_append]
          exact Nat.succ_lt_succ h7.1
        · have hno : a.jnc.staging = s.jnc.staging := by
            rw [hlist, show power = [] from if_neg h7, List.append_nil]
          rw [hno, hj.seq_same (by rw [hno])]
          exact h
      have hseq : a.jnc.seqCounter = seq := by
        show _ = if power = [] then _ else _
        split
        · next h => exact hj.seq_same (by rw [hlist, h, List.append_nil])
        · next h =>
          have hone : power = [plainRecord s 9 1] := if_pos (by
            by_contra hno
            exact h (if_neg hno))
          exact hj.seq_one (by rw [hlist, hone, List.length_append]; rfl)
      have hrec : generalRecord a 3 2 (shaftByte a.straps.shf) a.csq.bag.serial a.csq.bag.account a.csq.bag.bagType
          a.csq.bag.mass 0xFFFF = { generalRecord s 3 2 (shaftByte s.straps.shf) s.csq.bag.serial s.csq.bag.account
            s.csq.bag.bagType s.csq.bag.mass 0xFFFF with seq := seq + 1 } := by
        rw [← hseq, show a.csq.bag = s.csq.bag by rw [hcsq], hf]
        rfl
      refine ⟨?_, ?_, ?_, ?_, ?_, hholds, ?_, ?_, fun _ => ⟨?_, ⟨?_, (hhead.trans khead).kept⟩, ⟨?_, hholds, ?_⟩, ?_, ?_, ?_⟩⟩
      · exact (congrArg (·.supply) kf).trans hsup
      · rw [hholds]
      · rw [kviews, hshc]
      · rw [kage, hshc]
      · rw [ktal, hshc]
      · rw [show t.supply = a.supply from congrArg (·.supply) kf]
        exact kf.trans (congrArg (fun x : State => { x with
          csq := t.csq, lkc := t.lkc, shc := t.shc, jnc := t.jnc, lms := t.lms }) hfe)
      · exact fun h1 h2 => absurd ⟨h1, h2⟩ hwait
      · rw [hfl] at kgiven
        exact kgiven
      · rw [hlink] at klink
        exact klink
      · exact kseq.1.trans (congrArg (fun c : Sequencer => { c with
          state := t.csq.state, lock := t.csq.lock, holds := t.csq.holds, bag := t.csq.bag
          returnWait := t.csq.returnWait, claimWait := none, retry := none, awaiting := none }) hcsq)
      · exact fun h => hj.trans (kseq.2.2 (hfree h))
      · rw [kret.1, hcsq]
      · intro h
        obtain ⟨h1, h2, h3, -, h5⟩ := kret.2.1 (hfree h)
        refine ⟨h1, h2, h3, ?_⟩
        rw [h5, hlist, hseq, show ReturnReason.outOfService.code = 2 from rfl, hrec]
      · intro h8 hm
        have ha : a.jnc = s.jnc := hfull (Nat.le_of_succ_le h8)
        obtain ⟨h1, h2, h3, h4⟩ := kret.2.2 (by rw [ha]; exact h8) (by rw [ha]; exact hm)
        refine ⟨h1.trans hac, by rw [h2, hcsq], h3, ?_⟩
        rw [h4, ha, hcsq, show a.straps = s.straps by rw [hf]]
  · intro s hr hp har hl hst hopen reasonOpen
    rw [exec_supplyWarn hr.1 hl]
    refine ⟨_, rfl, ?_⟩
    obtain ⟨htare, hint⟩ := hr.2.no_tare (by rw [hst]; decide) (by rw [hst]; decide)
    have hclosed : s.csq.hatch = .closed := hr.2.hatchShut (.inr (by rw [hst]; rfl))
    have k := powerAsked_raised hp har.noReadWaits
    generalize powerAsked s = a at *
    obtain ⟨hf, hsup, hcsq, hh, hlink, hhead, hasked, hj, -, -⟩ := k
    have haw : a.csq.awaiting = s.csq.awaiting := by rw [hcsq]
    have hrw : a.csq.returnWait = s.csq.returnWait := by rw [hcsq]
    have hac : a.csq.state = .claim := by rw [hcsq]; exact hst
    obtain ⟨w, d, hx, hopened, hkept⟩ : ∃ w d, powerInClaim a = { a with csq := { a.csq with awaiting := w }, draws := d } ∧
        (reasonOpen → (w = some .timeout ∨ w = some .power) ∧ d = s.draws + 1) ∧
        (¬ reasonOpen → w = s.csq.awaiting ∧ d = s.draws) := by
      have hd : a.draws = s.draws := by rw [hf]
      by_cases ho : reasonOpen
      · refine ⟨some (if Config.powerOverridesTimeout a.draws then .power else .timeout), a.draws + 1, ?_, fun _ => ⟨?_, ?_⟩,
          fun h => absurd ho h⟩
        · unfold powerInClaim
          rw [if_pos ⟨hac, hrw.trans ho.2⟩, haw.trans ho.1]
          rfl
        · split
          · exact .inr rfl
          · exact .inl rfl
        · rw [hd]
      · refine ⟨a.csq.awaiting, a.draws, ?_, fun h => absurd h ho, fun _ => ⟨haw, hd⟩⟩
        show _ = a
        unfold powerInClaim
        split
        · next h =>
          have hno : s.csq.returnWait = false := hrw.symm.trans h.2
          rcases hc : s.csq.awaiting with _ | _ | _
          · rcases hopen with k | k
            · exact absurd hc k
            · exact absurd (hno.symm.trans k) Bool.noConfusion
          · exact absurd ⟨hc, hno⟩ ho
          · rw [haw, hc]
        · rfl
    rw [hx, settleStep_claim (t := { a with csq := { a.csq with awaiting := w }, draws := d }) hac
      (by rw [hcsq]; exact hclosed) (by rw [hf]; exact htare) (by rw [hf]; exact hint)]
    refine ⟨?_, hsup, ?_, hh, hasked, hj, ⟨hlink, hhead.kept⟩, hopened, hkept⟩
    · exact congrArg (fun x : State => { x with csq := { a.csq with awaiting := w }, draws := d }) hf
    · exact congrArg (fun c : Sequencer => { c with awaiting := w }) hcsq

end Sys2Proof.Machine
end

section
/-! PROOFS. The own CLAIM on its way out (O49). -/

namespace Sys2Proof.Machine

/-! ## The one CLAIM of the transmit queue (R104, R106) -/

/-- R104: at most one CLAIM stands in the queue, so a CLAIM found in it is the one. -/
theorem eq_of_isClaim {q : List TxEntry} (h : (q.filter (fun e => e.content.isClaim)).length ≤ 1) {e f : TxEntry}
    (he : e ∈ q) (hf : f ∈ q) (hec : e.content.isClaim = true) (hfc : f.content.isClaim = true) : e = f := by
  have he' : e ∈ q.filter (fun e => e.content.isClaim) := List.mem_filter.mpr ⟨he, hec⟩
  have hf' : f ∈ q.filter (fun e => e.content.isClaim) := List.mem_filter.mpr ⟨hf, hfc⟩
  generalize q.filter (fun e => e.content.isClaim) = l at *
  match l, h with
  | [], _ => exact absurd he' List.not_mem_nil
  | [a], _ => exact (List.mem_singleton.mp he').trans (List.mem_singleton.mp hf').symm

/-- R106: with no frame in transmission the CLAIM in the queue is the one that is withdrawn. -/
theorem queuedClaim_eq {l : Link} (h : (l.queue.filter (fun e => e.content.isClaim)).length ≤ 1) (hi : l.inTx = none)
    {e : TxEntry} (he : e ∈ l.queue) (hc : e.content.isClaim = true) : l.queuedClaim = some e := by
  unfold Link.queuedClaim
  rw [hi]
  cases hf : l.queue.find? (fun e => e.content.isClaim && some e.age != none) with
  | none => exact absurd (List.find?_eq_none.mp hf e he) (by simp [hc])
  | some f =>
    have hp := List.find?_some hf
    rw [Bool.and_eq_true] at hp
    rw [eq_of_isClaim h he (List.mem_of_find?_eq_some hf) hc hp.1]

theorem withdrawClaim_eq {s : State} (h : (s.lkc.queue.filter (fun e => e.content.isClaim)).length ≤ 1)
    (hi : s.lkc.inTx = none) {e : TxEntry} (he : e ∈ s.lkc.queue) (hc : e.content.isClaim = true) :
    withdrawClaim s = { s with lkc := s.lkc.without e.age } := by
  unfold withdrawClaim
  rw [queuedClaim_eq h hi he hc]

theorem current_mem {l : Link} {e : TxEntry} (h : l.current = some e) : e ∈ l.queue := by
  unfold Link.current at h
  split at h
  · exact nomatch h
  · exact List.mem_of_find?_eq_some h

/-- R93: an entry's stall attempts counted, and the entry removed. -/
theorem filter_setAttempts (q : List TxEntry) (a n : Nat) :
    (q.map (fun f => if f.age = a then { f with attempts := n } else f)).filter (fun f => f.age != a) =
      q.filter (fun f => f.age != a) := by
  induction q with
  | nil => rfl
  | cons f q ih =>
    by_cases h : f.age = a
    · simp [h, ih]
    · simp [h, ih]

theorem filter_isClaim_setAttempts (q : List TxEntry) (a n : Nat) :
    ((q.map (fun f => if f.age = a then { f with attempts := n } else f)).filter (fun e => e.content.isClaim)).length =
      (q.filter (fun e => e.content.isClaim)).length := by
  induction q with
  | nil => rfl
  | cons f q ih =>
    have hc : (if f.age = a then { f with attempts := n } else f).content = f.content := by split <;> rfl
    simp only [List.map_cons, List.filter_cons, hc]
    split <;> simp [ih]

/-- R106: the withdrawal of the CLAIM where no frame is in transmission. -/
theorem withdrawClaim_unsent {s : State} (hl : LinkRight s) (ha : AgesRight s) (hi : s.lkc.inTx = none) :
    withdrawClaim s = { s with lkc := { s.lkc with queue := s.lkc.queue.filter (fun e => !e.content.isClaim) } } := by
  obtain ⟨-, -, h1, -⟩ := hl
  obtain ⟨hnd, -⟩ := ha
  by_cases hc : ∃ e ∈ s.lkc.queue, e.content.isClaim = true
  · obtain ⟨e, he, hc⟩ := hc
    have hq : s.lkc.queue.filter (fun f => f.age != e.age) = s.lkc.queue.filter (fun f => !f.content.isClaim) := by
      refine List.filter_congr fun f hf => ?_
      by_cases hfe : f = e
      · rw [hfe, hc]
        simp
      · have hage : f.age ≠ e.age := fun h => hfe (List.inj_on_of_nodup_map hnd hf he h)
        have hfc : f.content.isClaim = false := Bool.eq_false_iff.mpr fun h => hfe (eq_of_isClaim h1 hf he h hc)
        simp [hage, hfc]
    rw [withdrawClaim_eq h1 hi he hc, ← hq]
    rfl
  · have hn : s.lkc.queuedClaim = none := by
      unfold Link.queuedClaim
      exact List.find?_eq_none.mpr fun f hf h => hc ⟨f, hf, (Bool.and_eq_true _ _ ▸ h).1⟩
    have hq : s.lkc.queue.filter (fun e => !e.content.isClaim) = s.lkc.queue :=
      List.filter_eq_self.mpr fun f hf => by
        rw [Bool.eq_false_iff.mpr fun h => hc ⟨f, hf, h⟩]
        rfl
    unfold withdrawClaim
    rw [hn, hq]

/-- R116: the withdraw conditions as they stand. -/
theorem claimBlocked_iff (s : State) : claimBlocked s = true ↔ WithdrawStands s := by
  have hother : heldByOther s (ownView s) = true ↔ ∃ h, ownView s = .held h ∧ h ≠ s.straps.adr := by
    cases hv : ownView s with
    | held h => simp [heldByOther_held]
    | free => simp [heldByOther]
    | jammed => simp [heldByOther]
  unfold claimBlocked WithdrawStands
  rw [Bool.or_eq_true, Bool.or_eq_true, hother, beq_iff_eq, or_assoc]

/-! ## A CLAIM that is back, or dropped (R93, R94, R118, R121) -/

theorem claimStillSought_iff (s : State) : claimStillSought s = true ↔ s.csq.state = .claim ∧ s.shc.givenUp = false := by
  simp [claimStillSought]

/-- R118, R121: the CLAIM removed, with the link l after it. -/
def claimGone (l : Link) (s : State) : State := { s with lkc := l, shc := noClaim s.shc }

theorem claimIdle_gone (s : State) : claimIdle s = claimGone s.lkc s := rfl

/-- R17, R19, R27: a bag whose claim was only awaited is returned, with the CLAIM gone. -/
theorem awaited_returns (r : ReturnReason) (l : Link) {s : State} (hr : Runs s) (hp : s.phase = .service)
    (har : ArrayRight s) (hst : s.csq.state = .claim) :
    ∃ t, running s (returnBag r (claimGone l s)) = .next t ∧ Returned r s.csq.bag s t ∧ ReturnFrame s.csq.holds s t ∧
      t.shc = noClaim s.shc ∧ LinkKept l t ∧
      t = { s with csq := t.csq, lkc := t.lkc, shc := t.shc, jnc := t.jnc, lms := t.lms } := by
  obtain ⟨htare, hint⟩ := hr.2.no_tare (by rw [hst]; decide) (by rw [hst]; decide)
  have k := returnBag_returned r (u := claimGone l s) hp har.noReadWaits
  have hstill := k.still (.inl hst) (hr.2.hatchShut (.inr (by rw [hst]; rfl))) htare hint
  generalize returnBag r (claimGone l s) = t at *
  have hshc : t.shc = noClaim s.shc := congrArg (·.shc) k.frame
  refine ⟨t, by rw [running_eq hr.1, hstill], k.returned, k.sequencer, hshc, ⟨k.link, k.head.kept⟩, ?_⟩
  rw [hshc]
  exact k.frame

/-- R118: what becomes of a CLAIM that is back in the queue: the claim that is sought goes on; otherwise it is withdrawn,
with the link l after it. -/
structure ClaimBack (back : State → State) (l : Link) (s : State) : Prop where
  sought : s.csq.state = .claim → s.shc.givenUp = false → s.csq.awaiting = none → claimBack back s = back s
  awaited : ∀ c, s.csq.state = .claim → s.shc.givenUp = false → s.csq.awaiting = some c →
    claimBack back s = returnBag c.reason (claimGone l s)
  unsought : s.csq.state ≠ .claim ∨ s.shc.givenUp = true → claimBack back s = claimGone l s

theorem claimBack_cases (back : State → State) {s : State} {e : TxEntry}
    (h : (s.lkc.queue.filter (fun e => e.content.isClaim)).length ≤ 1) (hi : s.lkc.inTx = none) (he : e ∈ s.lkc.queue)
    (hc : e.content.isClaim = true) : ClaimBack back (s.lkc.without e.age) s := by
  have hw : claimIdle (withdrawClaim s) = claimGone (s.lkc.without e.age) s := by
    rw [withdrawClaim_eq h hi he hc]
    rfl
  refine ⟨fun hs hg ha => ?_, fun c hs hg ha => ?_, fun hn => ?_⟩
  · unfold claimBack
    rw [if_pos ((claimStillSought_iff s).mpr ⟨hs, hg⟩), ha]
  · unfold claimBack
    rw [if_pos ((claimStillSought_iff s).mpr ⟨hs, hg⟩), ha, hw]
  · unfold claimBack
    rw [if_neg fun k => ?_, hw]
    obtain ⟨hs, hg⟩ := (claimStillSought_iff s).mp k
    exact hn.elim (fun h => h hs) (fun h => absurd (hg.symm.trans h) Bool.noConfusion)

/-- R118: what becomes of a CLAIM that is dropped. -/
theorem claimDropped_cases (s : State) :
    (s.csq.state = .claim → s.shc.givenUp = false → s.csq.awaiting = none →
      claimDropped s = startRetry (claimGone s.lkc s)) ∧
    (∀ c, s.csq.state = .claim → s.shc.givenUp = false → s.csq.awaiting = some c →
      claimDropped s = returnBag c.reason (claimGone s.lkc s)) ∧
    (s.csq.state ≠ .claim ∨ s.shc.givenUp = true → claimDropped s = claimGone s.lkc s) := by
  refine ⟨fun hs hg ha => ?_, fun c hs hg ha => ?_, fun hn => ?_⟩
  · unfold claimDropped takeBusyRefusal
    rw [if_pos ((claimStillSought_iff s).mpr ⟨hs, hg⟩), claimIdle_gone, show (claimGone s.lkc s).csq.awaiting = none from ha]
  · unfold claimDropped takeBusyRefusal
    rw [if_pos ((claimStillSought_iff s).mpr ⟨hs, hg⟩), claimIdle_gone, show (claimGone s.lkc s).csq.awaiting = some c from ha]
  · unfold claimDropped
    rw [if_neg fun k => ?_, claimIdle_gone]
    obtain ⟨hs, hg⟩ := (claimStillSought_iff s).mp k
    exact hn.elim (fun h => h hs) (fun h => absurd (hg.symm.trans h) Bool.noConfusion)

/-- R92 to R94: the station listens once its own frame is off the link. -/
def followingLink (l : Link) : Link :=
  { l with phase := .receiving, settleTime := 0, reception := .absent, inTx := none }

/-- R92: contention lost, with the bits read so far in reception. -/
def lostTo (read : List Bool) (s : State) : State :=
  { s with lkc := { followingLink s.lkc with reception := .bits read } }

/-- R93: the entry is queued again with one stall attempt more. -/
def stalledAgain (e : TxEntry) (s : State) : State :=
  { s with lkc := { followingLink s.lkc with
    queue := s.lkc.queue.map (fun f => if f.age = e.age then { f with attempts := e.attempts + 1 } else f) } }

/-- R93: the entry is dropped at its fourth stall attempt. -/
def droppedEntry (e : TxEntry) (s : State) : State :=
  { s with lkc := { followingLink s.lkc with
    queue := s.lkc.queue.filter (fun f => f.age != e.age), dropCount := min 255 (s.lkc.dropCount + 1) } }

theorem exec_lossOfContention_claim {s : State} {e : TxEntry} (htx : s.lkc.phase = .transmitting)
    (he : s.lkc.current = some e) (hc : e.content.isClaim = true) {k : Nat} (hk : (sentBits s e)[k]? = some true)
    (hrec : s.lkc.reception = .bits ((sentBits s e).take k)) :
    exec .lossOfContention s = running s (claimBack queuedAfterLoss (lostTo ((sentBits s e).take k ++ [false]) s)) := by
  rw [exec_lossOfContention htx he, readZero_lost hk hrec, loseContention, if_pos hc]
  rfl

/-- R93, R94, R118: a CLAIM abandoned below the fourth attempt, and at it. -/
theorem abandonFrame_claim {e : TxEntry} (s : State) (hc : e.content.isClaim = true) :
    (e.attempts < 3 → abandonFrame e s = claimBack queuedAfterStall (stalledAgain e s)) ∧
    (3 ≤ e.attempts → abandonFrame e s = claimDropped (droppedEntry e s)) := by
  refine ⟨fun h => ?_, fun h => ?_⟩
  · rw [abandonFrame, if_pos (by omega), requeueStalled, if_pos hc]
    rfl
  · rw [abandonFrame, if_neg (by omega), dropStalled, if_pos hc]
    rfl

theorem lostTo_cases {e : TxEntry} {s : State} (read : List Bool)
    (h : (s.lkc.queue.filter (fun e => e.content.isClaim)).length ≤ 1) (he : s.lkc.current = some e)
    (hc : e.content.isClaim = true) : ClaimBack queuedAfterLoss ((lostTo read s).lkc.without e.age) (lostTo read s) :=
  claimBack_cases queuedAfterLoss (s := lostTo read s) h rfl (current_mem (l := s.lkc) he) hc

/-- R93: the counting of a stall attempt leaves the queue without the entry as it was. -/
theorem stalledAgain_without (e : TxEntry) (s : State) :
    (stalledAgain e s).lkc.without e.age = { followingLink s.lkc with
      queue := s.lkc.queue.filter (fun f => f.age != e.age) } :=
  congrArg (fun q => { followingLink s.lkc with queue := q }) (filter_setAttempts s.lkc.queue e.age (e.attempts + 1))

theorem stalledAgain_mem {e : TxEntry} {s : State} (he : s.lkc.current = some e) :
    { e with attempts := e.attempts + 1 } ∈ (stalledAgain e s).lkc.queue :=
  List.mem_map.mpr ⟨e, current_mem he, if_pos rfl⟩

theorem stalledAgain_one {e : TxEntry} {s : State} (h : (s.lkc.queue.filter (fun e => e.content.isClaim)).length ≤ 1) :
    ((stalledAgain e s).lkc.queue.filter (fun e => e.content.isClaim)).length ≤ 1 :=
  (filter_isClaim_setAttempts s.lkc.queue e.age (e.attempts + 1)).le.trans h

theorem stalledAgain_cases {e : TxEntry} {s : State}
    (h : (s.lkc.queue.filter (fun e => e.content.isClaim)).length ≤ 1) (he : s.lkc.current = some e)
    (hc : e.content.isClaim = true) : ClaimBack queuedAfterStall { followingLink s.lkc with
      queue := s.lkc.queue.filter (fun f => f.age != e.age) } (stalledAgain e s) := by
  rw [← stalledAgain_without]
  exact claimBack_cases queuedAfterStall (s := stalledAgain e s) (e := { e with attempts := e.attempts + 1 })
    (stalledAgain_one h) rfl (stalledAgain_mem he) hc

/-- R116, R118: the withdraw conditions judged after the frame that won. -/
theorem judgeLost_judged {s : State} (hl : LinkRight s) (ha : AgesRight s) (hph : s.shc.phase = .queued)
    (hlost : s.shc.lost = true) (hi : s.lkc.inTx = none) :
    (¬ WithdrawStands s → judgeLost s = { s with shc := { s.shc with spacing := none, lost := false } }) ∧
    (WithdrawStands s → judgeLost s = { s with
      lkc := { s.lkc with queue := s.lkc.queue.filter (fun e => !e.content.isClaim) }
      shc := { s.shc with phase := .deferred, spacing := none, lost := false } }) := by
  have hx : judgeLost s = judgeBack s := if_pos ⟨hph, hlost⟩
  refine ⟨fun hw => ?_, fun hw => ?_⟩
  · rw [hx, judgeBack, if_neg ((claimBlocked_iff s).not.mpr hw), setClaimPhase, ← hph]
  · rw [hx, judgeBack, if_pos ((claimBlocked_iff s).mpr hw), deferClaim, withdrawClaim_unsent hl ha hi]
    rfl

/-- R89: a start mark where a CLAIM that had lost contention is judged. -/
theorem exec_startMark_judges {s : State} (hr : Runs s) (hp : s.lkc.phase = .settling ∨ s.lkc.phase = .receiving)
    (hh : s.lkc.holding = false) (hj : Settled (judgeLost s)) :
    exec .startMark s = .next (toReceiving (.bits []) (judgeLost s)) := by
  have hx : foreignStartMark s = toReceiving (.bits []) (judgeLost s) := by
    unfold foreignStartMark
    rcases hp with h | h <;> rw [h]
  have he : exec .startMark s = running s (foreignStartMark s) :=
    congrArg (running s) (if_neg (by rw [hh]; exact Bool.false_ne_true))
  rw [he, hx]
  exact running_of_settled hr.1 (hj.transfer rfl rfl rfl rfl rfl Iff.rfl rfl)

/-- R89, R118: link free, with the judgement of a CLAIM that had lost contention first. -/
theorem linkBecomesFree_judged (s : State) : linkBecomesFree s =
    startFrame { judgeLost s with lkc := { (judgeLost s).lkc with phase := .free, settleTime := 10 } } := by
  unfold linkBecomesFree startIfFree
  exact if_pos rfl

/-- Settles O49: the own CLAIM on its way out (R17, R92 to R94, R116, R118, R121). -/
theorem claimLeavesTheLink : Obligations.ClaimLeavesTheLink := by
  refine ⟨?_, ?_, ?_⟩
  · intro e s hr hp har hl ha htx he hc hst hg sent following
    obtain ⟨-, -, h1, -⟩ := hl
    obtain ⟨hstall, hdrop⟩ := abandonFrame_claim s hc
    obtain ⟨hback, hawaited, -⟩ := stalledAgain_cases h1 he hc
    obtain ⟨hgone, hdropped, -⟩ := claimDropped_cases (droppedEntry e s)
    refine ⟨fun haw k hk hrec => ?_, fun haw c hcmd => ⟨fun h3 hw => ?_, fun h3 hw => ?_, fun h3 => ?_⟩,
      fun cause haw c hcmd => ?_⟩
    · rw [exec_lossOfContention_claim htx he hc hk hrec, (lostTo_cases _ h1 he hc).sought hst hg haw]
      exact running_of_settled hr.1 (hr.2.transfer rfl rfl rfl rfl rfl Iff.rfl rfl)
    · have hx : queuedAfterStall (stalledAgain e s) = setClaimPhase .queued none (stalledAgain e s) :=
        if_neg ((claimBlocked_iff _).not.mpr hw)
      rw [exec_abandonFrame htx he hcmd, hstall h3, hback hst hg haw, hx]
      exact running_of_settled hr.1 (hr.2.transfer rfl rfl rfl rfl rfl Iff.rfl rfl)
    · have hx : queuedAfterStall (stalledAgain e s) = deferClaim (stalledAgain e s) :=
        if_pos ((claimBlocked_iff _).mpr hw)
      rw [exec_abandonFrame htx he hcmd, hstall h3, hback hst hg haw, hx, deferClaim,
        withdrawClaim_eq (stalledAgain_one h1) rfl (stalledAgain_mem he) hc, stalledAgain_without]
      exact running_of_settled hr.1 (hr.2.transfer rfl rfl rfl rfl rfl Iff.rfl rfl)
    · rw [exec_abandonFrame htx he hcmd, hdrop h3, hgone hst hg haw]
      exact running_of_settled hr.1 (hr.2.transfer rfl rfl rfl rfl rfl Iff.rfl rfl)
    · rcases hcmd with ⟨rfl, k, hk, hrec⟩ | hcmd
      · obtain ⟨t, hx, hret, hframe, hshc, hlink, hf⟩ := awaited_returns cause.reason
          ((lostTo (sent.take k ++ [false]) s).lkc.without e.age) hr hp har hst
        rw [exec_lossOfContention_claim htx he hc hk hrec, (lostTo_cases _ h1 he hc).awaited cause hst hg haw]
        have hrec' : t.lkc.reception = .bits (sent.take k ++ [false]) := congrArg (·.reception) hlink.1
        refine ⟨t, hx, hret, hframe, hshc, ?_, hf⟩
        rw [if_neg (fun h => h.1 rfl), hrec']
        exact hlink
      · have hcl : c ≠ .lossOfContention := by
          rcases hcmd with rfl | rfl | ⟨rfl, -⟩ <;> exact fun h => nomatch h
        rw [exec_abandonFrame htx he hcmd]
        by_cases h3 : 3 ≤ e.attempts
        · obtain ⟨t, hx, hret, hframe, hshc, hlink, hf⟩ := awaited_returns cause.reason (droppedEntry e s).lkc hr hp har hst
          have hrec' : t.lkc.reception = .absent := congrArg (·.reception) hlink.1
          rw [hdrop h3, hdropped cause hst hg haw]
          refine ⟨t, hx, hret, hframe, hshc, ?_, hf⟩
          rw [if_pos ⟨hcl, h3⟩, hrec']
          exact hlink
        · obtain ⟨t, hx, hret, hframe, hshc, hlink, hf⟩ := awaited_returns cause.reason
            { followingLink s.lkc with queue := s.lkc.queue.filter (fun f => f.age != e.age) } hr hp har hst
          have hrec' : t.lkc.reception = .absent := congrArg (·.reception) hlink.1
          rw [hstall (by omega), hawaited cause hst hg haw]
          refine ⟨t, hx, hret, hframe, hshc, ?_, hf⟩
          rw [if_neg (fun h => h3 h.2), hrec']
          exact hlink
  · intro e s hr hl htx he hc hn sent left
    obtain ⟨-, -, h1, -⟩ := hl
    obtain ⟨hstall, hdrop⟩ := abandonFrame_claim s hc
    refine ⟨fun k hk hrec => ?_, fun c hcmd => ?_⟩
    · rw [exec_lossOfContention_claim htx he hc hk hrec, (lostTo_cases _ h1 he hc).unsought hn]
      exact running_of_settled hr.1 (hr.2.transfer rfl rfl rfl rfl rfl Iff.rfl rfl)
    · rw [exec_abandonFrame htx he hcmd]
      by_cases h3 : 3 ≤ e.attempts
      · rw [hdrop h3, (claimDropped_cases (droppedEntry e s)).2.2 hn, if_pos h3]
        exact running_of_settled hr.1 (hr.2.transfer rfl rfl rfl rfl rfl Iff.rfl rfl)
      · rw [hstall (by omega), (stalledAgain_cases h1 he hc).unsought hn, if_neg h3]
        exact running_of_settled hr.1 (hr.2.transfer rfl rfl rfl rfl rfl Iff.rfl rfl)
  · intro s hr hl ha hph hlost hi hh
    obtain ⟨hstays, hgoes⟩ := judgeLost_judged hl ha hph hlost hi
    have hset : Settled (judgeLost s) := (judgeLost_op s).settled hr.2
    refine ⟨fun hp => ?_, fun hp => ?_⟩
    · rw [exec_startMark_judges hr hp hh hset]
      refine ⟨fun hw => ?_, fun hw => ?_⟩
      · rw [hstays hw]
        rfl
      · rw [hgoes hw]
        rfl
    · have hfreed := startFrame_freed (judgeLost s)
      have hf := startFrame_frame { judgeLost s with lkc := { (judgeLost s).lkc with phase := .free, settleTime := 10 } }
      have hx : exec .linkFree s = .next (startFrame { judgeLost s with
          lkc := { (judgeLost s).lkc with phase := .free, settleTime := 10 } }) := by
        rw [exec_linkFree hp hh, linkBecomesFree_judged]
        exact running_of_settled hr.1 ((startFrame_op _).settled (hset.transfer rfl rfl rfl rfl rfl Iff.rfl rfl))
      refine ⟨_, hx, ?_⟩
      generalize startFrame _ = t at *
      have hend (hshc : t.shc = { s.shc with phase := t.shc.phase, spacing := none, lost := false })
          (ht : t = { s with lkc := t.lkc, draws := t.draws
                             shc := { s.shc with phase := t.shc.phase, spacing := none, lost := false } }) :
          t = { s with lkc := t.lkc, shc := t.shc, draws := t.draws } := by
        rw [← hshc] at ht
        exact ht
      by_cases hw : WithdrawStands s
      · rw [hgoes hw] at hfreed hf
        have hshc := congrArg (·.shc) hf
        exact ⟨hend hshc hf, hshc, fun h => absurd hw h, fun _ => hfreed⟩
      · rw [hstays hw] at hfreed hf
        have hshc := congrArg (·.shc) hf
        refine ⟨hend hshc hf, hshc, fun _ => ?_, fun h => absurd h hw⟩
        rw [← hph]
        exact hfreed

end Sys2Proof.Machine
end

section
/-! PROOFS. The outcome of the own CLAIM (O50). -/

namespace Sys2Proof.Machine

/-! ## A frame that joins the queue with a place (R104) -/

theorem queueFrame_joined {c : TxFrame} {s : State} (h8 : s.lkc.queue.length < 8) (hc : c.isClaim = false)
    (hp : s.lkc.phase ≠ .free) : queueFrame c s = { s with lkc := { s.lkc with
      queue := s.lkc.queue ++ [{ content := c, attempts := 0, age := s.lkc.nextAge }], nextAge := s.lkc.nextAge + 1 } } := by
  have hjoin : joinQueue c s = { s with lkc := s.lkc.push c } := if_neg hp
  unfold queueFrame
  rw [hc, Bool.false_and, if_neg Bool.false_ne_true, if_pos h8]
  exact hjoin

theorem frameQueued_joined {c : TxFrame} {l : Link} (h8 : l.queue.length < 8) (hp : l.phase ≠ .free) :
    FrameQueued c l { l with
      queue := l.queue ++ [{ content := c, attempts := 0, age := l.nextAge }], nextAge := l.nextAge + 1 } :=
  ⟨fun _ _ => rfl, fun _ h => absurd h hp, fun h => absurd h h8.ne⟩

/-- R104: the link with a frame at the end of its queue. -/
def Link.joined (l : Link) (c : TxFrame) : Link :=
  { l with queue := l.queue ++ [{ content := c, attempts := 0, age := l.nextAge }], nextAge := l.nextAge + 1 }

/-- R126: a RELEASE of the own shaft that finds a place. -/
theorem releaseShaft_joined {r : ReleaseReason} {s : State} (h8 : s.lkc.queue.length < 8) (hp : s.lkc.phase ≠ .free) :
    releaseShaft r s = { setView s.straps.shf .free none s with lkc := s.lkc.joined (.release s.straps.shf r) } :=
  queueFrame_joined (s := setView s.straps.shf .free none s) h8 rfl hp

/-! ## The own CLAIM completed (R107) -/

/-- R89, R107: the link once the entry has completed. -/
def completedLink (l : Link) (e : TxEntry) : Link :=
  { l with
    phase := .settling, settleTime := 0, reception := .absent, inTx := none
    queue := l.queue.filter (fun f => f.age != e.age) }

theorem exec_completed_claim {s : State} {e : TxEntry} (slot : SlotLevels) (htx : s.lkc.phase = .transmitting)
    (he : s.lkc.current = some e) (hc : e.content.isClaim = true) :
    exec (.completed slot) s = running s (claimOutcome slot { s with lkc := completedLink s.lkc e }) := by
  refine congrArg (running s) ((asTransmitter_current htx he).trans ?_)
  obtain ⟨i, x, hx⟩ : ∃ i x, e.content = .claim i x := by
    cases h : e.content <;> simp [h, TxFrame.isClaim] at hc ⊢
  unfold completeFrame reportCompleted
  rw [hx]
  rfl

/-- R104: a completed frame leaves a place. -/
theorem completedLink_place {l : Link} {e : TxEntry} (h : l.queue.length ≤ 8) (he : l.current = some e) :
    (completedLink l e).queue.length < 8 := by
  refine lt_of_lt_of_le ?_ h
  exact List.length_filter_lt_length_iff_exists.mpr ⟨e, current_mem he, by simp⟩

/-- R119, R121: what every outcome of the own CLAIM keeps. -/
structure OutcomeKept (s t : State) : Prop where
  claim : ClaimAs (noClaim s.shc) t
  tallies : t.shc.tallies = s.shc.tallies
  others : OtherViewsKept s.straps.shf s t
  frame : t = { s with
    csq := t.csq, rct := t.rct, ldi := t.ldi, lkc := t.lkc, shc := t.shc, jnc := t.jnc, lms := t.lms }
  still : t.csq.state ≠ .turn → t.csq.state ≠ .fall → t.rct = s.rct ∧ t.ldi = s.ldi

/-- R119: a refusal that returns the bag. -/
structure RefusalReturns (r : ReturnReason) (l : Link) (s t : State) : Prop where
  kept : OutcomeKept s t
  returned : Returned r s.csq.bag s t
  sequencer : ReturnFrame s.csq.holds s t
  views : t.shc.views = s.shc.views
  holdAge : t.shc.holdAge = s.shc.holdAge
  link : LinkKept l t

theorem refusalReturns (r : ReturnReason) (l : Link) {s : State} (hr : Runs s) (hp : s.phase = .service)
    (har : ArrayRight s) (hst : s.csq.state = .claim) :
    ∃ t, running s (returnBag r (claimGone l s)) = .next t ∧ RefusalReturns r l s t := by
  obtain ⟨htare, hint⟩ := hr.2.no_tare (by rw [hst]; decide) (by rw [hst]; decide)
  have k := returnBag_returned r (u := claimGone l s) hp har.noReadWaits
  have hstill := k.still (.inl hst) (hr.2.hatchShut (.inr (by rw [hst]; rfl))) htare hint
  generalize returnBag r (claimGone l s) = t at *
  have hshc : t.shc = noClaim s.shc := congrArg (·.shc) k.frame
  have hrct : t.rct = s.rct := congrArg (·.rct) k.frame
  have hldi : t.ldi = s.ldi := congrArg (·.ldi) k.frame
  refine ⟨t, by rw [running_eq hr.1, hstill], ⟨?_, ?_, ?_, ?_, fun _ _ => ⟨hrct, hldi⟩⟩, k.returned, k.sequencer, ?_, ?_,
    k.link, k.head.kept⟩
  · rw [ClaimAs, hshc]
  · rw [hshc]
    rfl
  · rw [OtherViewsKept, hshc]
    exact fun _ _ => ⟨rfl, rfl⟩
  · rw [hrct, hldi, hshc]
    exact k.frame
  · rw [hshc]
    rfl
  · rw [hshc]
    rfl

/-- R17, R119: a busy refusal of a claim that is sought starts the retry interval. -/
theorem refusalRetries (l : Link) {s : State} (hr : Runs s) :
    running s (startRetry (claimGone l s)) = .next { claimGone l s with
      csq := { s.csq with retry := some s.cfg.retryInterval } } :=
  running_of_settled hr.1 (hr.2.transfer rfl rfl rfl rfl rfl Iff.rfl rfl)

theorem claimOutcome_sought {s : State} (slot : SlotLevels) (l : Link) (hst : s.csq.state = .claim)
    (hg : s.shc.givenUp = false) : claimOutcome slot { s with lkc := l } =
      if !slot.b then returnBag .duplicate (claimGone l s)
      else if !slot.a then takeBusyRefusal (claimGone l s) else takeGrant (claimGone l s) :=
  if_pos ((claimStillSought_iff { s with lkc := l }).mpr ⟨hst, hg⟩)

/-! ## A grant (R18, R20, R73, R120) -/

/-- R17, R18: the sequencer with the claim's timers stopped, and the CLAIM gone. -/
def granted (l : Link) (s : State) : State :=
  { claimGone l s with csq := { s.csq with claimWait := none, retry := none, awaiting := none } }

theorem takeGrant_eq (l : Link) (s : State) : takeGrant (claimGone l s) =
    if s.csq.bag.serial ∈ s.nls.entries then returnBag .duplicate (releaseShaft .duplicate (granted l s))
    else enterTurn (granted l s) := by
  have h : inNightList (claimGone l s) (claimGone l s).csq.bag.serial = true ↔ s.csq.bag.serial ∈ s.nls.entries :=
    List.contains_iff_mem
  unfold takeGrant
  exact if_congr h rfl rfl

/-- R120, R126: a grant whose serial is in the night list by now. -/
structure GrantReturns (l : Link) (s t : State) : Prop where
  kept : OutcomeKept s t
  returned : Returned .duplicate s.csq.bag s t
  sequencer : ReturnFrame s.csq.holds s t
  free : ownView t = .free
  holdAge : t.shc.holdAge.get s.straps.shf = none
  queued : FrameQueuedWithRecord (.release s.straps.shf .duplicate) l t

theorem grantReturns {l : Link} {s : State} (hr : Runs s) (hp : s.phase = .service)
    (har : ArrayRight s) (hst : s.csq.state = .claim) (h8 : l.queue.length < 8) (hf : l.phase ≠ .free) :
    ∃ t, running s (returnBag .duplicate (releaseShaft .duplicate (granted l s))) = .next t ∧ GrantReturns l s t := by
  obtain ⟨htare, hint⟩ := hr.2.no_tare (by rw [hst]; decide) (by rw [hst]; decide)
  let v : State := { setView s.straps.shf .free none (granted l s) with lkc := l.joined (.release s.straps.shf .duplicate) }
  have hv : releaseShaft .duplicate (granted l s) = v := releaseShaft_joined (s := granted l s) h8 hf
  have k := returnBag_returned .duplicate (u := v) hp har.noReadWaits
  have hstill := k.still (.inl hst) (hr.2.hatchShut (.inr (by rw [hst]; rfl))) htare hint
  rw [hv]
  generalize returnBag .duplicate v = t at *
  have hshc : t.shc = v.shc := congrArg (·.shc) k.frame
  have hrct : t.rct = s.rct := congrArg (·.rct) k.frame
  have hldi : t.ldi = s.ldi := congrArg (·.ldi) k.frame
  have hstraps : t.straps = s.straps := congrArg (·.straps) k.frame
  obtain ⟨hview, hage, hothers⟩ := setView_get s.straps.shf .free none s
  have hlink : LinkKept (l.joined (.release s.straps.shf .duplicate)) t := ⟨k.link, k.head.kept⟩
  obtain ⟨hl, hhead⟩ := hlink.queued (l := l) rfl rfl
  refine ⟨t, by rw [running_eq hr.1, hstill], ⟨?_, ?_, ?_, ?_, fun _ _ => ⟨hrct, hldi⟩⟩, k.returned, k.sequencer, ?_, ?_, ?_,
    hhead⟩
  · rw [ClaimAs, hshc]
    rfl
  · rw [hshc]
    rfl
  · rw [OtherViewsKept, hshc]
    exact hothers
  · rw [hrct, hldi, hshc]
    exact k.frame
  · rw [ownView, hshc, hstraps]
    exact hview
  · rw [hshc]
    exact hage
  · rw [hl]
    exact frameQueued_joined h8 hf

/-- R18, R20, R73: TURN as it is entered, with the drum as the turn request leaves it. -/
def turnBegun (l : Link) (s : State) : State :=
  let s2 := enterState .turn { setView s.straps.shf (.held s.straps.adr) none (granted l s) with
    ldi := { s.ldi with count := 0 }
    csq := { (granted l s).csq with turnLimit := some s.cfg.turnLimit } }
  { s2 with rct := s.rct.turn s.cfg.dropTarget s.nck.clock }

theorem enterTurn_granted (l : Link) (s : State) : enterTurn (granted l s) =
    if (turnBegun l s).rct.mode = .watch then enterFall (turnBegun l s) else turnBegun l s := rfl

theorem turnBegun_csq {l : Link} {s : State} (hp : s.phase = .service) : (turnBegun l s).csq = { s.csq with
    state := .turn, lock := .low, claimWait := none, retry := none, awaiting := none, turnLimit := some s.cfg.turnLimit } := by
  show { s.csq with
    state := .turn, lock := lockLine s.phase .turn, claimWait := none, retry := none, awaiting := none
    turnLimit := some s.cfg.turnLimit } = _
  rw [hp]
  rfl

/-- R18, R111: a grant that has turned the drum: the own view self-held, the landing count 0, the CLAIM gone. -/
structure GrantTurns (l : Link) (s t : State) : Prop where
  kept : OutcomeKept s t
  held : selfHeld t = true
  holdAge : t.shc.holdAge.get s.straps.shf = none
  link : t.lkc = l
  landing : t.ldi = { s.ldi with count := 0 }
  journal : t.jnc = s.jnc

theorem grantTurns {l : Link} {s t : State} (c : Sequencer) (q : Rotor) (m : Lamps)
    (ht : t = { granted l s with
      csq := c, rct := q, lms := m, ldi := { s.ldi with count := 0 }
      shc := (setView s.straps.shf (.held s.straps.adr) none (granted l s)).shc })
    (hc : c.state = .turn ∨ c.state = .fall) : GrantTurns l s t := by
  obtain ⟨hview, hage, hothers⟩ := setView_get s.straps.shf (.held s.straps.adr) none s
  subst ht
  refine ⟨⟨rfl, rfl, hothers, rfl, fun h1 h2 => absurd hc (not_or.mpr ⟨h1, h2⟩)⟩, ?_, hage, rfl, rfl, rfl⟩
  exact beq_iff_eq.mpr hview

/-- R18, R20: a turn that does not begin at the drop target. -/
theorem running_turn {l : Link} {s : State} (hr : Runs s) (hp : s.phase = .service) (hst : s.csq.state = .claim)
    (hpos : s.rct.position ≠ (s.cfg.dropTarget : Int)) :
    ∃ t, running s (enterTurn (granted l s)) = .next t ∧ GrantTurns l s t ∧ t.csq = { s.csq with
      state := .turn, lock := .low, claimWait := none, retry := none, awaiting := none
      turnLimit := some s.cfg.turnLimit } ∧ t.rct = s.rct.turn s.cfg.dropTarget s.nck.clock := by
  obtain ⟨htare, hint⟩ := hr.2.no_tare (by rw [hst]; decide) (by rw [hst]; decide)
  have hc := turnBegun_csq (l := l) hp
  have hrct : (turnBegun l s).rct.mode = .forward := by
    show (s.rct.turn s.cfg.dropTarget s.nck.clock).mode = _
    rw [Rotor.turn_forward _ hpos]
  have hx : enterTurn (granted l s) = turnBegun l s := by
    rw [enterTurn_granted, if_neg (by rw [hrct]; decide)]
  have hset : Settled (turnBegun l s) := settled_elsewhere (by rw [hc]; exact fun h => nomatch h)
    (by rw [hc]; exact fun h => nomatch h) (fun _ => by rw [hc]; exact hr.2.hatchShut (.inr (by rw [hst]; rfl))) htare hint
  refine ⟨turnBegun l s, by rw [hx]; exact running_of_settled hr.1 hset, ?_, hc, rfl⟩
  exact grantTurns (turnBegun l s).csq (turnBegun l s).rct (turnBegun l s).lms rfl (.inl (by rw [hc]))

/-- R73, R74: a turn that begins at the drop target goes on to FALL at once. -/
theorem running_turn_matched {l : Link} {s : State} (hr : Runs s) (hp : s.phase = .service) (hst : s.csq.state = .claim)
    (hpos : s.rct.position = (s.cfg.dropTarget : Int)) :
    ∃ t, running s (enterTurn (granted l s)) = .next t ∧ GrantTurns l s t ∧ t.csq = { s.csq with
      state := .fall, lock := .low, claimWait := none, retry := none, awaiting := none
      turnLimit := none, fallWindow := some s.cfg.fallWindow } ∧ t.rct = s.rct.turn s.cfg.dropTarget s.nck.clock := by
  obtain ⟨htare, hint⟩ := hr.2.no_tare (by rw [hst]; decide) (by rw [hst]; decide)
  have hc := turnBegun_csq (l := l) hp
  have hrct : (turnBegun l s).rct.mode = .watch := by
    show (s.rct.turn s.cfg.dropTarget s.nck.clock).mode = _
    rw [Rotor.turn, if_pos hpos]
    rfl
  have hfc := fallBegun_csq (s := turnBegun l s) hp
  let t : State := { fallBegun (turnBegun l s) with
    csq := { (fallBegun (turnBegun l s)).csq with fallWindow := some s.cfg.fallWindow } }
  have hx : enterTurn (granted l s) = t := by
    rw [enterTurn_granted, if_pos hrct, enterFall_eq]
    exact if_pos rfl
  have htc : t.csq = { s.csq with
      state := .fall, lock := .low, claimWait := none, retry := none, awaiting := none
      turnLimit := none, fallWindow := some s.cfg.fallWindow } := by
    show { (fallBegun (turnBegun l s)).csq with fallWindow := some s.cfg.fallWindow } = _
    rw [hfc, hc]
  have hset : Settled t := settled_elsewhere (by rw [htc]; exact fun h => nomatch h)
    (by rw [htc]; exact fun h => nomatch h) (fun _ => by rw [htc]; exact hr.2.hatchShut (.inr (by rw [hst]; rfl))) htare hint
  refine ⟨t, by rw [hx]; exact running_of_settled hr.1 hset, ?_, htc, rfl⟩
  exact grantTurns t.csq t.rct t.lms rfl (.inr (by rw [htc]))

/-- R73, R74: the turn request at the drop target. -/
theorem Rotor.turn_matched {r : Rotor} {target : Nat} (clock : W32) (h : r.position = (target : Int)) :
    r.turn target clock = { r with
      mode := .watch, maxReached := r.position, dropTime := some clock, mdir := .high
      mrun := (r.turn target clock).mrun, deadTime := (r.turn target clock).deadTime
      lastDir := (r.turn target clock).lastDir } ∧
    RunEnded { r with mdir := .high } (r.turn target clock) := by
  have hx : r.turn target clock = ({ r with
      maxReached := r.position, dropTime := none, mode := .forward, mdir := .high } : Rotor).dropMatch clock := if_pos h
  rw [hx]
  exact Rotor.dropMatch_ended _ clock

/-- Settles O50: the outcome of the own CLAIM (R17 to R20, R73, R74, R107, R119 to R121, R126). -/
theorem ownClaimOutcome : Obligations.ClaimOutcome := by
  refine ⟨?_, ?_⟩
  · intro e slot s hr hp hl har htx he hc hst hg left own
    rw [exec_completed_claim slot htx he hc, claimOutcome_sought slot _ hst hg]
    have hleft : completedLink s.lkc e = left := rfl
    have h8 := completedLink_place hl.2.1 he
    rw [hleft] at h8 ⊢
    obtain ⟨a, b⟩ := slot
    cases b with
    | false =>
      obtain ⟨t, hx, k⟩ := refusalReturns .duplicate left hr hp har hst
      exact ⟨t, hx, k.kept.claim, k.kept.tallies, k.kept.others, k.kept.frame, k.kept.still,
        fun _ => ⟨k.returned, k.sequencer, k.views, k.holdAge, k.link⟩,
        fun _ h _ => absurd h Bool.false_ne_true, fun _ _ h _ => absurd h Bool.false_ne_true,
        fun _ h _ => absurd h Bool.false_ne_true, fun _ h _ _ => absurd h Bool.false_ne_true,
        fun _ h _ _ => absurd h Bool.false_ne_true⟩
    | true =>
      cases a with
      | false =>
        show ∃ t, running s (takeBusyRefusal (claimGone left s)) = .next t ∧ _
        unfold takeBusyRefusal
        rw [show (claimGone left s).csq.awaiting = s.csq.awaiting from rfl]
        cases haw : s.csq.awaiting with
        | none =>
          exact ⟨_, refusalRetries left hr, rfl, rfl, fun _ _ => ⟨rfl, rfl⟩, rfl, fun _ _ => ⟨rfl, rfl⟩,
            fun h => absurd h.symm Bool.false_ne_true, fun _ _ _ => ⟨rfl, rfl, rfl, rfl, rfl, rfl⟩,
            (by intro _ _ _ h; cases h), fun h _ _ => absurd h Bool.false_ne_true,
            fun h _ _ _ => absurd h Bool.false_ne_true, fun h _ _ _ => absurd h Bool.false_ne_true⟩
        | some cause =>
          obtain ⟨t, hx, k⟩ := refusalReturns cause.reason left hr hp har hst
          refine ⟨t, hx, k.kept.claim, k.kept.tallies, k.kept.others, k.kept.frame, k.kept.still,
            fun h => absurd h.symm Bool.false_ne_true, (by intro _ _ h; cases h), fun c _ _ h => ?_,
            fun h _ _ => absurd h Bool.false_ne_true, fun h _ _ _ => absurd h Bool.false_ne_true,
            fun h _ _ _ => absurd h Bool.false_ne_true⟩
          obtain rfl := Option.some.inj h
          exact ⟨k.returned, k.sequencer, k.views, k.holdAge, k.link⟩
      | true =>
        show ∃ t, running s (takeGrant (claimGone left s)) = .next t ∧ _
        rw [takeGrant_eq]
        by_cases hin : s.csq.bag.serial ∈ s.nls.entries
        · rw [if_pos hin]
          obtain ⟨t, hx, k⟩ := grantReturns hr hp har hst h8 (fun h => nomatch h)
          exact ⟨t, hx, k.kept.claim, k.kept.tallies, k.kept.others, k.kept.frame, k.kept.still, fun h => absurd h.symm Bool.false_ne_true,
            fun h _ _ => absurd h.symm Bool.false_ne_true, fun _ h _ _ => absurd h.symm Bool.false_ne_true,
            fun _ _ _ => ⟨k.returned, k.sequencer, k.free, k.holdAge, k.queued⟩,
            fun _ _ h => absurd hin h, fun _ _ h => absurd hin h⟩
        · rw [if_neg hin]
          by_cases hpos : s.rct.position = (s.cfg.dropTarget : Int)
          · obtain ⟨t, hx, k, hcsq, hrct⟩ := running_turn_matched (l := left) hr hp hst hpos
            obtain ⟨hturn, hended⟩ := Rotor.turn_matched s.nck.clock hpos
            rw [← hrct] at hturn hended
            exact ⟨t, hx, k.kept.claim, k.kept.tallies, k.kept.others, k.kept.frame, k.kept.still, fun h => absurd h.symm Bool.false_ne_true,
              fun h _ _ => absurd h.symm Bool.false_ne_true, fun _ h _ _ => absurd h.symm Bool.false_ne_true,
              fun _ _ h => absurd h hin, fun _ _ _ h => absurd hpos h,
              fun _ _ _ _ => ⟨hcsq, k.held, k.holdAge, k.link, k.landing, k.journal, hturn, hended⟩⟩
          · obtain ⟨t, hx, k, hcsq, hrct⟩ := running_turn (l := left) hr hp hst hpos
            rw [Rotor.turn_forward _ hpos] at hrct
            exact ⟨t, hx, k.kept.claim, k.kept.tallies, k.kept.others, k.kept.frame, k.kept.still, fun h => absurd h.symm Bool.false_ne_true,
              fun h _ _ => absurd h.symm Bool.false_ne_true, fun _ h _ _ => absurd h.symm Bool.false_ne_true,
              fun _ _ h => absurd h hin,
              fun _ _ _ _ => ⟨hcsq, k.held, k.holdAge, k.link, k.landing, k.journal, hrct⟩, fun _ _ _ h => absurd h hpos⟩
  · intro e slot s hr hp hl htx he hc hn left own
    rw [exec_completed_claim slot htx he hc]
    have hno : claimStillSought { s with lkc := completedLink s.lkc e } = false := by
      rw [Bool.eq_false_iff]
      intro h
      obtain ⟨h1, h2⟩ := (claimStillSought_iff _).mp h
      exact hn.elim (fun k => k h1) (fun k => absurd (h2.symm.trans k) Bool.noConfusion)
    have hx : claimOutcome slot { s with lkc := completedLink s.lkc e } =
        if slot.a && slot.b then releaseShaft .fault (claimGone (completedLink s.lkc e) s)
        else claimGone (completedLink s.lkc e) s := if_neg (by rw [hno]; exact Bool.false_ne_true)
    rw [hx]
    cases hab : slot.a && slot.b with
    | true =>
      obtain ⟨ha, hb⟩ := Bool.and_eq_true _ _ ▸ hab
      have h8 := completedLink_place hl.2.1 he
      rw [if_pos rfl, releaseShaft_joined (s := claimGone (completedLink s.lkc e) s) h8 (fun h => nomatch h)]
      obtain ⟨hv, hage, hothers⟩ := setView_get own .free none s
      refine ⟨_, running_of_settled hr.1 (hr.2.transfer rfl rfl rfl rfl rfl Iff.rfl rfl), rfl, rfl, rfl,
        fun _ _ => ⟨hv, hage, hothers, frameQueued_joined h8 (fun h => nomatch h)⟩,
        fun h => h.elim (fun h => absurd (ha.symm.trans h) Bool.noConfusion) (fun h => absurd (hb.symm.trans h) Bool.noConfusion)⟩
    | false =>
      rw [if_neg Bool.false_ne_true]
      refine ⟨_, running_of_settled hr.1 (hr.2.transfer rfl rfl rfl rfl rfl Iff.rfl rfl), rfl, rfl, rfl,
        fun ha hb => absurd hab (by rw [ha, hb]; decide), fun _ => ⟨rfl, rfl⟩⟩

end Sys2Proof.Machine
end

section
/-! PROOFS. The end of CHECK: the pending bag record until then (R12), and the check order (R13, R14). -/

namespace Sys2Proof.Machine

/-! ## The pending bag record in CHECK (R12) -/

/-- R12: from s to t CHECK is entered with an absent bag record, or the bag record stays in CHECK. -/
def BagStays (s t : State) : Prop :=
  t.csq.state = .check → t.csq.bag = PendingBag.absent ∨
    s.csq.state = .check ∧ t.csq.bag = s.csq.bag ∧ t.csq.returnWait = s.csq.returnWait

theorem BagStays.right {s t : State} (h : BagStays s t) (i : BagRight s) : BagRight t := by
  intro hst hw
  rcases h hst with k | ⟨ks, kb, kw⟩
  · exact k
  · rw [kb]
    exact i ks (kw.symm.trans hw)

theorem BagStays.of_csq {s t : State} (hs : t.csq.state = s.csq.state) (hb : t.csq.bag = s.csq.bag)
    (hw : t.csq.returnWait = s.csq.returnWait) : BagStays s t := fun h => .inr ⟨hs.symm.trans h, hb, hw⟩

theorem BagStays.elsewhere {s t : State} (h : t.csq.state ≠ .check) : BagStays s t := fun k => absurd k h

theorem faultCore_state (s : State) : (faultCore s).csq.state = .fault := by rw [(faultCore_csq s).1]

theorem Act.bagStays {s t : State} (h : Act s t) : BagStays s t := by
  cases h with
  | link h => exact .of_csq (by rw [h.csq]) (by rw [h.csq]) (by rw [h.csq])
  | journal h => exact .of_csq (by rw [h.op.csq]) (by rw [h.op.csq]) (by rw [h.op.csq])
  | seq c _ hc hb => exact fun hk => .inr ⟨hc.state.symm.trans hk, hb (hc.state.symm.trans hk)⟩
  | filled x => rw [raiseIfFull_frame]; exact .of_csq rfl rfl rfl
  | @jammed _ u h =>
    have hc : u.csq = { s.csq with retry := u.csq.retry } := h.csq
    exact .of_csq (congrArg (·.state) hc) (congrArg (·.bag) hc) (congrArg (·.returnWait) hc)
  | enter st c _ hf ht hh hs hb => exact fun hk => .inl (hb hk)
  | fault => exact .elsewhere (by rw [faultCore_state]; decide)
  | forced => exact .elsewhere (by rw [faultCore_state]; decide)
  | home => exact .elsewhere (by simp [homeAsked])
  | fall => exact .elsewhere (by simp)
  | turned => exact .elsewhere (by simp [turnAsked])
  | dropped => exact .elsewhere (by simp)
  | _ => exact .of_csq rfl rfl rfl

theorem Soft.bagStays {s t : State} (h : Soft s t) : BagStays s t :=
  .of_csq (by rw [h.keeps.csq]) (by rw [h.keeps.csq]) (by rw [h.keeps.csq])

/-- R15, R152: a return enters PRESENT, or waits for the deferred record. -/
theorem returnBag_waits (r : ReturnReason) (s : State) :
    (returnBag r s).csq.state = .present ∨ (returnBag r s).csq.returnWait = true := by
  unfold returnBag
  dsimp only
  split
  · exact .inl rfl
  · exact .inr rfl

/-- R13: the check order leaves CHECK, or the sequencer waits there for a deferred record. -/
theorem checkRules_leaves (mass : Nat) (overRange unstable : Bool) (s : State) :
    (checkRules mass overRange unstable s).csq.state ≠ .check ∨
      (checkRules mass overRange unstable s).csq.returnWait = true := by
  have hret (r : ReturnReason) : (returnBag r s).csq.state ≠ .check ∨ (returnBag r s).csq.returnWait = true :=
    (returnBag_waits r s).imp_left fun h => by rw [h]; decide
  unfold checkRules
  split
  · exact .inl (by split <;> simp)
  · split
    · exact hret _
    · split
      · exact hret _
      · split
        · split
          · exact hret _
          · split
            · exact hret _
            · refine .inl ?_
              unfold enterClaim
              dsimp only
              rw [(requestClaim_op _ _).csq]
              simp
        · exact hret _
        · exact hret _

theorem checkOrder_leaves (w : WeighOutcome) (s : State) :
    (checkOrder w s).csq.state ≠ .check ∨ (checkOrder w s).csq.returnWait = true := by
  have hret (r : ReturnReason) (u : State) : (returnBag r u).csq.state ≠ .check ∨ (returnBag r u).csq.returnWait = true :=
    (returnBag_waits r u).imp_left fun h => by rw [h]; decide
  unfold checkOrder
  dsimp only
  split
  · exact hret _ _
  · split
    · exact hret _ _
    · exact checkRules_leaves _ _ _ _

theorem bagRight_kept : Kept BagRight where
  pending := fun _ _ => id
  start := fun l s h i => BagStays.elsewhere (s := s) (by simp [beginStart, startSequencer]) |>.right i
  released := fun _ => id
  reset := fun s p b i => by
    rcases holdInReset_cases s with ⟨h, -⟩ | ⟨m, n, h⟩ <;> rw [h]
    · exact i
    · exact fun hk => absurd hk (by simp [State.reset])
  supplied := fun _ _ i _ => i
  lost := fun s i => BagStays.elsewhere (s := s) (by simp [losePower, State.reset]) |>.right i
  act := fun s t h i => h.bagStays.right i
  front := Front.keeps_of (fun _ => id) fun s t k i => by
    cases k with
    | act h => exact h.bagStays.right i
    | soft h => exact h.bagStays.right i
  tail := fun s t k i => by
    cases k with
    | refl => exact i
    | check w h =>
      intro hk hw
      rcases checkOrder_leaves w s with h | h
      · exact absurd hk h
      · exact absurd (h.symm.trans hw) Bool.noConfusion
  scan := fun s hp i => by
    refine scan_keeps_of (fun s t h i => h.bagStays.right i) (fun s i => (Soft.unheld s).bagStays.right i) ?_
      (fun u i _ => (BagStays.elsewhere (s := u) (by simp [homeAsked])).right i)
      (fun u i => (BagStays.elsewhere (s := u) (by rw [faultCore_state]; decide)).right i)
    refine (BagStays.of_csq (s := s) ?_ ?_ ?_).right i <;> rw [served_frame]

theorem step_keeps_bagRight {s t : State} (i : BagRight s) (h : step s = .next t) : BagRight t := bagRight_kept.step i h

end Sys2Proof.Machine
end

section
/-! PROOFS. The check order at the end of CHECK, rule by rule (R12 to R15, R17). -/

namespace Sys2Proof.Machine

/-! ## A return, whatever waits for the array (R15, R152) -/

/-- R15: from u to t the bag has been returned, and a READ_JOURNAL that waited at an idle array may have been served. -/
structure BagBack (r : ReturnReason) (u t : State) : Prop where
  returned : Returned r u.csq.bag u t
  csq : t.csq = { u.csq with
    state := t.csq.state, lock := t.csq.lock, holds := t.csq.holds, bag := t.csq.bag
    returnWait := t.csq.returnWait, claimWait := none, retry := none, awaiting := none }
  holds : SameHoldsButJournal u.csq.holds t.csq.holds
  views : t.shc.views = u.shc.views
  tallies : t.shc.tallies = u.shc.tallies
  frame : t = { u with csq := t.csq, lkc := t.lkc, shc := t.shc, jnc := t.jnc, lms := t.lms, draws := t.draws }
  quiet : NoReadWaits u → t.shc = u.shc ∧ t.draws = u.draws ∧ LinkKept u.lkc t
  journal : NoReadWaits u → u.jnc.staging.length < 8 ∨ u.jnc.seqCounter = 0xFFFFFFFF → JournalKept u.jnc t

theorem askBag_deferred (req : RecordReq) {u : State} (h : bagPlace u = true) :
    (askBag req u).jnc.deferred = u.jnc.deferred := by
  unfold askBag
  rw [if_pos h]
  unfold stageNow
  split
  · rfl
  · exact (SameBooks.of_give _).deferred

theorem returnBag_back (r : ReturnReason) {u : State} (hp : u.phase = .service) : BagBack r u (returnBag r u) := by
  let v : State := { u with csq := { u.csq with
    bag := { u.csq.bag with reason := some r }, claimWait := none, retry := none, awaiting := none } }
  have hdef : returnBag r u = if bagPlace u then enterPresent (askBag (returnRecord r u.csq.bag u.straps.shf) v)
      else { askBag (returnRecord r u.csq.bag u.straps.shf) v with
        csq := { (askBag (returnRecord r u.csq.bag u.straps.shf) v).csq with returnWait := true } } := rfl
  have hquiet (hn : NoReadWaits u) : BagReturned r u (returnBag r u) := returnBag_returned r hp hn
  have hq1 (hn : NoReadWaits u) : (returnBag r u).shc = u.shc ∧ (returnBag r u).draws = u.draws ∧
      LinkKept u.lkc (returnBag r u) :=
    ⟨congrArg (·.shc) (hquiet hn).frame, congrArg (·.draws) (hquiet hn).frame, (hquiet hn).link, (hquiet hn).head.kept⟩
  have hq2 (hn : NoReadWaits u) := (hquiet hn).sequencer.2.2
  have op := askBag_op (returnRecord r u.csq.bag u.straps.shf) v
  obtain ⟨hcsq, hholds⟩ := op.csq_kept (askBag_retry _ _)
  have hstaged := askBag_staging (returnRecord r u.csq.bag u.straps.shf) v
  have hdeferred := askBag_deferred (returnRecord r u.csq.bag u.straps.shf) (u := v)
  have hwait : bagPlace u = false → askBag (returnRecord r u.csq.bag u.straps.shf) v =
      { v with jnc := { v.jnc with deferred := some (returnRecord r u.csq.bag u.straps.shf) } } :=
    fun h => if_neg (by rw [show bagPlace v = bagPlace u from rfl, h]; exact Bool.false_ne_true)
  have hstamp : stamped v (returnRecord r u.csq.bag u.straps.shf) = generalRecord u 3 r.code (shaftByte u.straps.shf)
      u.csq.bag.serial u.csq.bag.account u.csq.bag.bagType u.csq.bag.mass 0xFFFF :=
    stamped_general v (by simp [returnRecord, RecordReq.blank]) rfl
  rw [hstamp] at hstaged
  clear hquiet
  generalize returnBag r u = t at *
  generalize askBag (returnRecord r u.csq.bag u.straps.shf) v = a at *
  subst hdef
  by_cases hb : bagPlace u = true
  · have hplace := (bagPlace_iff u).mp hb
    rw [if_pos hb] at hq1 hq2 ⊢
    have hlock : lockLine a.phase .present = .high := by rw [show a.phase = .service from op.phase.trans hp]; rfl
    refine
      { returned := ⟨congrArg (·.bag) hcsq, fun _ => ⟨rfl, hlock, rfl, hdeferred hb, ?_⟩,
          fun h8 hm => absurd hplace (not_or.mpr ⟨Nat.not_lt.mpr h8, hm⟩)⟩
        csq := congrArg (fun c : Sequencer => { c with
          state := .present, lock := lockLine a.phase .present, returnWait := false, holds := a.csq.holds, bag := a.csq.bag }) hcsq
        holds := hholds, views := op.views, tallies := op.tallies, frame := ?_, quiet := hq1, journal := hq2 }
    · refine hstaged.trans ?_
      by_cases hm : u.jnc.seqCounter = 0xFFFFFFFF
      · rw [if_pos hm, List.append_nil]
        exact if_neg fun h => h.2 hm
      · rw [if_neg hm]
        exact if_pos ⟨hplace.resolve_right hm, hm⟩
    · exact congrArg (fun x : State => { x with csq := (enterPresent a).csq, lms := (enterPresent a).lms }) op.frame
  · have hf := Bool.eq_false_iff.mpr hb
    have hplace := not_or.mp ((bagPlace_iff u).not.mp hb)
    have ha := hwait hf
    rw [if_neg hb] at hq1 hq2 ⊢
    subst ha
    exact
      { returned := ⟨rfl, fun h => absurd h (not_or.mpr hplace), fun _ _ => ⟨rfl, rfl, rfl, rfl⟩⟩
        csq := rfl, holds := rfl, views := rfl, tallies := rfl, frame := rfl, quiet := hq1, journal := hq2 }

/-- R8, R11, R26, R39: a return from CHECK leaves nothing to be judged at the end of the step. -/
theorem BagBack.still {r : ReturnReason} {u t : State} (h : BagBack r u t) (hst : u.csq.state = .check)
    (hc : u.csq.hatch = .closed) (ha : u.wch.activity ≠ .tare) (hi : u.wch.tareInterval = none) : settleStep t = t := by
  have hstate : t.csq.state = .present ∨ t.csq.state = .check := by
    obtain ⟨-, hroom, hwait⟩ := h.returned
    by_cases hp : u.jnc.staging.length < 8 ∨ u.jnc.seqCounter = 0xFFFFFFFF
    · exact .inl (hroom hp).1
    · obtain ⟨h8, hm⟩ := not_or.mp hp
      exact .inr ((hwait (Nat.not_lt.mp h8) hm).1.trans hst)
  have hwch : t.wch = u.wch := by rw [h.frame]
  refine settleStep_of_settled (settled_elsewhere ?_ ?_ (fun _ => by rw [h.csq]; exact hc) (by rw [hwch]; exact ha)
    (by rw [hwch]; exact hi)) <;> rcases hstate with hs | hs <;> rw [hs] <;> decide

/-! ## The check order (R13) -/

/-- R13: the part as the rules of the check order find it. -/
def checkFilled (w : WeighOutcome) (u : State) : State :=
  { u with csq := { u.csq with
      weighed := none, tagEnded := false, bag := fillBag u.csq.bag w u.tgi.readSet u.tgi.firstRead } }

theorem checkOrder_weighFault {w : WeighOutcome} {u : State} (h : w = .gap ∨ u.csq.weighSeen = true) :
    checkOrder w u = returnBag .weighFault (checkFilled w u) := by
  rcases w with _ | ⟨mass, overRange, unstable⟩
  · rfl
  · exact if_pos (h.resolve_left WeighOutcome.noConfusion)

theorem checkOrder_rules {mass : Nat} {overRange unstable : Bool} {u : State} (h : u.csq.weighSeen = false) :
    checkOrder (.weighed mass overRange unstable) u =
      checkRules mass overRange unstable (checkFilled (.weighed mass overRange unstable) u) :=
  if_neg (by rw [h]; exact Bool.false_ne_true)

/-- R13: what the check order leaves by whichever rule. -/
structure CheckLeft (u t : State) : Prop where
  weighed : t.csq.weighed = none
  tagEnded : t.csq.tagEnded = false
  csq : t.csq = { u.csq with
    state := t.csq.state, lock := t.csq.lock, holds := t.csq.holds, bag := t.csq.bag
    weighed := t.csq.weighed, tagEnded := t.csq.tagEnded, returnWait := t.csq.returnWait
    claimWait := t.csq.claimWait, retry := t.csq.retry, awaiting := t.csq.awaiting }
  views : t.shc.views = u.shc.views
  tallies : t.shc.tallies = u.shc.tallies
  holds : SameHoldsButJournal u.csq.holds t.csq.holds
  quiet : ArrayRight u → t.csq.claimWait = none → t.shc = u.shc ∧ t.draws = u.draws ∧ LinkKept u.lkc t
  journal : ArrayRight u → u.jnc.staging.length < 8 ∨ u.jnc.seqCounter = 0xFFFFFFFF → JournalKept u.jnc t
  frame : t = { u with
    csq := t.csq, wch := { u.wch with tareInterval := t.wch.tareInterval }, lkc := t.lkc, shc := t.shc, jnc := t.jnc
    lms := t.lms, draws := t.draws }

/-- R14, R15: the check order has returned the bag. -/
structure CheckReturned (r : ReturnReason) (w : WeighOutcome) (u t : State) : Prop where
  left : CheckLeft u t
  returned : Returned r (fillBag u.csq.bag w u.tgi.readSet u.tgi.firstRead) u t
  claimWait : t.csq.claimWait = none
  retry : t.csq.retry = none
  awaiting : t.csq.awaiting = none
  wch : t.wch = u.wch

/-- R39: where no tare check runs, the end of the step touches only the tare interval timer of the weigh channel. -/
theorem judgeTare_idle {s : State} (h : s.wch.activity ≠ .tare) :
    judgeTare s = { s with wch := { s.wch with tareInterval := (judgeTare s).wch.tareInterval } } := by
  unfold judgeTare
  split
  · split <;> rfl
  · rfl

theorem checkReturned (r : ReturnReason) (w : WeighOutcome) {u : State} (hp : u.phase = .service)
    (hst : u.csq.state = .check) (hc : u.csq.hatch = .closed) (ha : u.wch.activity ≠ .tare)
    (hi : u.wch.tareInterval = none) : CheckReturned r w u (settleStep (returnBag r (checkFilled w u))) := by
  have k := returnBag_back r (u := checkFilled w u) hp
  rw [k.still hst hc ha hi]
  generalize returnBag r (checkFilled w u) = t at *
  obtain ⟨kret, kcsq, kholds, kviews, ktallies, kframe, kquiet, kjournal⟩ := k
  exact
    { left :=
        { weighed := congrArg (·.weighed) kcsq, tagEnded := congrArg (·.tagEnded) kcsq
          csq := by
            rw [show t.csq.weighed = none from congrArg (·.weighed) kcsq,
              show t.csq.tagEnded = false from congrArg (·.tagEnded) kcsq,
              show t.csq.claimWait = none from congrArg (·.claimWait) kcsq,
              show t.csq.retry = none from congrArg (·.retry) kcsq,
              show t.csq.awaiting = none from congrArg (·.awaiting) kcsq]
            exact kcsq
          views := kviews, tallies := ktallies, holds := kholds
          quiet := fun har _ => kquiet har.noReadWaits
          journal := fun har h => kjournal har.noReadWaits h
          frame := by
            rw [show t.wch = u.wch from congrArg (·.wch) kframe]
            exact kframe }
      returned := kret
      claimWait := congrArg (·.claimWait) kcsq
      retry := congrArg (·.retry) kcsq
      awaiting := congrArg (·.awaiting) kcsq
      wch := congrArg (·.wch) kframe }

/-- R14 rule 2: the drum is empty. -/
theorem checkEmpty (w : WeighOutcome) {u : State} (hp : u.phase = .service) (hc : u.csq.hatch = .closed)
    (ha : u.wch.activity ≠ .tare) :
    let t := settleStep (enterState (if u.csq.holds.isEmpty then .idle else .held) (checkFilled w u))
    CheckLeft u t ∧ t.csq = { u.csq with
      state := if u.csq.holds.isEmpty then .idle else .held
      lock := if u.csq.holds.isEmpty then .high else .low
      bag := fillBag u.csq.bag w u.tgi.readSet u.tgi.firstRead, weighed := none, tagEnded := false } ∧
    t.jnc = u.jnc ∧ t.shc = u.shc ∧ t.lkc = u.lkc := by
  intro t
  have hlock : lockLine u.phase (if u.csq.holds.isEmpty then .idle else .held) =
      if u.csq.holds.isEmpty then .high else .low := by rw [hp]; cases u.csq.holds.isEmpty <;> rfl
  let v : State := enterState (if u.csq.holds.isEmpty then .idle else .held) (checkFilled w u)
  have hheld : judgeHeld v = v := by
    unfold judgeHeld
    rw [show v.csq.state = (if u.csq.holds.isEmpty then .idle else .held) from rfl, show v.csq.holds = u.csq.holds from rfl]
    cases u.csq.holds.isEmpty <;> simp
  have ht : t = judgeTare v := by
    show settleStep v = _
    rw [settleStep_of_hatch (s := v) fun _ => hc, hheld]
  have hframe := judgeTare_idle (s := v) ha
  rw [← ht] at hframe
  have hcsq : t.csq = { u.csq with
      state := if u.csq.holds.isEmpty then .idle else .held
      lock := if u.csq.holds.isEmpty then .high else .low
      bag := fillBag u.csq.bag w u.tgi.readSet u.tgi.firstRead, weighed := none, tagEnded := false } := by
    rw [ht, judgeTare_csq, ← hlock]
    rfl
  have hjnc : t.jnc = u.jnc := congrArg (·.jnc) hframe
  have hlkc : t.lkc = u.lkc := congrArg (·.lkc) hframe
  have hrest : t = { u with
      csq := t.csq, wch := { u.wch with tareInterval := t.wch.tareInterval }, lkc := t.lkc, shc := t.shc, jnc := t.jnc
      lms := t.lms, draws := t.draws } :=
    congrArg (fun x : State => { x with
      csq := t.csq, lkc := t.lkc, shc := t.shc, jnc := t.jnc, lms := t.lms, draws := t.draws }) hframe
  clear_value t
  refine ⟨?_, hcsq, hjnc, congrArg (·.shc) hframe, hlkc⟩
  exact
    { weighed := congrArg (·.weighed) hcsq, tagEnded := congrArg (·.tagEnded) hcsq
      csq := by
        conv_lhs => rw [hcsq]
        rw [hcsq]
      views := congrArg (·.shc.views) hframe, tallies := congrArg (·.shc.tallies) hframe
      holds := by rw [hcsq]
      quiet := fun _ _ => ⟨congrArg (·.shc) hframe, congrArg (·.draws) hframe, by rw [hlkc],
        (HeadOp.of_eq (s := u) (t := t) (by rw [hjnc]) (by rw [hlkc]) (by rw [hlkc])).kept⟩
      journal := fun _ _ => by
        rw [JournalKept, hjnc]
        exact JournalKept.refl u
      frame := hrest }
/-- R14 rule 9: the exception flags, said as the bands and the list have them. -/
theorem checkFlags_eq (u : State) (mass : Nat) (unstable : Bool) (f : FirstRead) :
    let band := u.cfg.bands.getD f.bagType.toNat { min := 0, max := 9999 }
    checkFlags u mass unstable f = { ExcFlags.empty with
      massBand := decide (mass < band.min ∨ max band.min band.max < mass)
      unstable := unstable, sealBroken := decide (f.sealValue ≠ 0)
      unchecked := decide (256 ≤ u.nls.entries.length) } := by
  intro band
  have hband : (!band.contains mass) = decide (mass < band.min ∨ max band.min band.max < mass) := by
    rw [Bool.eq_iff_iff]
    simp only [Band.contains, Bool.not_eq_true', Bool.and_eq_false_iff, decide_eq_false_iff_not, decide_eq_true_eq]
    split <;> omega
  have hseal : (f.sealValue != 0) = decide (f.sealValue ≠ 0) := by
    rw [Bool.eq_iff_iff]
    simp
  unfold checkFlags
  rw [hseal, ← hband]

/-- R14 rule 9, R17: the bag has passed and its claim has been asked for. -/
structure CheckClaimed (w : WeighOutcome) (flags : ExcFlags) (serial : W32) (u t : State) : Prop where
  left : CheckLeft u t
  state : t.csq.state = .claim
  lock : t.csq.lock = .low
  claimWait : t.csq.claimWait = some (u.cfg.claimWait * 1000)
  awaiting : t.csq.awaiting = none
  returnWait : t.csq.returnWait = u.csq.returnWait
  bag : t.csq.bag = { fillBag u.csq.bag w u.tgi.readSet u.tgi.firstRead with flags := flags }
  journal : t.jnc = u.jnc
  asked : u.shc.phase = .idle → u.lkc.hasClaim = false → LinkRight u → AgesRight u →
    ClaimAsked serial u.csq.retry u t
  busy : u.shc.phase ≠ .idle → t.csq.retry = some u.cfg.retryInterval ∧ t.shc = u.shc ∧ t.lkc = u.lkc

theorem checkClaimed (w : WeighOutcome) (flags : ExcFlags) {serial : W32} {u : State} (hp : u.phase = .service)
    (hc : u.csq.hatch = .closed) (ha : u.wch.activity ≠ .tare) (hi : u.wch.tareInterval = none)
    (hserial : (fillBag u.csq.bag w u.tgi.readSet u.tgi.firstRead).serial = serial) :
    CheckClaimed w flags serial u (settleStep (enterClaim { checkFilled w u with
      csq := { (checkFilled w u).csq with bag := { (checkFilled w u).csq.bag with flags := flags } } })) := by
  let v : State := enterState .claim { u with csq := { u.csq with
    weighed := none, tagEnded := false
    bag := { fillBag u.csq.bag w u.tgi.readSet u.tgi.firstRead with flags := flags }
    claimWait := some (u.cfg.claimWait * 1000), awaiting := none } }
  have hx : enterClaim { checkFilled w u with
      csq := { (checkFilled w u).csq with bag := { (checkFilled w u).csq.bag with flags := flags } } } =
      requestClaim serial v := by
    rw [← hserial]
    rfl
  have op := requestClaim_op serial v
  have hasked (h1 : u.shc.phase = .idle) (h2 : u.lkc.hasClaim = false) (h3 : LinkRight u) (h4 : AgesRight u) :=
    requestClaim_asked (serial := serial) (s := v) h3 h4 h2 h1
  have hbusy : u.shc.phase ≠ .idle → requestClaim serial v = startRetry v := fun h => if_pos h
  rw [hx]
  generalize requestClaim serial v = t at *
  have hcsq : t.csq = { v.csq with retry := t.csq.retry } := op.csq
  have hlock : v.csq.lock = .low := by
    show lockLine u.phase .claim = _
    rw [hp]
    rfl
  rw [settleStep_claim (by rw [hcsq]; rfl) (by rw [hcsq]; exact hc) (by rw [op.wch]; exact ha) (by rw [op.wch]; exact hi)]
  have hwait : t.csq.claimWait = some (u.cfg.claimWait * 1000) := by rw [hcsq]; rfl
  exact
    { left :=
        { weighed := by rw [hcsq]; rfl, tagEnded := by rw [hcsq]; rfl
          csq := by
            conv_lhs => rw [hcsq]
            rw [hcsq]
            rfl
          views := op.views, tallies := op.tallies
          holds := by rw [hcsq]; rfl
          quiet := fun _ h => absurd (h.symm.trans hwait) (Option.some_ne_none _).symm
          journal := fun _ _ => by
            rw [JournalKept, op.jnc]
            exact JournalKept.refl u
          frame := by
            rw [op.wch, op.jnc, op.lms]
            exact op.frame_csq }
      state := by rw [hcsq]; rfl
      lock := by rw [hcsq]; exact hlock
      claimWait := hwait
      awaiting := by rw [hcsq]; rfl
      returnWait := by rw [hcsq]; rfl
      bag := by rw [hcsq]; rfl
      journal := op.jnc
      asked := hasked
      busy := fun h => by
        rw [hbusy h]
        exact ⟨rfl, rfl, rfl⟩ }

/-! ## The rules in order (R13, R14) -/

theorem checkRules_empty {mass : Nat} {overRange unstable : Bool} {v : State} (h : mass < v.cfg.emptyThreshold) :
    checkRules mass overRange unstable v = enterState (if v.csq.holds.isEmpty then .idle else .held) v := if_pos h

section
variable {mass : Nat} {overRange unstable : Bool} {v : State} (h1 : v.cfg.emptyThreshold ≤ mass)
include h1

theorem checkRules_outOfService (h2 : v.csq.holds.isEmpty = false) :
    checkRules mass overRange unstable v = returnBag .outOfService v := by
  unfold checkRules
  rw [if_neg (Nat.not_lt.mpr h1), if_pos (by rw [h2]; rfl)]

variable (h2 : v.csq.holds.isEmpty = true)
include h2

theorem checkRules_overweight (h3 : v.cfg.absoluteMax < mass ∨ overRange = true) :
    checkRules mass overRange unstable v = returnBag .overweight v := by
  unfold checkRules
  rw [if_neg (Nat.not_lt.mpr h1), if_neg (by rw [h2]; decide), if_pos h3]

variable (h3 : mass ≤ v.cfg.absoluteMax) (h4 : overRange = false)
include h3 h4

/-- R13: within the mass limits the reads of the tag window decide. -/
theorem checkRules_reads : checkRules mass overRange unstable v =
    match v.tgi.readSet, v.tgi.firstRead with
    | [serial], some f =>
      if 7 < f.bagType.toNat then returnBag .tagType v
      else if inNightList v serial then returnBag .duplicate v
      else enterClaim { v with csq := { v.csq with bag := { v.csq.bag with flags := checkFlags v mass unstable f } } }
    | _ :: _ :: _, _ => returnBag .multiTag v
    | _, _ => returnBag .noTag v := by
  unfold checkRules
  rw [if_neg (Nat.not_lt.mpr h1), if_neg (by rw [h2]; decide),
    if_neg (not_or.mpr ⟨Nat.not_lt.mpr h3, by rw [h4]; decide⟩)] <;> rfl

theorem checkRules_noTag (h5 : v.tgi.readSet = []) : checkRules mass overRange unstable v = returnBag .noTag v := by
  rw [checkRules_reads h1 h2 h3 h4, h5]

theorem checkRules_multiTag (h5 : 2 ≤ v.tgi.readSet.length) :
    checkRules mass overRange unstable v = returnBag .multiTag v := by
  rw [checkRules_reads h1 h2 h3 h4]
  rcases hr : v.tgi.readSet with _ | ⟨a, _ | ⟨b, rest⟩⟩
  · rw [hr] at h5; exact absurd h5 (by simp)
  · rw [hr] at h5; exact absurd h5 (by simp)
  · rfl

variable {serial : W32} {f : FirstRead} (h5 : v.tgi.readSet = [serial]) (h6 : v.tgi.firstRead = some f)
include h5 h6

theorem checkRules_tagType (h7 : 7 < f.bagType.toNat) :
    checkRules mass overRange unstable v = returnBag .tagType v := by
  rw [checkRules_reads h1 h2 h3 h4, h5, h6]
  exact if_pos h7

variable (h7 : f.bagType.toNat ≤ 7)
include h7

theorem checkRules_duplicate (h8 : serial ∈ v.nls.entries) :
    checkRules mass overRange unstable v = returnBag .duplicate v := by
  rw [checkRules_reads h1 h2 h3 h4, h5, h6]
  exact (if_neg (Nat.not_lt.mpr h7)).trans (if_pos (List.contains_iff_mem.mpr h8))

theorem checkRules_passed (h8 : serial ∉ v.nls.entries) : checkRules mass overRange unstable v =
    enterClaim { v with csq := { v.csq with bag := { v.csq.bag with flags := checkFlags v mass unstable f } } } := by
  rw [checkRules_reads h1 h2 h3 h4, h5, h6]
  exact (if_neg (Nat.not_lt.mpr h7)).trans (if_neg fun h => h8 (List.contains_iff_mem.mp h))
end

/-- R13: one read without its first reading counts as none. -/
theorem checkRules_unread {mass : Nat} {overRange unstable : Bool} {v : State} {serial : W32}
    (h1 : v.cfg.emptyThreshold ≤ mass) (h2 : v.csq.holds.isEmpty = true) (h3 : mass ≤ v.cfg.absoluteMax)
    (h4 : overRange = false) (h5 : v.tgi.readSet = [serial]) (h6 : v.tgi.firstRead = none) :
    checkRules mass overRange unstable v = returnBag .noTag v := by
  rw [checkRules_reads h1 h2 h3 h4, h5, h6]

/-- R13, R14: what the rules after rule 1 make of a bag, as `CheckJudged` says it. -/
abbrev RulesJudged (mass : Nat) (overRange unstable : Bool) (w : WeighOutcome) (u t : State) : Prop :=
  (mass < u.cfg.emptyThreshold →
    t.csq = { u.csq with
      state := if u.csq.holds.isEmpty then .idle else .held
      lock := if u.csq.holds.isEmpty then .high else .low
      bag := fillBag u.csq.bag w u.tgi.readSet u.tgi.firstRead, weighed := none, tagEnded := false } ∧
    t.jnc = u.jnc ∧ t.shc = u.shc ∧ t.lkc = u.lkc) ∧
  (u.cfg.emptyThreshold ≤ mass →
    (u.csq.holds.isEmpty = false → CheckReturned .outOfService w u t) ∧
    (u.csq.holds.isEmpty = true →
      (u.cfg.absoluteMax < mass ∨ overRange = true → CheckReturned .overweight w u t) ∧
      (mass ≤ u.cfg.absoluteMax → overRange = false →
        (u.tgi.readSet = [] → CheckReturned .noTag w u t) ∧
        (2 ≤ u.tgi.readSet.length → CheckReturned .multiTag w u t) ∧
        (∀ serial f, u.tgi.readSet = [serial] → u.tgi.firstRead = some f →
          (7 < f.bagType.toNat → CheckReturned .tagType w u t) ∧
          (f.bagType.toNat ≤ 7 → serial ∈ u.nls.entries → CheckReturned .duplicate w u t) ∧
          (f.bagType.toNat ≤ 7 → serial ∉ u.nls.entries →
            CheckClaimed w (checkFlags u mass unstable f) serial u t)))))

theorem fillBag_serial {w : WeighOutcome} {bag : PendingBag} {serial : W32} {f : FirstRead} :
    (fillBag bag w [serial] (some f)).serial = serial := by
  cases w <;> rfl

theorem checkRules_judged (mass : Nat) (overRange unstable : Bool) (w : WeighOutcome) {u : State}
    (hp : u.phase = .service) (hst : u.csq.state = .check) (hc : u.csq.hatch = .closed)
    (ha : u.wch.activity ≠ .tare) (hi : u.wch.tareInterval = none) :
    CheckLeft u (settleStep (checkRules mass overRange unstable (checkFilled w u))) ∧
    RulesJudged mass overRange unstable w u (settleStep (checkRules mass overRange unstable (checkFilled w u))) := by
  have hret (r : ReturnReason) : CheckReturned r w u (settleStep (returnBag r (checkFilled w u))) :=
    checkReturned r w hp hst hc ha hi
  have hempty := checkEmpty w hp hc ha
  have hclaim {serial : W32} {f : FirstRead} (h5 : u.tgi.readSet = [serial]) (h6 : u.tgi.firstRead = some f) :
      CheckClaimed w (checkFlags u mass unstable f) serial u (settleStep (enterClaim { checkFilled w u with
        csq := { (checkFilled w u).csq with
          bag := { (checkFilled w u).csq.bag with flags := checkFlags u mass unstable f } } })) :=
    checkClaimed w _ hp hc ha hi (by rw [h5, h6, fillBag_serial])
  refine ⟨?_, fun h1 => ?_, fun h1 => ⟨fun h2 => ?_, fun h2 => ⟨fun h3 => ?_, fun h3 h4 =>
    ⟨fun h5 => ?_, fun h5 => ?_, fun serial f h5 h6 => ⟨fun h7 => ?_, fun h7 h8 => ?_, fun h7 h8 => ?_⟩⟩⟩⟩⟩
  · rcases Nat.lt_or_ge mass u.cfg.emptyThreshold with h1 | h1
    · rw [checkRules_empty (v := checkFilled w u) h1]
      exact hempty.1
    cases h2 : u.csq.holds.isEmpty with
    | false => rw [checkRules_outOfService (v := checkFilled w u) h1 h2]; exact (hret _).left
    | true =>
      by_cases h3 : u.cfg.absoluteMax < mass ∨ overRange = true
      · rw [checkRules_overweight (v := checkFilled w u) h1 h2 h3]; exact (hret _).left
      obtain ⟨h3, h4⟩ := not_or.mp h3
      replace h3 := Nat.not_lt.mp h3
      replace h4 := Bool.eq_false_iff.mpr h4
      rcases h5 : u.tgi.readSet with _ | ⟨serial, _ | ⟨second, rest⟩⟩
      · rw [checkRules_noTag (v := checkFilled w u) h1 h2 h3 h4 h5]; exact (hret _).left
      · cases h6 : u.tgi.firstRead with
        | none => rw [checkRules_unread (v := checkFilled w u) h1 h2 h3 h4 h5 h6]; exact (hret _).left
        | some f =>
          rcases Nat.lt_or_ge 7 f.bagType.toNat with h7 | h7
          · rw [checkRules_tagType (v := checkFilled w u) h1 h2 h3 h4 h5 h6 h7]; exact (hret _).left
          · by_cases h8 : serial ∈ u.nls.entries
            · rw [checkRules_duplicate (v := checkFilled w u) h1 h2 h3 h4 h5 h6 h7 h8]; exact (hret _).left
            · rw [checkRules_passed (v := checkFilled w u) h1 h2 h3 h4 h5 h6 h7 h8]; exact (hclaim h5 h6).left
      · rw [checkRules_multiTag (v := checkFilled w u) h1 h2 h3 h4 (by rw [show (checkFilled w u).tgi = u.tgi from rfl, h5]; simp)]
        exact (hret _).left
  · rw [checkRules_empty (v := checkFilled w u) h1]; exact hempty.2
  · rw [checkRules_outOfService (v := checkFilled w u) h1 h2]; exact hret _
  · rw [checkRules_overweight (v := checkFilled w u) h1 h2 h3]; exact hret _
  · rw [checkRules_noTag (v := checkFilled w u) h1 h2 h3 h4 h5]; exact hret _
  · rw [checkRules_multiTag (v := checkFilled w u) h1 h2 h3 h4 h5]; exact hret _
  · rw [checkRules_tagType (v := checkFilled w u) h1 h2 h3 h4 h5 h6 h7]; exact hret _
  · rw [checkRules_duplicate (v := checkFilled w u) h1 h2 h3 h4 h5 h6 h7 h8]; exact hret _
  · rw [checkRules_passed (v := checkFilled w u) h1 h2 h3 h4 h5 h6 h7 h8]; exact hclaim h5 h6

/-- R13 to R15, R17: the check order at the end of CHECK. -/
theorem checkOrder_judged (w : WeighOutcome) {u : State} (hp : u.phase = .service) (hst : u.csq.state = .check)
    (hc : u.csq.hatch = .closed) (ha : u.wch.activity ≠ .tare) (hi : u.wch.tareInterval = none) :
    CheckJudged w u (settleStep (checkOrder w u)) ∧ CheckLeft u (settleStep (checkOrder w u)) := by
  have hfilled := fillBag_filled w u
  by_cases h : w = .gap ∨ u.csq.weighSeen = true
  · rw [checkOrder_weighFault h]
    have k := checkReturned .weighFault w hp hst hc ha hi
    refine ⟨⟨hfilled, k.left.weighed, k.left.tagEnded, k.left.csq, k.left.views, k.left.tallies, k.left.holds,
      k.left.quiet, k.left.journal, fun _ => ⟨k.returned, k.claimWait, k.retry, k.awaiting⟩,
      fun mass overRange unstable hw hs => ?_⟩, k.left⟩
    subst hw
    exact absurd ((h.resolve_left WeighOutcome.noConfusion).symm.trans hs) Bool.noConfusion
  · obtain ⟨hg, hs⟩ := not_or.mp h
    replace hs := Bool.eq_false_iff.mpr hs
    rcases w with _ | ⟨mass, overRange, unstable⟩
    · exact absurd rfl hg
    · rw [checkOrder_rules hs]
      obtain ⟨left, hempty, hrules⟩ := checkRules_judged mass overRange unstable (.weighed mass overRange unstable)
        hp hst hc ha hi
      generalize settleStep (checkRules mass overRange unstable (checkFilled (.weighed mass overRange unstable) u)) = t at *
      have hback {r : ReturnReason} (k : CheckReturned r (.weighed mass overRange unstable) u t) :=
        (⟨k.returned, k.claimWait, k.retry, k.awaiting⟩ : Returned r _ u t ∧ t.csq.claimWait = none ∧
          t.csq.retry = none ∧ t.csq.awaiting = none)
      refine ⟨⟨hfilled, left.weighed, left.tagEnded, left.csq, left.views, left.tallies, left.holds, left.quiet,
        left.journal, fun k => absurd k h, fun m o un hw _ => ?_⟩, left⟩
      obtain ⟨rfl, rfl, rfl⟩ := WeighOutcome.weighed.inj hw
      refine ⟨hempty, fun h1 => ⟨fun h2 => hback ((hrules h1).1 h2), fun h2 => ?_⟩⟩
      obtain ⟨hover, hreads⟩ := (hrules h1).2 h2
      refine ⟨fun h3 => hback (hover h3), fun h3 h4 => ?_⟩
      obtain ⟨hnone, hmany, hone⟩ := hreads h3 h4
      refine ⟨fun h5 => hback (hnone h5), fun h5 => hback (hmany h5), fun serial f h5 h6 => ?_⟩
      obtain ⟨htype, hlisted, hpassed⟩ := hone serial f h5 h6
      refine ⟨fun h7 => hback (htype h7), fun h7 h8 => hback (hlisted h7 h8), fun h7 h8 => ?_⟩
      have k := hpassed h7 h8
      refine ⟨k.state, k.lock, k.claimWait, k.awaiting, k.returnWait, ?_, k.journal, k.asked, k.busy⟩
      rw [k.bag, checkFlags_eq]

/-! ## The tag window ends (R12, R51) -/

theorem exec_tagWindowExpiry {s : State} (h : s.tgi.windowTimer ≠ none) :
    exec .tagWindowExpiry s = running s (tagWindowEnds s) := congrArg (running s) (if_neg h)

/-- R12: with both windows ended the check order is applied. -/
theorem judgeCheckEnd_both {u : State} {w : WeighOutcome} (hst : u.csq.state = .check) (ht : u.csq.tagEnded = true)
    (hw : u.csq.weighed = some w) : judgeCheckEnd u = checkOrder w u := by
  unfold judgeCheckEnd
  rw [if_pos ⟨hst, ht⟩, hw]

/-- Settles O31: the check order at the end of the tag window (R12 to R15, R17), and the bag record until then. -/
theorem checkOrderJudged : Obligations.CheckOrder := by
  refine ⟨fun w s hr hp hst hwin hw => ?_, fun s hr hwin hw => ?_, fun _ _ => step_keeps_bagRight⟩
  · let u : State := { s with
      tgi := { s.tgi with windowOpen := false, windowTimer := none }, csq := { s.csq with tagEnded := true } }
    obtain ⟨htare, hint⟩ := hr.2.no_tare (by rw [hst]; decide) (by rw [hst]; decide)
    have hx : tagWindowEnds s = checkOrder w u := judgeCheckEnd_both (u := u) hst rfl hw
    obtain ⟨hj, hl⟩ := checkOrder_judged w (u := u) hp hst (hr.2.hatchShut (.inr (by rw [hst]; rfl))) htare hint
    rw [exec_tagWindowExpiry hwin, hx, running_eq hr.1]
    generalize settleStep (checkOrder w u) = t at *
    exact ⟨t, rfl, hj, hl.frame⟩
  · rw [exec_tagWindowExpiry hwin]
    have hx : tagWindowEnds s = { s with
        tgi := { s.tgi with windowOpen := false, windowTimer := none }, csq := { s.csq with tagEnded := true } } := by
      unfold tagWindowEnds judgeCheckEnd
      rw [show ({ s with
        tgi := { s.tgi with windowOpen := false, windowTimer := none }
        csq := { s.csq with tagEnded := true } } : State).csq.weighed = none from hw]
      exact ite_self _
    rw [hx]
    exact running_of_settled hr.1 (hr.2.transfer rfl rfl rfl rfl rfl Iff.rfl rfl)

end Sys2Proof.Machine
end

section
/-! PROOFS. The end of CHECK by the weighing, after the tag window has ended (R12, R31, R35 to R38). -/

namespace Sys2Proof.Machine

/-- R12, R35: the part as the weighing has ended with its outcome. -/
def weighingOver (o : WeighOutcome) (u : State) : State :=
  { u with
    wch := { u.wch with activity := .idle, window := [], settle := none }, csq := { u.csq with weighed := some o } }

/-- R37, R38: what a window of a weighing gives. -/
def windowResult (w : List W16) (s : State) : WeighOutcome :=
  .weighed (massResult s.cfg.scaleK (windowSum w) s.wch.t16).1 (massResult s.cfg.scaleK (windowSum w) s.wch.t16).2
    (!decide (windowSpread w ≤ s.cfg.stability))

/-- R12, R35: the end of the weighing as the last of the two windows applies the check order. -/
theorem endWeighing_both {o : WeighOutcome} {u : State} (hst : u.csq.state = .check) (ht : u.csq.tagEnded = true) :
    endWeighing o u = checkOrder o (weighingOver o u) :=
  judgeCheckEnd_both (u := weighingOver o u) hst ht rfl

/-- R3: WEIGH raised in CHECK is seen by the check. -/
theorem raiseHold_weigh_check {s : State} (hst : s.csq.state = .check) : raiseHold .weigh s = { s with
    csq := { s.csq with holds := { s.csq.holds with weigh := true }, weighSeen := true } } := by
  unfold raiseHold
  rw [hst]
  simp [HoldSet.put]

/-- R31: a sample gap in a weighing of CHECK raises WEIGH and ends the weighing. -/
theorem sampleGap_both {s : State} (hst : s.csq.state = .check) (ht : s.csq.tagEnded = true)
    (ha : s.wch.activity = .settle ∨ s.wch.activity = .weighing) : sampleGap s = checkOrder .gap { s with
      csq := { s.csq with holds := { s.csq.holds with weigh := true }, weighSeen := true, weighed := some .gap }
      wch := { s.wch with gap := none, recovery := none, window := [], settle := none, activity := .idle } } := by
  unfold sampleGap
  dsimp only
  rw [if_pos ha, raiseHold_weigh_check (s := { s with
    wch := { s.wch with gap := none, recovery := none, window := [], settle := none, activity := .idle } }) hst]
  exact endWeighing_both (u := { s with
    csq := { s.csq with holds := { s.csq.holds with weigh := true }, weighSeen := true }
    wch := { s.wch with gap := none, recovery := none, window := [], settle := none, activity := .idle } }) hst ht

/-- Settles O32: the end of CHECK by the 16th sample or the sample gap (R12 to R15, R17, R31, R35 to R38). -/
theorem weighingEndsTheCheck : Obligations.WeighingEndsTheCheck := by
  constructor
  · intro b first s hr hp hst ht hf ha hl w recovery
    obtain ⟨htare, hint⟩ := hr.2.no_tare (by rw [hst]; decide) (by rw [hst]; decide)
    have hx : exec (.weighByteReceived b false false) s = running s
        (weighWindow (s.wch.window ++ [first ++ b]) (sampleJoined (first ++ b) (sampleTaken s))) := by
      rw [exec_sample b hf, gatherSample_weighing_full (s := sampleTaken s) _ ha hl]
      rfl
    refine ⟨fun h => ?_, fun h hn => ?_⟩
    · let u : State := weighingOver (windowResult w s) (sampleJoined (first ++ b) (sampleTaken s))
      refine ⟨_, _, _, settleStep (checkOrder (windowResult w s) u), massResult_weighsAs s w, ?_, ?_⟩
      · rw [hx, weighWindow_ends (s := sampleJoined _ (sampleTaken s)) h,
          endWeighing_both (u := sampleJoined _ (sampleTaken s)) hst ht, running_eq hr.1]
        rfl
      · obtain ⟨hj, left⟩ := checkOrder_judged (windowResult w s) (u := u) hp hst
          (hr.2.hatchShut (.inr (by rw [hst]; rfl))) (fun h => nomatch h) hint
        exact ⟨hj, left.frame⟩
    · rw [hx, weighWindow_set_aside (s := sampleJoined _ (sampleTaken s)) h hn]
      exact running_of_settled hr.1 (hr.2.congr rfl rfl rfl rfl Iff.rfl rfl)
  · intro s hr hp hst ht hg ha bag
    obtain ⟨htare, hint⟩ := hr.2.no_tare (by rw [hst]; decide) (by rw [hst]; decide)
    rw [exec_sampleGap hr.1 hg, sampleGap_both hst ht ha, checkOrder_weighFault (.inl rfl)]
    have k := checkReturned .weighFault .gap (u := { s with
      csq := { s.csq with holds := { s.csq.holds with weigh := true }, weighSeen := true, weighed := some .gap }
      wch := { s.wch with gap := none, recovery := none, window := [], settle := none, activity := .idle } })
      hp hst (hr.2.hatchShut (.inr (by rw [hst]; rfl))) (fun h => nomatch h) hint
    generalize settleStep _ = t at *
    have hint' : t.wch.tareInterval = none := by rw [k.wch]; exact hint
    have hframe := k.left.frame
    have hcsq := k.left.csq
    rw [k.left.weighed, k.left.tagEnded, k.claimWait, k.retry, k.awaiting] at hcsq
    rw [hint'] at hframe
    exact ⟨t, rfl, fillBag_filled .gap s, k.returned, hcsq, k.left.journal, k.left.holds, k.left.views, k.left.tallies,
      fun har => k.left.quiet har k.claimWait, hframe⟩

end Sys2Proof.Machine
end

section
/-! PROOFS. The flash array given after an operation has ended (R154), and the completions (R155, R157, R158). -/

namespace Sys2Proof.Machine

/-! ## The array given to what waits (R154) -/

/-- R160: giving the array its next operation judges JOURNAL_FULL at most. -/
theorem giveOperation_csq (s : State) : (giveOperation s).csq = { s.csq with
    holds := { s.csq.holds with journalFull := (giveOperation s).csq.holds.journalFull } } := by
  unfold giveOperation startProgram
  split
  · rfl
  · split
    · rfl
    · split
      · rfl
      · dsimp only
        split <;> rfl

theorem giveOperation_full (s : State) :
    ((giveOperation s).csq.holds.journalFull = s.csq.holds.journalFull ∧
      (giveOperation s).jnc.writePtr = s.jnc.writePtr) ∨
    (giveOperation s).csq.holds.journalFull = fullJudged (giveOperation s).flash (giveOperation s).jnc := by
  unfold giveOperation startProgram
  split
  · exact .inl ⟨rfl, rfl⟩
  · split
    · exact .inl ⟨rfl, rfl⟩
    · split
      · exact .inl ⟨rfl, rfl⟩
      · dsimp only
        split <;> exact .inr rfl

/-- R154, R163: from v to a an idle array has been given to what waits. -/
structure ArrayGiven (v a : State) : Prop where
  op : JournalOp v a
  csq : a.csq = { v.csq with holds := { v.csq.holds with journalFull := a.csq.holds.journalFull } }
  journal : JournalKept { v.jnc with pendingRead := none } a
  quiet : v.jnc.pendingRead = none → a.shc = v.shc ∧ a.draws = v.draws ∧ LinkKept v.lkc a
  served : ∀ req, v.jnc.pendingRead = some req → LinkRight v → AgesRight v →
    a.shc = v.shc ∧ a.draws = (if v.lkc.phase = .free then v.draws + 1 else v.draws) ∧
    ReadServed req v.flash v.lkc { a.lkc with rx := v.lkc.rx, holding := v.lkc.holding } ∧ HeadKept v.lkc a
  full : a.csq.holds.journalFull = v.csq.holds.journalFull ∧ a.jnc.writePtr = v.jnc.writePtr ∨
    a.csq.holds.journalFull = fullJudged a.flash a.jnc

theorem servePending_csq (s : State) : (servePending s).csq = s.csq := by
  unfold servePending
  split
  · rfl
  · rw [serveRead_csq]

theorem giveArray_arrayGiven {v : State} (hp : v.phase = .service) (hi : v.jnc.array = .idle) :
    ArrayGiven v (giveArray v) := by
  have op := giveArray_op v
  have hhead := (giveArray_head v).kept
  have hx : giveArray v = giveOperation (servePending v) := if_pos ⟨hp, hi⟩
  have hquiet (hn : v.jnc.pendingRead = none) := op.quiet fun _ => hn
  have hwj := servePending_jnc v
  have hwc := servePending_csq v
  have hread (req : ReadReq) (h : v.jnc.pendingRead = some req) :
      servePending v = serveRead req { v with jnc := { v.jnc with pendingRead := none } } := by
    unfold servePending
    rw [h]
  generalize servePending v = w at *
  have hwi : w.jnc.array = .idle := by rw [hwj]; exact hi
  have hwn : NoReadWaits w := fun _ => by rw [hwj]
  have op2 := giveOperation_op w
  obtain ⟨-, hshc, hdraws, -, hlkc⟩ := op2.quiet hwn
  have hj := giveOperation_journal hwi
  have hcsq := giveOperation_csq w
  have hfull := giveOperation_full w
  rw [← hx] at op2 hshc hdraws hlkc hj hcsq hfull
  generalize giveArray v = a at *
  refine
    { op := op
      csq := by rw [hwc] at hcsq; exact hcsq
      journal := by rw [hwj] at hj; exact hj
      quiet := fun hn => ⟨(hquiet hn).2.1, (hquiet hn).2.2.1, (hquiet hn).2.2.2.2, hhead⟩
      served := fun req h hl ha => ?_
      full := by rw [hwc, hwj] at hfull; exact hfull }
  have hw := hread req h
  have hframe := serveRead_frame (req := req) (s := { v with jnc := { v.jnc with pendingRead := none } }) hl ha
  have hserved := serveRead_served (req := req) (s := { v with jnc := { v.jnc with pendingRead := none } }) hi hl ha
  have hrx : w.lkc.rx = v.lkc.rx := by rw [hw]; exact (serveRead_op _ _).rx
  have hhold : w.lkc.holding = v.lkc.holding := by rw [hw]; exact (serveRead_op _ _).holding
  rw [← hw] at hframe hserved
  refine ⟨hshc.trans (congrArg (·.shc) hframe), hdraws.trans (congrArg (·.draws) hframe), ?_, hhead⟩
  have hback : ({ a.lkc with rx := v.lkc.rx, holding := v.lkc.holding } : Link) = w.lkc := by
    rw [← hrx, ← hhold, hlkc]
  rw [hback]
  exact hserved

/-! ## An operation that has ended (R8, R11, R154) -/

/-- R8, R11: the state follows the hold reason set, and the lock and the lamps the state. -/
theorem judgeHeld_follows {s u : State} (hs : u.csq.state = s.csq.state) (hl : u.csq.lock = s.csq.lock)
    (hm : u.lms = s.lms) (hp : u.phase = s.phase) :
    (s.csq.state = .idle ∨ s.csq.state = .held →
      (judgeHeld u).csq.state = (if (judgeHeld u).csq.holds.isEmpty then .idle else .held)) ∧
    (s.csq.state ≠ .idle → s.csq.state ≠ .held → (judgeHeld u).csq.state = s.csq.state) ∧
    ((judgeHeld u).csq.state = s.csq.state → (judgeHeld u).csq.lock = s.csq.lock ∧ (judgeHeld u).lms = s.lms) ∧
    ((judgeHeld u).csq.state ≠ s.csq.state → s.phase = .service →
      (judgeHeld u).csq.lock = (if (judgeHeld u).csq.state = .idle then .high else .low)) := by
  rw [← hs, ← hl, ← hm, ← hp]
  unfold judgeHeld
  cases he : u.csq.holds.isEmpty with
  | true =>
    by_cases h1 : u.csq.state = .held
    · simp +contextual [h1, he, lockLine]
    · simp +contextual [h1, he]
  | false =>
    by_cases h1 : u.csq.state = .idle
    · simp +contextual [h1, he, lockLine]
    · simp +contextual [h1, he]

/-- R154, R157, R158: the part as an operation has ended on the array that reads as m, with JOURNAL_FULL as given. -/
def operationEnded (m : List Host.Cell) (full : Bool) (s : State) : State :=
  { s with
    flash := m, jnc := { s.jnc with array := .idle }
    csq := { s.csq with holds := { s.csq.holds with journalFull := full } } }

/-- R8, R11, R154, R163, R164: the end of an erase or of an information-page operation. -/
theorem operationEnded_freed (m : List Host.Cell) (full : Bool) {s : State} (hr : Runs s) :
    let t := settleStep (giveArray (operationEnded m full s))
    t.flash = m ∧ ArrayFreed s t ∧ t.jnc.seqCounter = s.jnc.seqCounter ∧
    (t.csq.holds.journalFull = full ∧ t.jnc.writePtr = s.jnc.writePtr ∨
      t.csq.holds.journalFull = fullJudged t.flash t.jnc) := by
  intro t
  let v : State := operationEnded m full s
  have op := giveArray_op v
  have hset : settleStep (giveArray v) = judgeHeld (giveArray v) :=
    settleStep_judged (op.hatchShut hr.2.hatchShut) (hr.2.tareRight.congr (congrArg (·.state) op.csq)
      (congrArg (·.holds.weigh) op.csq) (congrArg (·.hatch) op.csq) (congrArg (·.homeActive) op.rct) op.wch)
  have hstaged := giveArray_staging v
  have hseq := (SameBooks.of_give v).seqCounter
  have hgiven (hp : s.phase = .service) := giveArray_arrayGiven (v := v) hp rfl
  have hstill (hp : s.phase ≠ .service) : giveArray v = v := if_neg fun h => hp h.1
  have ht : t = judgeHeld (giveArray v) := hset
  clear_value t
  generalize giveArray v = a at *
  have hcsq : a.csq = { s.csq with holds := { s.csq.holds with journalFull := a.csq.holds.journalFull } } := by
    by_cases hp : s.phase = .service
    · exact (hgiven hp).csq
    · rw [hstill hp]
      rfl
  have hfollow := judgeHeld_follows (s := s) (u := a) (by rw [hcsq]) (by rw [hcsq]) op.lms op.phase
  have hf := op.judged_frame
  have htc := judgeHeld_csq a
  have hth : t.csq.holds = a.csq.holds := by rw [ht, judgeHeld_holds]
  have htj : t.jnc = a.jnc := by rw [ht, judgeHeld_jnc]
  have htl : t.lkc = a.lkc := by rw [ht, judgeHeld_lkc]
  have hts : t.shc = a.shc := by rw [ht, judgeHeld_shc]
  have htd : t.draws = a.draws := by rw [ht, judgeHeld_draws]
  rw [← ht] at hfollow hf htc
  obtain ⟨hidle, helse, hsame, hchanged⟩ := hfollow
  have htf : t.flash = m := congrArg (·.flash) hf
  refine ⟨htf, ⟨?_, congrArg (·.wch) hf, by rw [hts]; exact op.views, by rw [hts]; exact op.holdAge,
    by rw [hts]; exact op.tallies, fun hp => ?_, fun hp => ?_, fun hp hn => ?_, fun req hp hq hl hages => ?_, ?_, ?_, hidle,
    helse, hsame, hchanged, ?_⟩, by rw [htj]; exact hseq, ?_⟩
  · rw [htj]
    exact hstaged
  · rw [htj, hts, htd, htl, hstill hp]
    exact ⟨rfl, rfl, rfl, rfl⟩
  · rw [JournalKept, htj]
    exact (hgiven hp).journal
  · obtain ⟨h1, h2, h3⟩ := (hgiven hp).quiet hn
    rw [LinkKept, HeadKept, htl, hts, htd, htj]
    exact ⟨h1, h2, h3⟩
  · obtain ⟨h1, h2, h3, h4⟩ := (hgiven hp).served req hq hl hages
    rw [HeadKept, htl, hts, htd, htj, htf]
    exact ⟨h1, h2, h3, h4⟩
  · have hsq : t.csq = { a.csq with state := t.csq.state, lock := t.csq.lock, holds := t.csq.holds } := by
      rw [hth]
      exact htc
    exact hsq.trans (congrArg (fun c : Sequencer => { c with
      state := t.csq.state, lock := t.csq.lock, holds := t.csq.holds }) hcsq)
  · rw [hth]
    exact congrArg (·.holds) hcsq
  · rw [htf]
    exact hf
  · rw [hth, htj]
    by_cases hp : s.phase = .service
    · rcases (hgiven hp).full with h | h
      · exact .inl h
      · exact .inr (h.trans (by rw [htf, show a.flash = m from op.flash]))
    · rw [hstill hp]
      exact .inl ⟨rfl, rfl⟩

/-! ## What the array reads after an information-page operation (R171) -/

theorem infoData_length (offset : Byte) (data : List Byte) :
    (infoData offset data).length = min (74 - offset.toNat) data.length := List.length_take

theorem byteAt_infoData {offset : Byte} {data : List Byte} {k : Nat} (h : offset.toNat + k ≤ 73) :
    byteAt (infoData offset data) k = byteAt data k := by
  unfold byteAt infoData
  rw [List.getD_eq_getElem?_getD, List.getD_eq_getElem?_getD, List.getElem?_take, if_pos (by omega)]

theorem infoData_fits (offset : Byte) (data : List Byte) :
    infoBase + offset.toNat + (infoData offset data).length ≤ flashSize := by
  have := offset.isLt
  rw [infoData_length, infoBase, flashSize]
  omega

/-- R171: the array as the data of the operation find it: erased first where the write begins at offset 0. -/
def infoPrepared (offset : Byte) (m : List Host.Cell) : List Host.Cell :=
  if offset.toNat = 0 then flashErase m infoBase else m

theorem infoPrepared_wf (offset : Byte) {m : List Host.Cell} (w : flashWf m = true) :
    flashWf (infoPrepared offset m) = true := by
  unfold infoPrepared
  split
  · exact flashErase_wf _ w
  · exact w

theorem infoPrepared_read (offset : Byte) (m : List Host.Cell) (a : Nat) :
    flashRead (infoPrepared offset m) a =
      if offset = 0 ∧ infoBase ≤ a ∧ a < infoBase + 1024 then 0xFF else flashRead m a := by
  have hz : offset.toNat = 0 ↔ offset = 0 := by
    rw [← BitVec.toNat_inj]
    rfl
  unfold infoPrepared
  by_cases h : offset = 0
  · rw [if_pos (hz.mpr h), flashRead_flashErase]
    exact if_congr (by simp [h]) rfl rfl
  · rw [if_neg fun k => h (hz.mp k), if_neg fun k => h k.1]

theorem infoProgrammed_outside (offset : Byte) (data : List Byte) (m : List Host.Cell) {a : Nat}
    (h : a < infoBase + offset.toNat ∨ infoBase + offset.toNat + (infoData offset data).length ≤ a) :
    flashRead (infoProgrammed offset data m) a = flashRead (infoPrepared offset m) a :=
  flashRead_flashProgramBytes_outside _ h _

theorem infoProgrammed_inside {offset : Byte} {data : List Byte} {m : List Host.Cell} (w : flashWf m = true) {k : Nat}
    (h : offset.toNat + k ≤ 73) (hk : k < data.length) :
    flashRead (infoProgrammed offset data m) (infoBase + offset.toNat + k) =
      flashRead (infoPrepared offset m) (infoBase + offset.toNat + k) &&& byteAt data k := by
  rw [← byteAt_infoData h]
  exact flashRead_flashProgramBytes_inside _ (by rw [infoData_length]; omega) (infoData_fits offset data)
    (infoPrepared_wf offset w)

/-! ## ERASE_COMPLETION and INFO_COMPLETION -/

theorem exec_eraseCompletion {s : State} {page : Nat} (h : s.jnc.array = .erase page) :
    exec .eraseCompletion s = running s (giveArray (operationEnded (flashErase s.flash (1024 * page))
      (fullJudged (flashErase s.flash (1024 * page)) s.jnc) s)) := by
  simp only [exec, execEraseCompletion, h]
  rfl

theorem exec_infoCompletion {s : State} {offset : Byte} {data : List Byte} (h : s.jnc.array = .info offset data) :
    exec .infoCompletion s = running s (giveArray (operationEnded (infoProgrammed offset data s.flash)
      s.csq.holds.journalFull s)) := by
  simp only [exec, execInfoCompletion, h]
  rfl

/-- Settles O60: the completion of an erase and of an information-page operation (R145, R154, R157, R158, R171). -/
theorem eraseAndInfoComplete : Obligations.EraseAndInfoComplete := by
  intro s hr w
  refine ⟨fun page h => ?_, fun offset data h => ?_⟩
  · rw [exec_eraseCompletion h, running_eq hr.1]
    refine ⟨_, rfl, ?_⟩
    obtain ⟨hflash, hfreed, hseq, hfull⟩ := operationEnded_freed (flashErase s.flash (1024 * page))
      (fullJudged (flashErase s.flash (1024 * page)) s.jnc) hr
    generalize settleStep _ = t at *
    refine ⟨fun k hk => ?_, fun a ha => ?_, hfreed, ?_⟩
    · rw [hflash, flashRead_flashErase, if_pos (by omega)]
      rfl
    · rw [hflash, flashRead_flashErase, if_neg (by omega)]
    · rcases hfull with ⟨hf, hwp⟩ | hf
      · rw [hf, hflash, hwp, hseq]
        rfl
      · exact hf
  · rw [exec_infoCompletion h, running_eq hr.1]
    refine ⟨_, rfl, ?_⟩
    obtain ⟨hflash, hfreed, -, hfull⟩ := operationEnded_freed (infoProgrammed offset data s.flash)
      s.csq.holds.journalFull hr
    generalize settleStep _ = t at *
    rw [hflash]
    refine ⟨fun a ha => ?_, fun k h73 hk => ?_, fun ho k hk hn => ?_, fun ho a ha => ?_, hfreed, ?_⟩
    · rw [infoProgrammed_outside _ _ _ (.inl (by rw [infoBase]; omega)), infoPrepared_read, if_neg (by rw [infoBase]; omega)]
    · have hread := infoProgrammed_inside w h73 hk
      rw [infoPrepared_read] at hread
      refine hread.trans (congrArg (· &&& byteAt data k) (if_congr ?_ rfl rfl))
      exact and_iff_left (by rw [infoBase]; omega)
    · have h0 : offset.toNat = 0 := by
        rw [ho]
        rfl
      have hread := infoProgrammed_outside offset data s.flash (a := infoBase + k) (.inr (by
        rw [infoData_length]
        omega))
      refine hread.trans ((infoPrepared_read _ _ _).trans (if_pos ⟨ho, ?_⟩))
      omega
    · have hread := infoProgrammed_outside offset data s.flash (a := a) (by
        rw [infoData_length, infoBase]
        omega)
      exact hread.trans ((infoPrepared_read _ _ _).trans (if_neg fun h => ho h.1))
    · rw [← hflash]
      exact hfull.imp_left And.left

end Sys2Proof.Machine
end

section
/-! PROOFS. The completion of a programming (R152 to R155, R160, R163). -/

namespace Sys2Proof.Machine

/-! ## The deferred record staged (R152) -/

/-- R149, R152: the books once the deferred record, if there is one, has taken the free place. -/
def booksStaged (w : State) : Journal :=
  { w.jnc with
    deferred := none
    staging := w.jnc.staging ++
      (match w.jnc.deferred with
       | none => []
       | some req => if w.jnc.seqCounter = 0xFFFFFFFF then [] else [stamped w req])
    seqCounter :=
      if w.jnc.deferred = none ∨ w.jnc.seqCounter = 0xFFFFFFFF then w.jnc.seqCounter else w.jnc.seqCounter + 1 }

theorem deferredStaged_books {w : State} (h8 : w.jnc.staging.length < 8) :
    deferredStaged w = { w with jnc := booksStaged w } := by
  unfold deferredStaged booksStaged
  cases hd : w.jnc.deferred with
  | none =>
    simp only [List.append_nil, true_or, if_true]
    rw [← hd]
  | some req =>
    by_cases hm : w.jnc.seqCounter = 0xFFFFFFFF
    · simp only [if_pos h8, if_pos hm, if_pos (show w.jnc.seqCounter = seqMax from hm)]
      rw [if_pos (.inr hm), List.append_nil]
    · simp only [if_pos h8, if_neg hm, if_neg (show ¬ w.jnc.seqCounter = seqMax from hm)]
      rw [if_neg (not_or.mpr ⟨Option.some_ne_none _, hm⟩)]
      rfl

theorem booksStaged_none {w : State} (h : w.jnc.deferred = none ∨ w.jnc.seqCounter = 0xFFFFFFFF) :
    (booksStaged w).staging = w.jnc.staging := by
  unfold booksStaged
  rcases h with h | h
  · rw [h]
    exact List.append_nil _
  · cases w.jnc.deferred with
    | none => exact List.append_nil _
    | some req =>
      rw [h]
      exact List.append_nil _

theorem booksStaged_some {w : State} {req : RecordReq} (h : w.jnc.deferred = some req) (hm : w.jnc.seqCounter ≠ 0xFFFFFFFF) :
    (booksStaged w).staging = w.jnc.staging ++ [stamped w req] := by
  unfold booksStaged
  rw [h]
  exact congrArg _ (if_neg hm)

/-- R152: a sequencer that waits for the deferred record. -/
theorem waitsForReturn_iff (s : State) :
    waitsForReturn s = true ↔ s.csq.returnWait = true ∧ (s.csq.state = .check ∨ s.csq.state = .claim) := by
  simp [waitsForReturn]

/-- R15, R152: the sequencer as the place is free. -/
theorem stageDeferred_books {w : State} (h8 : w.jnc.staging.length < 8) : stageDeferred w =
    if w.jnc.deferred ≠ none ∧ waitsForReturn w = true then enterPresent { w with jnc := booksStaged w }
    else { w with jnc := booksStaged w } := by
  rw [stageDeferred_eq, deferredStaged_books h8]
  exact if_congr (and_congr_right fun _ => and_iff_right h8) rfl rfl

/-! ## The record written (R155) -/

theorem giveArray_writePtr {s : State} (h : s.jnc.staging = []) : (giveArray s).jnc.writePtr = s.jnc.writePtr := by
  have hw := servePending_jnc s
  unfold giveArray
  split
  · generalize servePending s = w at *
    unfold giveOperation
    rw [show w.jnc.staging = [] by rw [hw]; exact h, if_pos rfl]
    split
    · rw [hw]
    · split
      · show w.jnc.writePtr = _
        rw [hw]
      · rw [hw]
  · rfl

theorem exec_programCompletion {s : State} {r : Record} {rest : List Record} (h : s.jnc.array = .program)
    (hq : s.jnc.staging = r :: rest) : exec .programCompletion s =
      running s (giveArray (judgeFull (judgeBusy (stageDeferred (recordWritten r rest s))))) := by
  refine (congrArg (running s) (if_pos h)).trans ?_
  unfold programDone
  rw [hq]

/-- R15, R152: from w to p the deferred record has taken the free place. -/
structure PlaceTaken (w p : State) : Prop where
  frame : p = { w with csq := p.csq, jnc := booksStaged w, lms := p.lms }
  csq : p.csq = { w.csq with state := p.csq.state, lock := p.csq.lock, returnWait := p.csq.returnWait }
  waited : w.jnc.deferred ≠ none → waitsForReturn w = true →
    p.csq.state = .present ∧ p.csq.lock = .high ∧ p.csq.returnWait = false
  other : w.jnc.deferred = none ∨ waitsForReturn w = false → p.csq = w.csq ∧ p.lms = w.lms
  shut : hatchShut p.csq
  tare : TareRight p

theorem stageDeferred_taken {w : State} (hp : w.phase = .service) (hs : Settled w) (h8 : w.jnc.staging.length < 8) :
    PlaceTaken w (stageDeferred w) := by
  rw [stageDeferred_books h8]
  by_cases h : w.jnc.deferred ≠ none ∧ waitsForReturn w = true
  · rw [if_pos h]
    obtain ⟨hd, hw⟩ := h
    have hstate := ((waitsForReturn_iff w).mp hw).2
    obtain ⟨htare, hint⟩ := hs.no_tare (by rcases hstate with h | h <;> rw [h] <;> decide)
      (by rcases hstate with h | h <;> rw [h] <;> decide)
    have hlock : lockLine w.phase .present = .high := by rw [hp]; rfl
    exact
      { frame := rfl, csq := rfl
        waited := fun _ _ => ⟨rfl, hlock, rfl⟩
        other := fun h => absurd h (not_or.mpr ⟨hd, by rw [hw]; exact Bool.noConfusion⟩)
        shut := fun h => absurd h (by simp [enterPresent, SeqState.locked])
        tare := ⟨fun h => absurd h (by simp [enterPresent, tareEligible]), fun _ => ⟨htare, hint⟩⟩ }
  · rw [if_neg h]
    exact
      { frame := rfl, csq := rfl
        waited := fun hd hw => absurd ⟨hd, hw⟩ h
        other := fun _ => ⟨rfl, rfl⟩
        shut := hs.hatchShut
        tare := hs.tareRight.congr rfl rfl rfl rfl rfl }

/-- R153, R154, R160: from w, in which an operation has ended, to t the deferred record has been staged, both journal holds
judged and the array given to what waits. -/
structure PlaceGiven (w t : State) : Prop where
  journal : t.jnc = { booksStaged w with
    writePtr := t.jnc.writePtr, pendingRead := none, array := t.jnc.array }
  writePtr : (booksStaged w).staging = [] → t.jnc.writePtr = w.jnc.writePtr
  csq : t.csq = { w.csq with
    state := t.csq.state, lock := t.csq.lock, holds := t.csq.holds, returnWait := t.csq.returnWait }
  holds : SameHoldsButJournal w.csq.holds t.csq.holds
  busy : t.csq.holds.journalBusy = decide (4 ≤ t.jnc.staging.length)
  views : t.shc.views = w.shc.views
  holdAge : t.shc.holdAge = w.shc.holdAge
  tallies : t.shc.tallies = w.shc.tallies
  frame : t = { w with
    csq := t.csq, lkc := t.lkc, shc := t.shc, jnc := t.jnc, lms := t.lms, draws := t.draws }
  waited : w.jnc.deferred ≠ none → waitsForReturn w = true →
    t.csq.state = .present ∧ t.csq.lock = .high ∧ t.csq.returnWait = false
  other : w.jnc.deferred = none ∨ waitsForReturn w = false →
    t.csq.returnWait = w.csq.returnWait ∧ StateByHolds w t
  quiet : w.jnc.pendingRead = none → t.shc = w.shc ∧ t.draws = w.draws ∧ LinkKept w.lkc t
  served : ∀ req, w.jnc.pendingRead = some req → LinkRight w → AgesRight w →
    ReadServed req t.flash w.lkc { t.lkc with rx := w.lkc.rx, holding := w.lkc.holding } ∧ HeadKept w.lkc t

/-- R8, R11: in PRESENT the hold reason set is not judged. -/
theorem judgeHeld_present {a : State} (h : a.csq.state = .present) : judgeHeld a = a := by
  unfold judgeHeld
  rw [if_neg fun k => absurd (h.symm.trans k.1) (by decide), if_neg fun k => absurd (h.symm.trans k.1) (by decide)]

theorem PlaceTaken.given {w p : State} (h : PlaceTaken w p) (hp : w.phase = .service) (hi : w.jnc.array = .idle) :
    PlaceGiven w (settleStep (giveArray (judgeFull (judgeBusy p)))) := by
  obtain ⟨hpf, hpc, hwaited, hother, hshut, htare⟩ := h
  have hpj : p.jnc = booksStaged w := congrArg (·.jnc) hpf
  have hpl : p.lkc = w.lkc := congrArg (·.lkc) hpf
  have hps : p.shc = w.shc := congrArg (·.shc) hpf
  have hpd : p.draws = w.draws := congrArg (·.draws) hpf
  have hpp : p.phase = .service := (congrArg (·.phase) hpf).trans hp
  have hpi : p.jnc.array = .idle := by rw [hpj]; exact hi
  have hpr : p.jnc.pendingRead = w.jnc.pendingRead := by rw [hpj]; rfl
  have k := giveArray_arrayGiven (v := judgeFull (judgeBusy p)) hpp hpi
  have hset : settleStep (giveArray (judgeFull (judgeBusy p))) = judgeHeld (giveArray (judgeFull (judgeBusy p))) :=
    settleStep_judged (k.op.hatchShut hshut) (htare.congr (congrArg (·.state) k.op.csq)
      (congrArg (·.holds.weigh) k.op.csq) (congrArg (·.hatch) k.op.csq) (congrArg (·.homeActive) k.op.rct) k.op.wch)
  have hheld := giveArray_holds (journalHolds_judged p)
  have hbooks := SameBooks.of_give (judgeFull (judgeBusy p))
  have hwptr : p.jnc.staging = [] → (giveArray (judgeFull (judgeBusy p))).jnc.writePtr = p.jnc.writePtr :=
    fun h => giveArray_writePtr (s := judgeFull (judgeBusy p)) h
  have hop : JournalOp p (giveArray (judgeFull (judgeBusy p))) :=
    ((judgeBusy_op p).trans (judgeFull_op _)).trans k.op
  have hcsq : (giveArray (judgeFull (judgeBusy p))).csq =
      { p.csq with holds := (giveArray (judgeFull (judgeBusy p))).csq.holds } := by
    conv_lhs => rw [k.csq]
    rw [k.csq]
    rfl
  have hjournal := k.journal
  have hquiet := k.quiet
  have hserved := k.served
  clear k
  rw [hset]
  generalize giveArray (judgeFull (judgeBusy p)) = a at *
  have haj : a.jnc = { booksStaged w with
      writePtr := a.jnc.writePtr, pendingRead := none, array := a.jnc.array } := by
    rw [← hpj]
    have h := hjournal.1
    rw [hbooks.staging, hbooks.seqCounter] at h
    exact h
  have hah : SameHoldsButJournal w.csq.holds a.csq.holds := by
    have h : SameHoldsButJournal p.csq.holds a.csq.holds := congrArg (·.holds) hop.csq
    rw [hpc] at h
    exact h
  have hstate : a.csq.state = p.csq.state := by rw [hcsq]
  have hlock : a.csq.lock = p.csq.lock := by rw [hcsq]
  have hreturn : a.csq.returnWait = p.csq.returnWait := by rw [hcsq]
  have hfollows : p.csq = w.csq → p.lms = w.lms → StateByHolds w (judgeHeld a) := fun hc hm =>
    judgeHeld_stateByHolds (hop.phase.trans hpp) (by rw [hstate, hc]) (by rw [hlock, hc]) (by rw [hop.lms, hm])
  have hstay : p.csq.state = .present → judgeHeld a = a := fun h => judgeHeld_present (hstate.trans h)
  have hframe := hop.judged_frame
  have htc := judgeHeld_csq a
  have hth := judgeHeld_holds a
  have htj := judgeHeld_jnc a
  have htl := judgeHeld_lkc a
  have hts := judgeHeld_shc a
  have htd := judgeHeld_draws a
  generalize judgeHeld a = t at *
  have htf : t.flash = w.flash := (congrArg (·.flash) hframe).trans (congrArg (·.flash) hpf)
  have htr : t.csq.returnWait = p.csq.returnWait := by rw [htc]; exact hreturn
  refine
    { journal := by rw [htj]; exact haj
      writePtr := fun h => by rw [htj, hwptr (by rw [hpj]; exact h), hpj]; rfl
      csq := ?_
      holds := by rw [hth]; exact hah
      busy := by rw [hth, htj]; exact hheld.1
      views := by rw [hts, hop.views, hps]
      holdAge := by rw [hts, hop.holdAge, hps]
      tallies := by rw [hts, hop.tallies, hps]
      frame := ?_
      waited := fun hd hw => ?_
      other := fun h => ⟨by rw [htr, (hother h).1], hfollows (hother h).1 (hother h).2⟩
      quiet := fun hn => ?_
      served := fun req hn hl ha => ?_ }
  · rw [hth, htr]
    have h1 : a.csq = { w.csq with
        state := a.csq.state, lock := a.csq.lock, holds := a.csq.holds, returnWait := p.csq.returnWait } := by
      rw [hstate, hlock]
      exact hcsq.trans (congrArg (fun c : Sequencer => { c with holds := a.csq.holds }) hpc)
    exact htc.trans (congrArg (fun c : Sequencer => { c with state := t.csq.state, lock := t.csq.lock }) h1)
  · exact hframe.trans (congrArg (fun x : State => { x with
      csq := t.csq, lkc := t.lkc, shc := t.shc, jnc := t.jnc, lms := t.lms, draws := t.draws }) hpf)
  · obtain ⟨h1, h2, h3⟩ := hwaited hd hw
    rw [hstay h1, hstate, hlock, hreturn]
    exact ⟨h1, h2, h3⟩
  · obtain ⟨h1, h2, h3⟩ := hquiet (hpr.trans hn)
    rw [LinkKept, HeadKept, htl, hts, htd, htj, ← hpl, ← hps, ← hpd]
    exact ⟨h1, h2, h3⟩
  · have hpk : LinkKeeps w p := .of_lkc hpl
    obtain ⟨-, -, h3, h4⟩ := hserved req (hpr.trans hn) (hpk.link hl) (hpk.ages ha)
    rw [HeadKept, htf, htl, htj, ← hpl, ← show p.flash = w.flash from congrArg (·.flash) hpf]
    exact ⟨h3, h4⟩

/-- Settles O59: the completion of a programming (R15, R145, R149, R152 to R155, R163). -/
theorem programCompletes : Obligations.ProgramCompletes := by
  intro r rest s hr hp hfl ha hq h8
  obtain ⟨hwf, hptr, -⟩ := hfl
  rw [exec_programCompletion ha hq, running_eq hr.1]
  refine ⟨_, rfl, ?_⟩
  have hfits : 32 * s.jnc.writePtr + r.toBytes.length ≤ flashSize := by
    rw [r.toBytes_length, flashSize]
    omega
  have hin (j : Nat) (hj : j < 32) := flashRead_flashProgramBytes_inside r.toBytes (a := 32 * s.jnc.writePtr) (k := j)
    (by rw [r.toBytes_length]; exact hj) hfits hwf
  have hout (b : Nat) (hb : b < 32 * s.jnc.writePtr ∨ 32 * s.jnc.writePtr + 32 ≤ b) :=
    flashRead_flashProgramBytes_outside r.toBytes (a := 32 * s.jnc.writePtr) (x := b)
      (by rw [r.toBytes_length]; exact hb) s.flash
  have k := (stageDeferred_taken (w := recordWritten r rest s) hp (hr.2.transfer rfl rfl rfl rfl rfl Iff.rfl rfl) h8).given
    hp rfl
  have hrec : recordWritten r rest s = { s with
      flash := flashProgramBytes s.flash (32 * s.jnc.writePtr) r.toBytes
      jnc := { s.jnc with
        staging := rest, newest := r.seq, writePtr := nextSlot s.jnc.writePtr, array := .idle } } := rfl
  rw [hrec] at k ⊢
  generalize flashProgramBytes s.flash (32 * s.jnc.writePtr) r.toBytes = m at *
  generalize settleStep _ = t at *
  have hflash : t.flash = m := congrArg (·.flash) k.frame
  have hstaging : t.jnc.staging = _ := congrArg (·.staging) k.journal
  refine ⟨congrArg (·.newest) k.journal, fun hrest hd => ?_, fun j hj => ?_, fun b hb => ?_, ?_, k.views, k.holdAge,
    k.tallies, k.csq, k.holds, ?_, fun hd => ?_, fun req hd hm => ?_, fun req hd hrw hst => ?_, fun hno => ?_, k.quiet,
    k.served, k.busy⟩
  · exact k.writePtr (by rw [booksStaged_none (.inl (by exact hd))]; exact hrest)
  · rw [hflash]
    exact hin j hj
  · rw [hflash]
    exact hout b hb
  · rw [hstaging]
    exact k.journal
  · rw [hflash]
    exact k.frame
  · exact hstaging.trans (booksStaged_none hd)
  · exact hstaging.trans (booksStaged_some hd hm)
  · exact k.waited (by rw [hd]; exact Option.some_ne_none _) ((waitsForReturn_iff _).mpr ⟨hrw, hst⟩)
  · refine k.other (hno.imp_right fun h => Bool.eq_false_iff.mpr fun hw => ?_)
    obtain ⟨hrw, hst⟩ := (waitsForReturn_iff _).mp hw
    rcases h with h | ⟨h1, h2⟩
    · exact absurd (hrw.symm.trans h) Bool.noConfusion
    · exact hst.elim h1 h2

end Sys2Proof.Machine
end

section
/-! PROOFS. What the scan rebuilds from the valid records of the journal (R64, R112, R166, R179). -/

namespace Sys2Proof.Machine

/-! ## The newest record that passes a test -/

theorem newestWhere_none_iff {p : Record → Bool} {l : List (Nat × Record)} :
    newestWhere p l = none ↔ ∀ q ∈ l, p q.2 = false := by
  induction l with
  | nil => simp [newestWhere]
  | cons r l ih =>
    unfold newestWhere
    cases h : newestWhere p l with
    | none =>
      have hl := ih.mp h
      cases hp : p r.2 <;> simp [hp]
      exact fun a b hab => hl _ hab
    | some q =>
      have hne : ¬ ∀ q ∈ l, p q.2 = false := fun k => by rw [ih.mpr k] at h; cases h
      simp only [List.forall_mem_cons]
      constructor
      · intro k
        split at k <;> cases k
      · exact fun k => absurd k.2 hne

theorem newestWhere_some {p : Record → Bool} {l : List (Nat × Record)} {q : Nat × Record}
    (h : newestWhere p l = some q) :
    q ∈ l ∧ p q.2 = true ∧ ∀ r ∈ l, p r.2 = true → r.2.seq.toNat ≤ q.2.seq.toNat := by
  induction l generalizing q with
  | nil => cases h
  | cons r l ih =>
    unfold newestWhere at h
    cases hn : newestWhere p l with
    | none =>
      rw [hn] at h
      have hl := newestWhere_none_iff.mp hn
      dsimp only at h
      split at h
      · next hp =>
        obtain rfl := Option.some.inj h
        refine ⟨List.mem_cons_self, hp, fun x hx hpx => ?_⟩
        rcases List.mem_cons.mp hx with rfl | hx
        · exact le_rfl
        · rw [hl x hx] at hpx
          cases hpx
      · cases h
    | some q' =>
      rw [hn] at h
      obtain ⟨hm, hp', hmax⟩ := ih hn
      dsimp only at h
      split at h
      · next hc =>
        obtain rfl := Option.some.inj h
        obtain ⟨hp, hlt⟩ : p r.2 = true ∧ q'.2.seq.toNat < r.2.seq.toNat := by simpa using hc
        refine ⟨List.mem_cons_self, hp, fun x hx hpx => ?_⟩
        rcases List.mem_cons.mp hx with rfl | hx
        · exact le_rfl
        · exact (hmax x hx hpx).trans hlt.le
      · next hc =>
        obtain rfl := Option.some.inj h
        refine ⟨List.mem_cons_of_mem _ hm, hp', fun x hx hpx => ?_⟩
        rcases List.mem_cons.mp hx with rfl | hx
        · by_contra hlt
          exact hc (by simp [hpx, Nat.not_le.mp hlt])
        · exact hmax x hx hpx

/-! ## JAM and the own view (R112) -/

/-- R112: a CLEAR record of the own shaft or bin, as the statement writes it. -/
theorem isClearOf_eq (target : Byte) (own : Fin 4) (r : Record) :
    isClearOf target own r = (r.kind == 6 && r.detail == target && r.shaft == shaftByte own) := rfl

/-- R112: the own shaft is JAMMED exactly if a JAM record of it follows every CLEAR of it. -/
theorem rebuiltJammed_iff (slots : List (Nat × Record)) (own : Fin 4) :
    rebuiltJammed slots own = true ↔ ∃ j ∈ slots.map (·.2), j.kind = 5 ∧ j.shaft = shaftByte own ∧
      ∀ c ∈ slots.map (·.2), isClearOf 1 own c = true → c.seq.toNat < j.seq.toNat := by
  have htest (r : Record) : (isKind .jam r && r.shaft == shaftByte own) = true ↔ r.kind = 5 ∧ r.shaft = shaftByte own := by
    rw [Bool.and_eq_true, beq_iff_eq, isKind, beq_iff_eq]
    rfl
  simp only [List.mem_map, exists_exists_and_eq_and, forall_exists_index, and_imp, forall_apply_eq_imp_iff₂]
  unfold rebuiltJammed
  cases hj : newestWhere (fun r => isKind .jam r && r.shaft == shaftByte own) slots with
  | none =>
    have hno := newestWhere_none_iff.mp hj
    refine ⟨fun h => (by cases h), fun ⟨j, hm, hk, hs, _⟩ => ?_⟩
    exact absurd ((htest j.2).mpr ⟨hk, hs⟩) (by rw [hno j hm]; exact Bool.false_ne_true)
  | some j =>
    obtain ⟨hm, hp, hmax⟩ := newestWhere_some hj
    cases hc : newestWhere (isClearOf 1 own) slots with
    | none =>
      have hno := newestWhere_none_iff.mp hc
      refine ⟨fun _ => ⟨j, hm, ((htest _).mp hp).1, ((htest _).mp hp).2, fun c hcm hcl => ?_⟩, fun _ => rfl⟩
      rw [hno c hcm] at hcl
      cases hcl
    | some c =>
      obtain ⟨hcm, hcp, hcmax⟩ := newestWhere_some hc
      rw [decide_eq_true_eq]
      refine ⟨fun h => ⟨j, hm, ((htest _).mp hp).1, ((htest _).mp hp).2, fun x hx hxl => (hcmax x hx hxl).trans_lt h⟩,
        fun ⟨x, hx, hk, hs, hall⟩ => ?_⟩
      exact (hall c hcm hcp).trans_le (hmax x hx ((htest _).mpr ⟨hk, hs⟩))

/-! ## The own tally (R112) -/

/-- R112: the DEPOSIT records that follow every CLEAR of the own bin. -/
def countedDeposits (rs : List Record) (own : Fin 4) : List Record :=
  rs.filter (fun r => r.kind == 2 &&
    rs.all (fun c => !(c.kind == 6 && c.detail == 2 && c.shaft == shaftByte own) || decide (c.seq.toNat < r.seq.toNat)))

theorem depositsSinceClear_map (slots : List (Nat × Record)) (own : Fin 4) :
    (depositsSinceClear slots own).map (·.2) = countedDeposits (slots.map (·.2)) own := by
  unfold depositsSinceClear countedDeposits
  rw [List.filter_map]
  congr 1
  refine List.filter_congr fun r hr => congrArg (fun b => isKind .deposit r.2 && b) ?_
  rw [Bool.eq_iff_iff, List.all_eq_true]
  simp only [List.mem_map, forall_exists_index, and_imp, forall_apply_eq_imp_iff₂, ← isClearOf_eq, Bool.or_eq_true,
    Bool.not_eq_true', decide_eq_true_eq]
  cases hc : newestWhere (isClearOf 2 own) slots with
  | none => exact ⟨fun _ c hcm => .inl (newestWhere_none_iff.mp hc c hcm), fun _ => rfl⟩
  | some c =>
    obtain ⟨hcm, hcp, hcmax⟩ := newestWhere_some hc
    rw [decide_eq_true_eq]
    refine ⟨fun h x hx => ?_, fun h => (h c hcm).resolve_left (by rw [hcp]; exact Bool.noConfusion)⟩
    cases hx' : isClearOf 2 own x.2 with
    | false => exact .inl rfl
    | true => exact .inr ((hcmax x hx hx').trans_lt h)

/-- A sum that saturates at each of its steps. -/
theorem foldl_saturate (f : Nat × Record → Nat) (ds : List (Nat × Record)) {a : Nat} (ha : a ≤ massMax) :
    ds.foldl (fun acc r => saturate massMax (acc + f r)) a = min massMax (a + (ds.map f).sum) := by
  induction ds generalizing a with
  | nil => simpa using (min_eq_right ha).symm
  | cons d ds ih =>
    rw [List.foldl_cons, ih (saturate_le _ _), List.map_cons, List.sum_cons]
    unfold saturate
    omega

theorem rebuiltTally_mass (slots : List (Nat × Record)) (own : Fin 4) :
    (rebuiltTally slots own).mass = min 4294967295 (((countedDeposits (slots.map (·.2)) own)).map
      (fun r => if flagsNotLanded r.flags || r.mass == 0xFFFF then 0 else r.mass.toNat)).sum := by
  have h := foldl_saturate (fun r => landedMass r.2) (depositsSinceClear slots own) (Nat.zero_le massMax)
  rw [← depositsSinceClear_map, List.map_map]
  refine h.trans ?_
  rw [Nat.zero_add]
  rfl

theorem rebuiltTally_count_none {slots : List (Nat × Record)} {own : Fin 4}
    (h : countedDeposits (slots.map (·.2)) own = []) : (rebuiltTally slots own).count = 0 := by
  rw [← depositsSinceClear_map, List.map_eq_nil_iff] at h
  unfold rebuiltTally
  dsimp only
  rw [h]
  rfl

theorem rebuiltTally_count_some {slots : List (Nat × Record)} {own : Fin 4}
    (h : countedDeposits (slots.map (·.2)) own ≠ []) : ∃ d ∈ countedDeposits (slots.map (·.2)) own,
      (∀ q ∈ countedDeposits (slots.map (·.2)) own, q.seq.toNat ≤ d.seq.toNat) ∧
      (rebuiltTally slots own).count = d.binCount.toNat := by
  rw [← depositsSinceClear_map, ne_eq, List.map_eq_nil_iff] at h
  unfold rebuiltTally
  rw [← depositsSinceClear_map]
  generalize depositsSinceClear slots own = ds at *
  cases hn : newestWhere (fun _ => true) ds with
  | none =>
    obtain ⟨x, hx⟩ := List.exists_mem_of_ne_nil _ h
    exact absurd (newestWhere_none_iff.mp hn x hx) (by decide)
  | some d =>
    obtain ⟨hm, -, hmax⟩ := newestWhere_some hn
    refine ⟨d.2, List.mem_map_of_mem hm, fun q hq => ?_, by dsimp only; rw [hn]⟩
    obtain ⟨x, hx, rfl⟩ := List.mem_map.mp hq
    exact hmax x hx rfl

/-! ## The night list, the audit mark and AUDIT (R64, R179) -/

/-- R64: the landed DEPOSIT records of the night, the oldest first. -/
def landedDeposits (slots : List (Nat × Record)) (night : W16) : List Record :=
  ((sortBySeq slots).filter
    (fun r => isKind .deposit r.2 && r.2.night == night && !flagsNotLanded r.2.flags)).map (·.2)

theorem landedDeposits_ordered (slots : List (Nat × Record)) (night : W16) :
    (landedDeposits slots night).Pairwise (fun a b => a.seq.toNat ≤ b.seq.toNat) := by
  unfold landedDeposits
  rw [List.pairwise_map]
  exact (sortBySeq_ordered slots).filter _

theorem landedDeposits_perm (slots : List (Nat × Record)) (night : W16) :
    (landedDeposits slots night).Perm ((slots.map (·.2)).filter
      (fun r => r.kind == 2 && r.night == night && !flagsNotLanded r.flags)) := by
  unfold landedDeposits
  rw [List.filter_map]
  exact ((sortBySeq_perm slots).filter _).map _

theorem rebuiltNightList_eq (slots : List (Nat × Record)) (night : W16) :
    rebuiltNightList slots night = (landedDeposits slots night).foldl (fun acc r =>
      if r.serial = 0 ∨ r.serial = 0xFFFFFFFF ∨ r.serial ∈ acc ∨ 256 ≤ acc.length then acc
      else acc ++ [r.serial]) [] := by
  unfold rebuiltNightList landedDeposits
  rw [List.foldl_map]
  simp only [addSerial_eq]

/-- R179: the newest record of a kind. -/
theorem newestKind {slots : List (Nat × Record)} (k : RecordKind) (h : ∃ q ∈ slots.map (·.2), q.kind = k.code) :
    ∃ p, newestWhere (isKind k) slots = some p ∧ p.2 ∈ slots.map (·.2) ∧ p.2.kind = k.code ∧
      ∀ q ∈ slots.map (·.2), q.kind = k.code → q.seq.toNat ≤ p.2.seq.toNat := by
  obtain ⟨q, hq, hk⟩ := h
  obtain ⟨x, hx, rfl⟩ := List.mem_map.mp hq
  cases hn : newestWhere (isKind k) slots with
  | none => exact absurd (newestWhere_none_iff.mp hn x hx) (by simp [isKind, hk])
  | some p =>
    obtain ⟨hm, hp, hmax⟩ := newestWhere_some hn
    refine ⟨p, rfl, List.mem_map_of_mem hm, by simpa [isKind] using hp, fun q hq hqk => ?_⟩
    obtain ⟨y, hy, rfl⟩ := List.mem_map.mp hq
    exact hmax y hy (by simp [isKind, hqk])

theorem newestKind_none {slots : List (Nat × Record)} (k : RecordKind) (h : ∀ q ∈ slots.map (·.2), q.kind ≠ k.code) :
    newestWhere (isKind k) slots = none :=
  newestWhere_none_iff.mpr fun q hq => by simpa [isKind] using h q.2 (List.mem_map_of_mem hq)

end Sys2Proof.Machine
end

section
/-! PROOFS. The journal controller's work at the end of the scan (R154, R156, R160, R178, R180), and the entry to HOME. -/

namespace Sys2Proof.Machine

/-! ## The journal controller's work, one operation after another -/

/-- R160: JOURNAL_FULL stands with its condition. -/
abbrev FullRight (s : State) : Prop := s.csq.holds.journalFull = fullJudged s.flash s.jnc

/-- R154, R178: in service the journal controller's operations have led from v to u. -/
structure ScanWork (v u : State) : Prop where
  op : JournalOp v u
  head : HeadOp v u
  skipped : ∀ f < 512, Skipped f v.flash v.jnc.writePtr → Skipped f u.flash u.jnc.writePtr
  full : FullRight v → FullRight u
  held : v.jnc.startHold = [] → u.jnc.startHold = []
  first : ∀ x rest, x.kind ≠ RecordKind.unclaimed.code → v.jnc.staging = x :: rest →
    ∃ rest', u.jnc.staging = x :: rest'

theorem ScanWork.refl (v : State) : ScanWork v v where
  op := .refl v
  head := .refl v
  skipped := fun _ _ => id
  full := id
  held := id
  first := fun _ rest _ h => ⟨rest, h⟩

theorem ScanWork.trans {v u t : State} (h : ScanWork v u) (k : ScanWork u t) : ScanWork v t where
  op := h.op.trans k.op
  head := h.head.trans k.head
  skipped := fun f hf i => k.skipped f hf (h.skipped f hf i)
  full := fun hf => k.full (h.full hf)
  held := fun hv => k.held (h.held hv)
  first := fun x rest hx hv => by
    obtain ⟨rest', hu⟩ := h.first x rest hx hv
    exact k.first x rest' hx hu

theorem giveArray_full {v : State} (h : FullRight v) : FullRight (giveArray v) := by
  by_cases hg : v.phase = .service ∧ v.jnc.array = .idle
  · have k := giveArray_arrayGiven hg.1 hg.2
    have hseq := (SameBooks.of_give v).seqCounter
    rcases k.full with ⟨hf, hw⟩ | hf
    · rw [FullRight, hf, h, fullJudged, fullJudged, hw, hseq, k.op.flash]
    · exact hf
  · have hx : giveArray v = v := if_neg hg
    rw [hx]
    exact h

theorem giveArray_scanWork (v : State) : ScanWork v (giveArray v) where
  op := giveArray_op v
  head := giveArray_head v
  skipped := fun _ hf i => .give hf i
  full := giveArray_full
  held := (SameBooks.of_give v).startHold.trans
  first := fun _ rest _ h => ⟨rest, (giveArray_staging v).trans h⟩

theorem stageNow_scanWork (req : RecordReq) (v : State) : ScanWork v (stageNow req v) := by
  have op := stageNow_op req v
  have hhead := stageNow_head req v
  unfold stageNow at *
  split at op
  · next hm =>
    rw [if_pos hm]
    exact .refl v
  · next hm =>
    rw [if_neg hm] at hhead ⊢
    let u : State := judgeFull (judgeBusy (pushRecord req v))
    exact
      { op := op, head := hhead
        skipped := fun _ hf i => Skipped.give (s := u) hf i
        full := fun _ => giveArray_full (v := u) rfl
        held := (SameBooks.of_give u).startHold.trans
        first := fun _ rest _ h => by
          refine ⟨rest ++ [stamped v req], (giveArray_staging u).trans ?_⟩
          show v.jnc.staging ++ [stamped v req] = _
          rw [h]
          rfl }

/-- R151: a coalescing leaves the first record, unless that is the UNCLAIMED record itself. -/
theorem bumpLast_first {x : Record} {rest : List Record} {v : State} {req : RecordReq} (hc : coalesces v req = true)
    (hx : x.kind ≠ RecordKind.unclaimed.code) (h : v.jnc.staging = x :: rest) :
    ∃ rest', bumpLast v.jnc.staging = x :: rest' := by
  rw [h]
  cases rest with
  | cons q rest => exact ⟨_, rfl⟩
  | nil =>
    unfold coalesces newestStaged at hc
    rw [h] at hc
    split at hc <;> simp_all

theorem askGeneral_scanWork (req : RecordReq) {v : State} (hp : v.phase = .service) :
    ScanWork v (askGeneral req v) := by
  have op := askGeneral_op req v
  have hhead := askGeneral_head req v
  unfold askGeneral at *
  rw [if_neg (not_not.mpr hp)] at op hhead ⊢
  split at op
  · next hc =>
    rw [if_pos hc] at hhead ⊢
    exact
      { op := op, head := hhead
        skipped := fun _ _ => id
        full := id
        held := id
        first := fun x rest hx h => bumpLast_first hc hx h }
  · next hc =>
    rw [if_neg hc]
    split
    · exact stageNow_scanWork req v
    · exact .refl v

theorem foldl_ask_scanWork (reqs : List RecordReq) {v : State} (hp : v.phase = .service) :
    ScanWork v (reqs.foldl (fun t req => askGeneral req t) v) := by
  induction reqs generalizing v with
  | nil => exact .refl v
  | cons req reqs ih =>
    have h := askGeneral_scanWork req hp
    exact h.trans (ih (h.op.phase.trans hp))

/-! ## The entry to HOME at the end of the scan (R7, R26, R76, R178) -/

/-- R26: a hatch open at the entry to HOME leads to FAULT. -/
theorem enterHome_opened {j : State} (ho : j.csq.hatch = .opened) (hself : selfHeld j = false) :
    enterHome j = askGeneral (faultRecord .hatchForced .home j.csq.bag j.straps.shf) (faultBegun (homeAsked j)) := by
  rw [enterHome_eq, if_pos ho]
  exact enterFault_unheld .hatchForced (s := homeAsked j) hself (fun h => nomatch h)

/-- R8, R26, R39: the end of a step that has entered HOME, at whatever state it ends, touches the weigh channel only. -/
theorem settleStep_enterHome {j : State} (hself : selfHeld j = false) :
    settleStep (enterHome j) = { enterHome j with wch := (settleStep (enterHome j)).wch } := by
  cases ho : j.csq.hatch with
  | opened =>
    rw [enterHome_opened ho hself]
    have hst : (askGeneral (faultRecord .hatchForced .home j.csq.bag j.straps.shf) (faultBegun (homeAsked j))).csq.state =
        .fault := by
      rw [(askGeneral_op _ _).csq, faultBegun_csq]
    rw [settleStep_elsewhere (by rw [hst]; decide) (by rw [hst]; decide) (fun h => absurd (hst ▸ h) (by decide))]
  | closed =>
    rw [enterHome_eq, if_neg (by rw [ho]; decide)]
    split
    · rw [settleStep_of_hatch (s := homeReached (homeAsked j)) fun _ => ho, judgeHeld_homeReached]
      exact judgeTare_frame _
    · rw [settleStep_elsewhere (s := homeAsked j) (by simp [homeAsked]) (by simp [homeAsked]) fun _ => ho]

/-- R7, R76, R178: from j to t the end of the scan has entered HOME, and left it where it had to. -/
structure ScanHomed (j t : State) : Prop where
  frame : t = { j with csq := t.csq, wch := t.wch, rct := t.rct, lkc := t.lkc, jnc := t.jnc, lms := t.lms }
  holds : SameHoldsButJournal j.csq.holds t.csq.holds
  link : t.lkc = { j.lkc with rx := t.lkc.rx, holding := t.lkc.holding }
  head : HeadOp j t
  newest : t.jnc.newest = j.jnc.newest
  auditMark : t.jnc.auditMark = j.jnc.auditMark
  skipped : ∀ f < 512, Skipped f j.flash j.jnc.writePtr → Skipped f t.flash t.jnc.writePtr
  full : FullRight j → FullRight t
  held : j.jnc.startHold = [] → t.jnc.startHold = []
  first : ∀ x rest, x.kind ≠ RecordKind.unclaimed.code → j.jnc.staging = x :: rest →
    ∃ rest', t.jnc.staging = x :: rest'
  same : j.csq.hatch = .closed → t.jnc = j.jnc
  home : j.csq.hatch = .closed → j.rct.homeActive = false →
    t.csq.state = .home ∧ t.csq.homeLimit = some j.cfg.homeLimit ∧ t.rct.mode = .reverse ∧ t.rct.mdir = .low
  reached : j.csq.hatch = .closed → j.rct.homeActive = true → t.rct.mode = .stopped ∧
    t.csq.state = (if t.csq.holds.isEmpty then .idle else .held)
  opened : j.csq.hatch = .opened → t.csq.state = .fault ∧ t.rct.mode = .stopped

theorem ScanHomed.of_wch {j x t : State} (h : ScanHomed j x) (ht : t = { x with wch := t.wch }) : ScanHomed j t := by
  obtain ⟨hf, hh, hl, hhd, hn, ha, hs, hfull, hheld, hfirst, hsame, hhome, hreached, hopened⟩ := h
  generalize t.wch = w at ht
  subst ht
  exact ⟨congrArg (fun y : State => { y with wch := w }) hf, hh, hl, hhd.trans (.of_eq rfl rfl rfl), hn, ha, hs,
    hfull, hheld, hfirst, hsame, hhome, hreached, hopened⟩

theorem enterHome_homed {j : State} (hp : j.phase = .service) (hself : selfHeld j = false) (hn : NoReadWaits j) :
    ScanHomed j (enterHome j) := by
  obtain ⟨hactive, hinactive⟩ := Rotor.goHome_asked j.rct
  cases ho : j.csq.hatch with
  | closed =>
    have hopen : ¬ j.csq.hatch = .opened := by rw [ho]; decide
    have hnot : Hatch.closed = .opened → False := fun h => nomatch h
    cases hh : j.rct.homeActive with
    | true =>
      have hx : enterHome j = homeReached (homeAsked j) := by rw [enterHome_eq, if_neg hopen, if_pos hh]
      have hr : (homeReached (homeAsked j)).rct = { j.rct with mode := .stopped } := hactive hh
      rw [hx]
      exact
        { frame := rfl, holds := rfl, link := rfl, head := .of_eq rfl rfl rfl, newest := rfl, auditMark := rfl
          skipped := fun _ _ => id, full := id, held := id, first := fun _ rest _ h => ⟨rest, h⟩, same := fun _ => rfl
          home := fun _ h => absurd (hh.symm.trans h) Bool.noConfusion
          reached := fun _ _ => ⟨by rw [hr], rfl⟩
          opened := fun h => absurd h hopen }
    | false =>
      have hx : enterHome j = homeAsked j := by
        rw [enterHome_eq, if_neg hopen, if_neg (by rw [hh]; exact Bool.false_ne_true)]
      have hr : (homeAsked j).rct = _ := hinactive hh
      rw [hx]
      exact
        { frame := rfl, holds := rfl, link := rfl, head := .of_eq rfl rfl rfl, newest := rfl, auditMark := rfl
          skipped := fun _ _ => id, full := id, held := id, first := fun _ rest _ h => ⟨rest, h⟩, same := fun _ => rfl
          home := fun _ _ => ⟨rfl, rfl, by rw [hr], by rw [hr]⟩
          reached := fun _ h => absurd (hh.symm.trans h) Bool.noConfusion
          opened := fun h => absurd h hopen }
  | opened =>
    have hclosed : ¬ j.csq.hatch = .closed := by rw [ho]; decide
    have hf := faultBegun_frame (homeAsked j)
    obtain ⟨htgi, hwch⟩ := (faultBegun_windows (homeAsked j)).2 (fun h => nomatch h)
    have hcsq := faultBegun_csq (homeAsked j)
    rw [htgi, hwch] at hf
    rw [enterHome_opened ho hself]
    generalize faultBegun (homeAsked j) = v at *
    have hpv : v.phase = .service := by rw [hf]; exact hp
    have hnv : NoReadWaits v := by rw [hf]; exact hn
    have k := askGeneral_worked (faultRecord .hatchForced .home j.csq.bag j.straps.shf) hnv
    have w := askGeneral_scanWork (faultRecord .hatchForced .home j.csq.bag j.straps.shf) hpv
    have hvl : v.lkc = j.lkc := by rw [hf]; rfl
    have hvj : v.jnc = j.jnc := by rw [hf]; rfl
    have hvm : v.flash = j.flash := by rw [hf]; rfl
    have hvh : v.csq.holds = j.csq.holds := by rw [hcsq]; rfl
    have hvr : v.rct.mode = .stopped := by rw [hf]; rfl
    generalize askGeneral (faultRecord .hatchForced .home j.csq.bag j.straps.shf) v = t at *
    have hskip := w.skipped
    have hfull := w.full
    have hfirst := w.first
    have hheld := w.held
    rw [hvj, hvm] at hskip
    rw [FullRight, hvh, hvm, hvj] at hfull
    rw [hvj] at hfirst hheld
    have htl := k.link.1
    rw [hvl] at htl
    exact
      { frame := by
          have hframe : t = { v with
              csq := t.csq, wch := t.wch, rct := t.rct, lkc := t.lkc, jnc := t.jnc, lms := t.lms } := by
            rw [w.op.rct, w.op.lms, w.op.wch]
            exact k.frame
          exact hframe.trans (congrArg (fun y : State => { y with
            csq := t.csq, wch := t.wch, rct := t.rct, lkc := t.lkc, jnc := t.jnc, lms := t.lms }) hf)
        holds := by rw [← hvh]; exact k.holds
        link := htl
        head := HeadOp.trans (t := v) (.of_eq (by rw [hvj]) (by rw [hvl]) (by rw [hvl])) w.head
        newest := by rw [w.op.newest, hvj]
        auditMark := by rw [w.op.auditMark, hvj]
        skipped := hskip, full := hfull, held := hheld, first := hfirst
        same := fun h => absurd h hclosed
        home := fun h => absurd h hclosed
        reached := fun h => absurd h hclosed
        opened := fun _ => ⟨by rw [k.csq, hcsq], by rw [w.op.rct]; exact hvr⟩ }

end Sys2Proof.Machine
end

section
/-! PROOFS. SCAN_COMPLETE (R64, R109, R112, R166, R178 to R180). -/

namespace Sys2Proof.Machine

/-! ## The START record staged (R178 step 4, R180) -/

/-- R180: the start-up hold is emptied before what it held is staged. -/
theorem unheld_scanWork (g : State) : ScanWork g { g with jnc := { g.jnc with startHold := [] } } where
  op :=
    { supply := rfl, rstLow := rfl, phase := rfl, startKind := rfl, straps := rfl, cfg := rfl, csq := rfl, wch := rfl
      tgi := rfl, nls := rfl, rct := rfl, ldi := rfl, views := rfl, holdAge := rfl, tallies := rfl, nck := rfl
      auditMark := rfl, newest := rfl, lms := rfl, flash := rfl, pending := rfl, rx := ⟨0, rfl⟩, holding := .inl rfl
      quiet := fun h => ⟨h, rfl, rfl, rfl, rfl⟩ }
  head := .of_eq rfl rfl rfl
  skipped := fun _ _ => id
  full := id
  held := fun _ => rfl
  first := fun _ rest _ h => ⟨rest, h⟩

/-- R178, R180: what the staging of START and of the records of the start-up hold does. -/
theorem stageStart_work {g : State} (hp : g.phase = .service) : ScanWork g (stageStart g) ∧
    (stageStart g).jnc.startHold = [] ∧
    (g.jnc.staging = [] → g.jnc.seqCounter ≠ 0xFFFFFFFF → ∃ rest, (stageStart g).jnc.staging =
      plainRecord g 1 g.startKind.code :: rest ∧ (g.jnc.startHold = [] → rest = [])) := by
  let g0 : State := { g with jnc := { g.jnc with startHold := [] } }
  have hk : (startRecord g.startKind g.straps.shf).kind ≠ .unclaimed := by simp [startRecord, RecordReq.blank]
  have hstamp : stamped g0 (startRecord g.startKind g.straps.shf) = plainRecord g 1 g.startKind.code :=
    stamped_general g0 (by simp [startRecord, RecordReq.blank]) rfl
  have h0 : ScanWork g g0 := unheld_scanWork g
  have h1 := askGeneral_scanWork (startRecord g.startKind g.straps.shf) (v := g0) hp
  have hstaged := askGeneral_staging (startRecord g.startKind g.straps.shf) (s := g0) hp (coalesces_eq_false hk g0)
  have hx : stageStart g = g.jnc.startHold.foldl (fun t req => askGeneral req t)
      (askGeneral (startRecord g.startKind g.straps.shf) g0) := rfl
  rw [hstamp] at hstaged
  rw [hx]
  generalize askGeneral (startRecord g.startKind g.straps.shf) g0 = b at *
  have h2 := foldl_ask_scanWork g.jnc.startHold (v := b) (h1.op.phase.trans hp)
  refine ⟨h0.trans (h1.trans h2), h2.held (h1.held rfl), fun hs hm => ?_⟩
  have hb : b.jnc.staging = [plainRecord g 1 g.startKind.code] := by
    rw [hstaged, if_pos ⟨by rw [show g0.jnc.staging = [] from hs]; decide, hm⟩, show g0.jnc.staging = [] from hs]
    rfl
  cases hh : g.jnc.startHold with
  | nil => exact ⟨[], hb, fun _ => rfl⟩
  | cons req reqs =>
    obtain ⟨rest, hr⟩ := h2.first _ [] (by simp [plainRecord, generalRecord, RecordKind.code]) hb
    exact ⟨rest, by rw [← hh]; exact hr, fun h => absurd h (List.cons_ne_nil _ _)⟩

/-! ## The part as HOME is entered (R109, R178, R179) -/

/-- R178: from s to j the scan's values have been set, START and what was held has been staged and the link joined. -/
structure ScanJoined (s j : State) : Prop where
  frame : j = { s with
    phase := .service, csq := { s.csq with holds := j.csq.holds }, nls := scanNight s, shc := scanShafts s
    nck := { s.nck with syncTimer := some (syncLength s) }, ldi := { s.ldi with taking := true }
    lkc := j.lkc, jnc := j.jnc }
  holds : SameHoldsButJournal (scanHolds s) j.csq.holds
  link : j.lkc = { s.lkc with phase := .settling, settleTime := 0, rx := j.lkc.rx, holding := j.lkc.holding }
  head : HeadOp s j
  newest : j.jnc.newest = (scanJournal s).newest
  auditMark : j.jnc.auditMark = (scanJournal s).auditMark
  skipped : ∀ f < 512, Skipped f s.flash (scanJournal s).writePtr → Skipped f j.flash j.jnc.writePtr
  full : FullRight j
  held : j.jnc.startHold = []
  staged : (scanJournal s).newest ≠ 0xFFFFFFFF → ∃ rest, j.jnc.staging =
    { plainRecord s 1 s.startKind.code with seq := (scanJournal s).newest + 1, night := (scanNight s).night } :: rest ∧
    (s.jnc.startHold = [] → rest = [])
  reads : NoReadWaits j

theorem joined_scanned {s : State} (hn : NoReadWaits s) (hs : s.jnc.staging = []) : ScanJoined s (joined s) := by
  have hv := served_frame s
  obtain ⟨hkstaging, -, hkhold, hkread, hkarray⟩ := scanJournal_keeps s
  have hcounter := scanJournal_counter s
  have hx : joined s = joinLink (stageStart (giveArray (served s))) := rfl
  have hfull : FullRight (served s) := rfl
  rw [hx]
  generalize served s = v at *
  have hvj : v.jnc = scanJournal s := congrArg (·.jnc) hv
  have hvn : NoReadWaits v := fun hi => by
    rw [hvj, hkread]
    refine hn ?_
    rw [← hkarray, ← hvj]
    exact hi
  have hvstart : ScanWork v (giveArray v) := giveArray_scanWork v
  have hbooks := SameBooks.of_give v
  have hgf := hvstart.op.frame_quiet hvn
  generalize giveArray v = g at *
  obtain ⟨hwork, hheld, hstaged⟩ := stageStart_work (g := g) (hvstart.op.phase.trans (congrArg (·.phase) hv))
  have hall := hvstart.trans hwork
  obtain ⟨hreads, -, -, hretry, hlink⟩ := hall.op.quiet hvn
  have haf := hall.op.frame_quiet hvn
  obtain ⟨hac, hah⟩ := hall.op.csq_kept hretry
  have hgs : g.jnc.staging = [] := by rw [hbooks.staging, hvj, hkstaging, hs]
  have hgq : g.jnc.seqCounter = (scanJournal s).newest := by rw [hbooks.seqCounter, hvj, hcounter]
  have hgh : g.jnc.startHold = s.jnc.startHold := by rw [hbooks.startHold, hvj, hkhold]
  have hrecord : plainRecord g 1 g.startKind.code = { plainRecord s 1 s.startKind.code with
      seq := (scanJournal s).newest + 1, night := (scanNight s).night } := by
    rw [← hgq, hgf, hv]
    rfl
  rw [hgs, hgq, hgh, hrecord] at hstaged
  generalize stageStart g = a at *
  have hvl : v.lkc = s.lkc := congrArg (·.lkc) hv
  have hvh : v.csq.holds = scanHolds s := congrArg (·.csq.holds) hv
  have hal : a.lkc = { s.lkc with rx := a.lkc.rx, holding := a.lkc.holding } := by
    rw [hvl] at hlink
    exact hlink
  have hsync : syncLength a = syncLength s := by
    rw [haf, hv]
    rfl
  have hacs : a.csq = { s.csq with holds := a.csq.holds } := by
    rw [hv] at hac
    exact hac
  have haframe : a = { s with
      phase := .service, csq := a.csq, nls := scanNight s, shc := scanShafts s, lkc := a.lkc, jnc := a.jnc } :=
    haf.trans (congrArg (fun x : State => { x with csq := a.csq, lkc := a.lkc, jnc := a.jnc }) hv)
  have hjoined : joinLink a = { a with
      lkc := { a.lkc with phase := .settling, settleTime := 0 }
      nck := { s.nck with syncTimer := some (syncLength s) }, ldi := { s.ldi with taking := true } } := by
    rw [← hsync]
    refine congrArg₂ (fun n l => { a with
      lkc := { a.lkc with phase := .settling, settleTime := 0 }, nck := n, ldi := l }) ?_ ?_
    · rw [haframe]
    · rw [haframe]
  rw [hjoined]
  have hskip := hall.skipped
  rw [hvj, show v.flash = s.flash from congrArg (·.flash) hv] at hskip
  exact
    { frame := (congrArg (fun x : State => { x with
          lkc := { a.lkc with phase := .settling, settleTime := 0 }
          nck := { s.nck with syncTimer := some (syncLength s) }, ldi := { s.ldi with taking := true } }) haframe).trans
        (congrArg (fun c : Sequencer => { s with
          phase := .service, csq := c, nls := scanNight s, shc := scanShafts s
          nck := { s.nck with syncTimer := some (syncLength s) }, ldi := { s.ldi with taking := true }
          lkc := { a.lkc with phase := .settling, settleTime := 0 }, jnc := a.jnc }) hacs)
      holds := by
        rw [hvh] at hah
        exact hah
      link := congrArg (fun l : Link => { l with phase := .settling, settleTime := 0 }) hal
      head := by
        have h1 : HeadOp s a := HeadOp.trans (t := v) (.of_eq (by rw [hvj, hkarray]) (by rw [hvl]) (by rw [hvl])) hall.head
        exact h1.trans (.of_eq rfl rfl rfl)
      newest := by rw [← hvj]; exact hall.op.newest
      auditMark := by rw [← hvj]; exact hall.op.auditMark
      skipped := hskip
      full := hall.full hfull
      held := hheld
      staged := fun h => hstaged rfl h
      reads := hreads }

/-! ## SCAN_COMPLETE -/

/-- R112: the own shaft and the others as the scan leaves them. -/
theorem scanShafts_own (s : State) :
    (scanShafts s).views.get s.straps.shf =
      (if rebuiltJammed (journalRecords s.flash) s.straps.shf then .jammed else .free) ∧
    (scanShafts s).holdAge.get s.straps.shf = none ∧
    (scanShafts s).tallies.get s.straps.shf = rebuiltTally (journalRecords s.flash) s.straps.shf ∧
    (∀ k, k ≠ s.straps.shf → (scanShafts s).views.get k = s.shc.views.get k ∧
      (scanShafts s).holdAge.get k = s.shc.holdAge.get k ∧ (scanShafts s).tallies.get k = s.shc.tallies.get k) := by
  unfold scanShafts
  exact ⟨Four.get_set_same _ _ _, Four.get_set_same _ _ _, Four.get_set_same _ _ _,
    fun k hk => ⟨Four.get_set_ne _ _ hk, Four.get_set_ne _ _ hk, Four.get_set_ne _ _ hk⟩⟩

theorem ScanJoined.unheld {s j : State} (h : ScanJoined s j) : selfHeld j = false := by
  have hview : ownView j = (if rebuiltJammed (journalRecords s.flash) s.straps.shf then .jammed else .free) := by
    unfold ownView
    rw [h.frame]
    exact (scanShafts_own s).1
  unfold selfHeld
  rw [hview]
  split <;> simp

/-- R178: a completed scan, up to the end of its step. -/
theorem exec_scanComplete {s : State} (hp : s.phase = .scanning) :
    exec .scanComplete s = .next (settleStep (enterHome (joined s))) := by
  have hx : exec .scanComplete s = running s (endScan s) := congrArg (running s) (if_pos hp)
  rw [hx, running_eq (by rw [hp]; decide), endScan_eq]

/-- R166, R179: the newest record, the night and the slot after it. -/
theorem scanJournal_newest {s : State} :
    (journalRecords s.flash = [] → (scanJournal s).newest = 0 ∧ (scanNight s).night = 0 ∧ (scanJournal s).writePtr = 0) ∧
    (journalRecords s.flash ≠ [] → ∃ p ∈ journalRecords s.flash,
      (∀ q ∈ journalRecords s.flash, q.2.seq.toNat ≤ p.2.seq.toNat) ∧
      (scanJournal s).newest = p.2.seq ∧ (scanNight s).night = p.2.night ∧ (scanJournal s).writePtr = nextSlot p.1) := by
  unfold scanJournal scanNight
  generalize journalRecords s.flash = slots
  refine ⟨fun h => ?_, fun h => ?_⟩
  · subst h
    exact ⟨rfl, rfl, rfl⟩
  · cases hn : newestWhere (fun _ => true) slots with
    | none =>
      obtain ⟨x, hx⟩ := List.exists_mem_of_ne_nil _ h
      exact absurd (newestWhere_none_iff.mp hn x hx) (by decide)
    | some p =>
      obtain ⟨hm, -, hmax⟩ := newestWhere_some hn
      exact ⟨p, hm, fun q hq => hmax q hq rfl, by dsimp only; rw [hn], by dsimp only; rw [hn], by dsimp only; rw [hn]⟩

/-- R156: slots skipped from the slot after the newest record on. -/
theorem Skipped.from_next {m : List Host.Cell} {n wp : Nat} (hn : n < 512) (h : Skipped (nextSlot n) m wp) :
    ∃ k, wp = (n + 1 + k) % 512 ∧ ∀ i, i < k → (n + 1 + i) % 32 ≠ 0 ∧ slotBlank m (n + 1 + i) = false := by
  obtain ⟨-, k, hk, hs⟩ := h
  rcases Nat.lt_or_eq_of_le (Nat.succ_le_of_lt hn) with hlt | heq
  · have hnext : nextSlot n = n + 1 := Nat.mod_eq_of_lt hlt
    rw [hnext] at hk hs
    exact ⟨k, hk, hs⟩
  · have hnext : nextSlot n = 0 := by
      unfold nextSlot
      omega
    rw [hnext] at hk hs
    have hk0 : k = 0 := by
      by_contra hpos
      exact (hs 0 (Nat.pos_of_ne_zero hpos)).1 rfl
    exact ⟨0, by omega, fun i hi => absurd hi (Nat.not_lt_zero _)⟩

/-! ## The part as the step of SCAN_COMPLETE ends -/

/-- R178, R179: from s to t the scan has completed: what it has set stands, START is staged, the link joined and HOME entered. -/
structure ScanEnded (s t : State) : Prop where
  frame : t = { s with
    phase := .service, csq := t.csq, wch := t.wch, nls := scanNight s, rct := t.rct, ldi := { s.ldi with taking := true }
    lkc := t.lkc, shc := scanShafts s, nck := { s.nck with syncTimer := some (syncLength s) }, jnc := t.jnc, lms := t.lms }
  holds : SameHoldsButJournal (scanHolds s) t.csq.holds
  link : LinkKept { s.lkc with phase := .settling, settleTime := 0 } t
  newest : t.jnc.newest = (scanJournal s).newest
  auditMark : t.jnc.auditMark = rebuiltMark (journalRecords s.flash)
  skipped : (scanJournal s).writePtr < 512 → Skipped (scanJournal s).writePtr s.flash t.jnc.writePtr
  full : FullRight t
  held : t.jnc.startHold = []
  staged : (scanJournal s).newest ≠ 0xFFFFFFFF → ∃ rest, t.jnc.staging =
    { plainRecord s 1 s.startKind.code with seq := (scanJournal s).newest + 1, night := (scanNight s).night } :: rest ∧
    (s.jnc.startHold = [] → s.csq.hatch = .closed → rest = [])
  home : s.csq.hatch = .closed → s.rct.homeActive = false →
    t.csq.state = .home ∧ t.csq.homeLimit = some s.cfg.homeLimit ∧ t.rct.mode = .reverse ∧ t.rct.mdir = .low
  reached : s.csq.hatch = .closed → s.rct.homeActive = true → t.rct.mode = .stopped ∧
    t.csq.state = (if t.csq.holds.isEmpty then .idle else .held)
  opened : s.csq.hatch = .opened → t.csq.state = .fault ∧ t.rct.mode = .stopped

theorem ScanJoined.homed {s j t : State} (hj : ScanJoined s j) (ht : ScanHomed j t) : ScanEnded s t := by
  have hhatch : j.csq.hatch = s.csq.hatch := congrArg (·.csq.hatch) hj.frame
  have hrct : j.rct = s.rct := congrArg (·.rct) hj.frame
  have hcfg : j.cfg = s.cfg := congrArg (·.cfg) hj.frame
  have hframe : t = { s with
      phase := .service, csq := t.csq, wch := t.wch, nls := scanNight s, rct := t.rct, ldi := { s.ldi with taking := true }
      lkc := t.lkc, shc := scanShafts s, nck := { s.nck with syncTimer := some (syncLength s) }, jnc := t.jnc
      lms := t.lms } :=
    ht.frame.trans (congrArg (fun x : State => { x with
      csq := t.csq, wch := t.wch, rct := t.rct, lkc := t.lkc, jnc := t.jnc, lms := t.lms }) hj.frame)
  have hlink : t.lkc = { s.lkc with phase := .settling, settleTime := 0, rx := t.lkc.rx, holding := t.lkc.holding } :=
    ht.link.trans (congrArg (fun l : Link => { l with rx := t.lkc.rx, holding := t.lkc.holding }) hj.link)
  have hflash : t.flash = s.flash := congrArg (·.flash) hframe
  have hmark : (scanJournal s).auditMark = rebuiltMark (journalRecords s.flash) := by
    unfold scanJournal
    generalize journalRecords s.flash = rs
    rfl
  have hhome := ht.home
  have hreached := ht.reached
  have hopened := ht.opened
  have hsame := ht.same
  rw [hhatch, hrct] at hhome hreached
  rw [hhatch] at hopened hsame
  rw [hcfg] at hhome
  exact
    { frame := hframe
      holds := sameHolds_trans hj.holds ht.holds
      link := ⟨hlink, (hj.head.trans ht.head).kept⟩
      newest := ht.newest.trans hj.newest
      auditMark := (ht.auditMark.trans hj.auditMark).trans hmark
      skipped := fun hw => hflash ▸ ht.skipped _ hw (hj.skipped _ hw (.refl hw _))
      full := ht.full hj.full
      held := ht.held hj.held
      staged := fun h => by
        obtain ⟨rest, hr, hrest⟩ := hj.staged h
        cases hc : s.csq.hatch with
        | closed => exact ⟨rest, (congrArg Journal.staging (hsame hc)).trans hr, fun hs _ => hrest hs⟩
        | opened =>
          obtain ⟨rest', hr'⟩ := ht.first _ rest (by simp [plainRecord, generalRecord, RecordKind.code]) hr
          exact ⟨rest', hr', fun _ hx => absurd hx (by decide)⟩
      home := hhome, reached := hreached, opened := hopened }

/-- R179: the sequence, the night and the write pointer, which only skipping has moved. -/
theorem ScanEnded.pointer {s t : State} (h : ScanEnded s t) :
    (journalRecords s.flash = [] → t.jnc.newest = 0 ∧ (scanNight s).night = 0 ∧ t.jnc.writePtr = 0) ∧
    (journalRecords s.flash ≠ [] → ∃ p ∈ journalRecords s.flash,
      (∀ q ∈ journalRecords s.flash, q.2.seq.toNat ≤ p.2.seq.toNat) ∧
      t.jnc.newest = p.2.seq ∧ (scanNight s).night = p.2.night ∧
      ∃ k, t.jnc.writePtr = (p.1 + 1 + k) % 512 ∧
        ∀ m, m < k → (p.1 + 1 + m) % 32 ≠ 0 ∧ slotBlank s.flash (p.1 + 1 + m) = false) := by
  obtain ⟨hempty, hsome⟩ := scanJournal_newest (s := s)
  have hskip := h.skipped
  rw [h.newest]
  refine ⟨fun he => ?_, fun he => ?_⟩
  · obtain ⟨hn, hnight, hw⟩ := hempty he
    rw [hw] at hskip
    obtain ⟨-, k, hk, hs⟩ := hskip (by decide)
    have hk0 : k = 0 := by
      by_contra hpos
      exact (hs 0 (Nat.pos_of_ne_zero hpos)).1 rfl
    exact ⟨hn, hnight, by omega⟩
  · obtain ⟨p, hp, hmax, hn, hnight, hw⟩ := hsome he
    rw [hw] at hskip
    exact ⟨p, hp, hmax, hn, hnight, Skipped.from_next (mem_journalRecords.mp hp).1 (hskip (nextSlot_lt _))⟩

/-- R64: the night list as the scan leaves it. -/
theorem scanNight_rebuilt (s : State) :
    (scanNight s).closeSinceStart = false ∧
    (scanNight s).entries = rebuiltNightList (journalRecords s.flash) (scanNight s).night := by
  unfold scanNight
  generalize journalRecords s.flash = rs
  exact ⟨rfl, rfl⟩

theorem scanHolds_rebuilt (s : State) :
    (scanHolds s).audit = rebuiltAudit (journalRecords s.flash) ∧
    (scanHolds s).jam = rebuiltJammed (journalRecords s.flash) s.straps.shf ∧
    (scanHolds s).binFull =
      (s.csq.holds.binFull || tallyFull s.cfg (rebuiltTally (journalRecords s.flash) s.straps.shf)) := by
  unfold scanHolds
  generalize journalRecords s.flash = rs
  exact ⟨rfl, rfl, rfl⟩

theorem sameHolds_reasons {h k : HoldSet} (same : SameHoldsButJournal h k) :
    k.audit = h.audit ∧ k.jam = h.jam ∧ k.binFull = h.binFull :=
  ⟨congrArg (·.audit) same, congrArg (·.jam) same, congrArg (·.binFull) same⟩

/-- R112, R132, R179: the hold reasons that the scan has rebuilt. -/
theorem ScanEnded.reasons {s t : State} (h : ScanEnded s t) :
    t.csq.holds.audit = rebuiltAudit (journalRecords s.flash) ∧
    t.csq.holds.jam = rebuiltJammed (journalRecords s.flash) s.straps.shf ∧
    t.csq.holds.binFull =
      (s.csq.holds.binFull || tallyFull s.cfg (rebuiltTally (journalRecords s.flash) s.straps.shf)) := by
  obtain ⟨haudit, hjam, hfull⟩ := sameHolds_reasons h.holds
  obtain ⟨ha, hj, hf⟩ := scanHolds_rebuilt s
  exact ⟨haudit.trans ha, hjam.trans hj, hfull.trans hf⟩

/-- R179: the audit mark and AUDIT by the newest record of their kinds. -/
theorem ScanEnded.audit {s t : State} (h : ScanEnded s t) :
    let rs := (journalRecords s.flash).map (·.2)
    ((∀ q ∈ rs, q.kind ≠ 10) → t.jnc.auditMark = 0) ∧
    ((∃ q ∈ rs, q.kind = 10) → ∃ r ∈ rs, r.kind = 10 ∧
      (∀ q ∈ rs, q.kind = 10 → q.seq.toNat ≤ r.seq.toNat) ∧ t.jnc.auditMark = r.serial) ∧
    ((∀ q ∈ rs, q.kind ≠ 11) → t.csq.holds.audit = false) ∧
    ((∃ q ∈ rs, q.kind = 11) → ∃ r ∈ rs, r.kind = 11 ∧
      (∀ q ∈ rs, q.kind = 11 → q.seq.toNat ≤ r.seq.toNat) ∧ t.csq.holds.audit = (r.detail == 1)) := by
  obtain ⟨haudit, -, -⟩ := h.reasons
  dsimp only
  rw [h.auditMark, haudit]
  unfold rebuiltMark rebuiltAudit
  refine ⟨fun hn => ?_, fun hx => ?_, fun hn => ?_, fun hx => ?_⟩
  · rw [newestKind_none .audit hn]
  · obtain ⟨p, hp, hm, hk, hmax⟩ := newestKind .audit hx
    exact ⟨p.2, hm, hk, hmax, by rw [hp]⟩
  · rw [newestKind_none .hold hn]
  · obtain ⟨p, hp, hm, hk, hmax⟩ := newestKind .hold hx
    exact ⟨p.2, hm, hk, hmax, by rw [hp]⟩

/-- Settles O19: what SCAN_COMPLETE restores, stages, joins and enters (R64, R109, R112, R166, R178, R179). -/
theorem scanRestoresAndJoins : Obligations.ScanRestoresAndJoins := by
  intro s hp hst har hsync
  dsimp only
  rw [exec_scanComplete hp]
  have hjoin := joined_scanned har.noReadWaits (hst.2 (by rw [hp]; decide))
  have h : ScanEnded s (settleStep (enterHome (joined s))) :=
    hjoin.homed ((enterHome_homed (congrArg (·.phase) hjoin.frame) hjoin.unheld hjoin.reads).of_wch
      (settleStep_enterHome hjoin.unheld))
  generalize settleStep (enterHome (joined s)) = t at *
  obtain ⟨hview, hage, htally, hothers⟩ := scanShafts_own s
  have hshc : t.shc = scanShafts s := congrArg (·.shc) h.frame
  have hnls : t.nls = scanNight s := congrArg (·.nls) h.frame
  have hstraps : t.straps = s.straps := congrArg (·.straps) h.frame
  have hown : ownTally t = rebuiltTally (journalRecords s.flash) s.straps.shf := by
    rw [ownTally, hshc, hstraps]
    exact htally
  obtain ⟨-, hjam, hbin⟩ := h.reasons
  have hfull : t.csq.holds.journalFull =
      (decide (freeSlots s.flash t.jnc.writePtr < 8) || t.jnc.seqCounter == 0xFFFFFFFF) := by
    rw [← show t.flash = s.flash from congrArg (·.flash) h.frame]
    exact h.full
  have hlength : syncLength s = 3 * s.cfg.syncPeriod + (s.straps.adr.toNat - 1) * 20 := by
    unfold syncLength
    rw [hsync]
    rfl
  obtain ⟨hempty, hnewest⟩ := h.pointer
  obtain ⟨hnomark, hmark, hnoaudit, haudit⟩ := h.audit
  have hviewed : ownView t = if rebuiltJammed (journalRecords s.flash) s.straps.shf then .jammed else .free := by
    rw [ownView, hshc, hstraps]
    exact hview
  have hnone := rebuiltTally_count_none (slots := journalRecords s.flash) (own := s.straps.shf)
  have hsome := rebuiltTally_count_some (slots := journalRecords s.flash) (own := s.straps.shf)
  have hmass := rebuiltTally_mass (journalRecords s.flash) s.straps.shf
  unfold countedDeposits at hnone hsome hmass
  refine ⟨t, rfl, congrArg (·.phase) h.frame, ?_, ?_, ?_, hnomark, hmark, hnoaudit, haudit, ?_, ?_, ?_, ?_, ?_, ?_, ?_, ?_, ?_,
    ?_, hfull, ?_, h.held, congrArg (·.ldi.taking) h.frame, h.link, ?_, congrArg (·.draws) h.frame, ?_, h.home, h.reached,
    h.opened⟩
  · exact h.frame.trans (congrArg (fun x : State => { s with
      phase := x.phase, csq := t.csq, wch := t.wch, nls := x.nls, rct := t.rct, ldi := x.ldi, lkc := t.lkc
      shc := x.shc, nck := x.nck, jnc := t.jnc, lms := t.lms, draws := x.draws }) h.frame.symm)
  · rw [hnls]; exact hempty
  · rw [hnls]; exact hnewest
  · rw [hjam]; exact rebuiltJammed_iff _ _
  · rw [hviewed, hjam]
  · rw [hshc]; exact hage
  · rw [hown]; exact hnone
  · rw [hown]; exact hsome
  · rw [hown]; exact hmass
  · rw [hown]; exact hbin
  · rw [hshc]; exact hothers
  · rw [hnls]
    exact (scanNight_rebuilt s).1
  · refine ⟨landedDeposits (journalRecords s.flash) t.nls.night, landedDeposits_ordered _ _, landedDeposits_perm _ _, ?_⟩
    rw [← rebuiltNightList_eq, hnls]
    exact (scanNight_rebuilt s).2
  · rw [h.newest, hnls]
    exact h.staged
  · rw [ClaimAs, hshc]
    unfold scanShafts
    rfl
  · rw [← hlength]
    exact congrArg (·.nck.syncTimer) h.frame

end Sys2Proof.Machine
end
